-- ==== Sys2Proof/Word.lean ====
section
/-! DEFINITION. The word and byte types of the hub and their plainest arithmetic.
Registers are 32 bits wide (R56); bytes are 8 bits. A FIELD of a register is a number below 2^width. -/
namespace Sys2Proof

/-- A 32-bit register, message or header word (R56, R115, R221). -/
abbrev Word := BitVec 32

/-- A byte of a frame, an image or host memory. -/
abbrev Byte := BitVec 8

/-- The unsigned number in bits [lsb + width - 1 : lsb] of `v`. -/
def fieldOf (v lsb width : Nat) : Nat := (v >>> lsb) % 2 ^ width

/-- The field of a word. -/
def Word.fld (w : Word) (lsb width : Nat) : Nat := fieldOf w.toNat lsb width

/-- Bit `n` of a number, as a Bool. -/
def bitOf (v n : Nat) : Bool := (v >>> n) % 2 = 1

/-- A Bool as a one-bit field. -/
def b2n (b : Bool) : Nat := if b then 1 else 0

end Sys2Proof
end

