-- ==== Sys2Proof/Data.lean ====
section
/-! DEFINITION. The plain data that commands carry and State holds: ring frames, descriptors, barrier
messages, fault messages, events. Each is laid out by the table of the spec that its docstring names. -/
namespace Sys2Proof

/-- The six words of a ring frame header (R115, Table 4.9). -/
structure Hdr where
  w0 : Word
  w1 : Word
  w2 : Word
  w3 : Word
  w4 : Word
  w5 : Word
  deriving DecidableEq, Repr, Inhabited

/-- A ring frame without its trailer: header and payload (R115). -/
structure Frame where
  hdr     : Hdr
  payload : List Byte
  deriving DecidableEq, Repr, Inhabited

/-- A 32-byte descriptor as read from host memory, eight little-endian words (R68, Table 3.1). -/
structure Desc where
  d0 : Word
  d1 : Word
  d2 : Word
  d3 : Word
  d4 : Word
  d5 : Word
  d6 : Word
  d7 : Word
  deriving DecidableEq, Repr, Inhabited

/-- A barrier message of eight words (R221, Tables 8.9 and 8.10). -/
structure BarMsg where
  m0 : Word
  m1 : Word
  m2 : Word
  m3 : Word
  m4 : Word
  m5 : Word
  m6 : Word
  m7 : Word
  deriving DecidableEq, Repr, Inhabited

/-- A fault message, its fields as Table 16.3 lays them out. -/
structure FaultMsg where
  source    : Nat
  kind      : Nat
  master    : Nat
  access    : Nat
  conseq    : Bool
  injected  : Bool
  react     : Bool
  addrValid : Bool
  addr      : Nat
  time      : Nat
  detail    : Nat
  deriving DecidableEq, Repr, Inhabited

/-- An entry for the event queue before it is written (R87, Table 3.12). `origin` tells the sources of one
kind apart (R66: events of the same source and kind merge). -/
structure Ev where
  kind    : Nat
  func    : Nat
  ha      : Bool
  origin  : Nat
  count   : Nat
  cookie  : Nat
  time    : Nat
  detail0 : Nat
  detail1 : Nat
  deriving DecidableEq, Repr, Inhabited

/-- A host access to BAR2 (R46, R50): a read or a write of `len` bytes at an offset, and the data of a write. -/
structure Bar2 where
  wr   : Bool
  a    : BitVec 16
  len  : Nat
  data : BitVec 64
  deriving DecidableEq, Repr, Inhabited

/-- A register or window access of the management core (master 0x41): its bytes, and where it goes (R202). -/
structure CoreAcc where
  addr : Nat
  len  : Nat
  data : List Byte
  deriving DecidableEq, Repr, Inhabited

end Sys2Proof
end

