-- ==== Sys2Proof/Syntax.lean ====
section
/-! DEFINITION. The commands of the hub: one constructor for each row of spec/opcode_table.json, in its order, with the row's operands. -/
namespace Sys2Proof

/-- A command. Each docstring gives the rule that describes it. Operands that are not a field of the command itself say what the outside showed: what
a read found, what a wire carried. -/
inductive Instr where
  /-- R17: No valid block for 10 µs on any barrier channel; the link is declared lost, F-die endpoints become unreachable, a barrier fault is
      raised and the field safe time starts. -/
  | barrierLinkLost (hEnd : Bool) (fEnd : Bool)
  /-- R17: The field safe time after a barrier loss expires; every FIO pin takes its SAFE state and feeds with SAFE 1 go OFF. -/
  | fieldSafeTimeExpiry
  /-- R28: A write of 1 to PWM_REST.REQ requests Rest; the hub refuses with a reason or begins entry. -/
  | restRequest
  /-- R30: A write of 0 to PWM_REST.REQ starts the exit from Rest. -/
  | restExitRequest
  /-- R30: All units are running again within 40 µs of the trigger; held requests and doorbells are served. -/
  | restExitComplete
  /-- R47: A host read or write through BAR0 is performed locally or crosses the barrier for a field-die block. -/
  | bar0Access (msix : Bool) (wr : Bool) (a : BitVec 24) (len : Nat) (data : List Byte)
  /-- R51: A host load or store in BAR4 is mapped through its window to a ring address and sent as a remote access, or refused. -/
  | bar4Access (wr : Bool) (a : BitVec 30) (be : List Bool) (data : List Byte)
  /-- R62: A write of a submission queue tail doorbell makes descriptors available, or is ignored with an error. -/
  | sqTailDoorbell (r : Bar2)
  /-- R64: A write of a completion queue head doorbell releases entries and re-arms the queue. -/
  | cqHeadDoorbell (r : Bar2)
  /-- R64: A write of the event queue head doorbell releases event entries and re-arms the queue. -/
  | eqHeadDoorbell (r : Bar2)
  /-- R53: A write to BRG_WIN_n changes a BAR4 window before any later host request is accepted. -/
  | brgWinWrite (n : Fin 256) (v : Word)
  /-- R45: A write to BRG_VEP_v sets a virtual endpoint, or is refused for an out-of-range target. -/
  | brgVepWrite (v : Fin 592) (w : Word)
  /-- R55: A write of 1 to BLOCK_LOCK.SET locks every RWL field of the block until chip reset. -/
  | blockLockSet (b : Fin 23)
  /-- R56: A write to a register without behaviour of its own sets its fields, committing 64-bit pairs on the low word. -/
  | registerWrite (a : BitVec 24) (v : Word)
  /-- R59: A write setting EN of a submission, completion or event queue enables it with head and tail 0, or is refused. -/
  | queueEnable (kind : Fin 3) (q : Fin 64) (v : Word)
  /-- R91: Clearing EN of a submission queue stops fetching; started descriptors complete and IDLE then reads 1. -/
  | sqDisable (q : Fin 64)
  /-- R67: The hub fetches a burst of available descriptors from a served submission queue and starts them. -/
  | descriptorFetch (q : Fin 64) (ds : List Desc)
  /-- R86: A failed descriptor fetch halts the submission queue and posts QUEUE_ERROR FETCH_DMA. -/
  | fetchDmaFailure (q : Fin 64)
  /-- R70: A SEND_FRAME descriptor is checked, the frame read from host memory and sent on both paths or delivered locally. -/
  | sendFrame (q : Fin 64) (read : Option (List Byte))
  /-- R74: A posted remote write is sent as a TC5 request and completes once it has left the hub. -/
  | remoteWrite (from_ : Sum (Fin 64) CoreAcc) (read : Option (List Byte))
  /-- R72: A remote read is sent as a TC5 request and completes when the data is in host memory or the access fails. -/
  | remoteRead (from_ : Sum (Fin 64) CoreAcc) (ok : Bool)
  /-- R72: A non-posted remote write completes when the target acknowledges it or the access fails. -/
  | remoteWriteAck (from_ : Sum (Fin 64) CoreAcc) (read : Option (List Byte))
  /-- R75: A FENCE stops its queue until every covered posted write has been settled. -/
  | fence (q : Fin 64)
  /-- R71: A LAUNCH_AT descriptor schedules a frame at a launch time, or completes INVALID_FIELD or LAUNCH_LATE. -/
  | launchAt (q : Fin 64) (read : Option (List Byte))
  /-- R241: A pending launch time is reached and the frame copies leave their ports within 3 ns. -/
  | launchTimeReached
  /-- R76: A CYCLIC_MAP descriptor creates, replaces or removes a map after checks, effective at the next cycle start. -/
  | cyclicMap (q : Fin 64)
  /-- R80: An RX_BUFFER descriptor adds a receive buffer to its queue's pool. -/
  | rxBuffer (q : Fin 64) (ok : Bool)
  /-- R82: An HA_REPLY descriptor delivers a decision to an outstanding function request, or completes HA_STALE. -/
  | haReply (q : Fin 64)
  /-- R83: A NOP descriptor completes at once with SUCCESS. -/
  | nop (q : Fin 64)
  /-- R78: At D_N or S_N+2 an input slot still without its image is written with MISSING and counted. -/
  | inputMapMissing (hub : Fin 128) (n : Word)
  /-- R79: At the fetch point the hub reads an output slot header, data and header, and sends the slice or the last accepted one stale. -/
  | outputMapFetch (id : Fin 256) (n : Word) (r : Option (Nat × List Byte × Nat))
  /-- R81: A record held 10 µs without a buffer is dropped, counted and an RX_NOBUF event posted. -/
  | rxRecordHoldTimeout (t : Fin 8)
  /-- R88: A failed write of a completion or event entry halts that queue and posts QUEUE_ERROR WRITE_DMA. -/
  | completionWriteFailure (q : Fin 65)
  /-- R90: MOD.TIMER passes since the oldest unsignalled entry and the armed queue signals its vector. -/
  | interruptTimerExpiry (q : Fin 65)
  /-- R92: A function level reset, hot reset or PCIe link loss resets the PCI block, disables queues and removes maps. -/
  | pcieReset (kind : Fin 3)
  /-- R439: PERST_N deasserts and the PCIe endpoint trains its link and answers configuration requests. -/
  | perstDeassert
  /-- R108: A write of RNG_PCFG_p.EN takes the port to DISABLED or from DISABLED to DETECT. -/
  | portEnableWrite (p : Fin 2) (en : Bool)
  /-- R108: Setting or clearing PRBS_MODE or LPBK moves the port into TEST or back to DETECT. -/
  | portTestModeWrite (p : Fin 2) (prbs : Bool) (lpbk : Fin 4)
  /-- R108: A write of RNG_PCMD_p.RETRAIN sends RESTART for 10 µs and retrains at full rate. -/
  | retrain (p : Fin 2)
  /-- R108: The 10 µs of RESTART after RETRAIN end and the port enters DETECT. -/
  | restartPeriodEnd (p : Fin 2)
  /-- R108: Signal on all received lanes for 10 µs moves the port from DETECT to ACQUIRE. -/
  | portSignalDetected (p : Fin 2)
  /-- R112: An incoming rate differing from the port's own in DETECT is taken when FALLBACK_EN is 1. -/
  | portRateDetected (p : Fin 2) (rate : Fin 2)
  /-- R108: CDR and block lock on both lanes fix polarity and move the port to ALIGN. -/
  | portBlockLock (p : Fin 2) (inv0 : Bool) (inv1 : Bool)
  /-- R108: AM lock on both lanes fixes lane order and deskew and moves the port to TRAIN, or to FAULT with DESKEW. -/
  | portAmLock (p : Fin 2) (log0 : Fin 2) (log1 : Fin 2) (skew : Nat)
  /-- R104: A TRAIN_REQ with a new SEQ is applied to the transmitter taps and answered with TRAIN_STS. -/
  | trainReqReceived (p : Fin 2) (l : Fin 2) (c : BitVec 20)
  /-- R105: A TRAIN_STS echoing the previous SEQ lets the receiver send its next request. -/
  | trainStsReceived (p : Fin 2) (l : Fin 2) (c : BitVec 20)
  /-- R105: A lane reaches its required eye margin and starts sending TRAIN_DONE. -/
  | laneEyeReached (p : Fin 2) (l : Fin 2) (eyeH : Nat) (eyeV : Nat)
  /-- R108: TRAIN_DONE sent and received on both lanes moves the port to CONFIG. -/
  | trainDoneReceived (p : Fin 2) (l : Fin 2)
  /-- R113: A received CONFIG is checked; a compatible one is answered with CONFIG_ACK, another sends the port to FAULT. -/
  | configReceived (p : Fin 2) (c : BitVec 20)
  /-- R108: CONFIG_ACK sent and received takes the port to ACTIVE, after FEC lock when FEC is on. -/
  | configAckReceived (p : Fin 2)
  /-- R108: FEC lock not reached within 100 µs sends the port to FAULT with cause FEC. -/
  | fecLockTimeout (p : Fin 2)
  /-- R108: The training timer reaching TRAIN_TMO sends the port to FAULT with TRAIN_FAIL. -/
  | trainTimeout (p : Fin 2)
  /-- R109: A local condition of Table 4.6 sends the port to FAULT, which sends RF. -/
  | localFaultCondition (p : Fin 2) (l : Fin 2) (c : Fin 6)
  /-- R110: Four consecutive RF ordered sets send the port to FAULT with cause RF, sending idle. -/
  | remoteFaultDetected (p : Fin 2)
  /-- R108: RESTART, TRAIN_REQ or CONFIG received in ACTIVE takes the port to DETECT with PEER_RESTART. -/
  | peerRestartReceived (p : Fin 2)
  /-- R108: FAULT_HOLD elapses and the port returns to DETECT at the rate of R112. -/
  | faultHoldExpiry (p : Fin 2)
  /-- R98: A received AM is checked against the lane's BIP8 and counted on mismatch. -/
  | alignmentMarkerReceived (p : Fin 2) (l : Fin 2) (bip : Byte) (computed : Byte) (corr : Nat) (unc : Nat)
  /-- R120: A ring frame header is checked in order and the frame is admitted, forwarded by cut-through or dropped. -/
  | ringFrameHeaderReceived (p : Fin 2) (d : Hdr) (head : List Byte) (free : Nat) (mac : Nat) (cut : Bool)
  /-- R121: The CRC-32C trailer is checked; good frames are delivered after duplicate discard, bad ones are counted and forwarded stomped. -/
  | ringFrameTrailerReceived (p : Fin 2) (payload : List Byte) (trailer : Word) (full : Bool)
  /-- R126: A write of RNG_INJ_p.HCRC corrupts the HCRC of the next frame sent. -/
  | injectHcrc (p : Fin 2)
  /-- R126: A write of RNG_INJ_p.CRC XORs the trailer of the next frame sent with 1. -/
  | injectCrc (p : Fin 2)
  /-- R126: A write of RNG_INJ_p.SYNC corrupts the sync header of the next block on both lanes. -/
  | injectSync (p : Fin 2)
  /-- R126: A write of RNG_LINJ_p_l.ONE inverts one bit of the lane's next block. -/
  | injectOne (p : Fin 2) (l : Fin 2)
  /-- R134: A write of SPU_INJ_s.ONE inverts one bit on the spur lane. -/
  | spurInjectOne (sp : Fin 4)
  /-- R134: A write of SPU_INJ_s.FCS sends the next spur frame with a bad FCS. -/
  | spurInjectFcs (sp : Fin 4)
  /-- R129: A frame received on a spur is checked and tunnelled as a SPUR frame, or dropped and counted. -/
  | spurFrameReceived (sp : Fin 4) (payload : List Byte) (fcsOk : Bool) (free : Nat) (full : Bool) (mac : Nat)
  /-- R128: A spur gains or loses block lock or fault status and goes up or down. -/
  | spurLinkChange (sp : Fin 4) (block : Bool) (hiber : Bool) (lf : Bool) (rf : Bool) (fec : Bool) (corr : Nat) (unc : Nat)
  /-- R30: A write of SPU_CFG_s.EN enables or disables a spur, leaving Rest when set. -/
  | spurEnableWrite (sp : Fin 4) (v : Word)
  /-- R165: An output port's scheduler starts sending the next frame from its queues. -/
  | frameTransmitStart (p : Fin 10) (mac : Nat)
  /-- R142: A stream table entry with no accepted frame for AGE_MS is freed. -/
  | streamEntryAged (i : Fin 3072)
  /-- R150: Every 100 ms the hub broadcasts its PATH_STATE. -/
  | pathStatePeriodic
  /-- R151: A PATH_STATE updates the link states and the derived ring state. -/
  | pathStateReceived (f : Frame)
  /-- R151: A member silent for 300 ms counts as absent with both links down. -/
  | memberAbsentTimeout (hub : Fin 120)
  /-- R155: A newer SYNC is accepted or ignored under the follow rules and compared for step. -/
  | syncReceived (f : Frame) (stamp : Nat)
  /-- R240: The wait for a second SYNC copy ends and the offset is computed from the copies received. -/
  | offsetWaitTimeout
  /-- R155: After 1.5 cycle times without an accepted SYNC the next SYNC of any PRIO may be followed. -/
  | leadFollowTimeout
  /-- R155: After 3 cycle times without an accepted SYNC the lead is lost, LEAD_HUB reads 0x7F and a LEAD event is posted. -/
  | leadLostTimeout
  /-- R157: The lead records a standby's HEALTH report in RED_HEALTH_k. -/
  | healthReceived (f : Frame)
  /-- R157: The lead clears a health entry silent for 4 × 2^HPER cycles. -/
  | healthEntryTimeout (hub : Fin 120)
  /-- R158: A write of CAND or PRIO in RED_LEADCFG moves the lead machine to LISTEN or OFF. -/
  | leadConfigWrite (v : Word)
  /-- R158: The listen timer expires and the candidate enters LEAD with a new term. -/
  | listenTimerExpiry
  /-- R159: At S_N+1 + C/2 a READY standby takes over, or stays, per the MST decision. -/
  | takeoverDeadline
  /-- R159: At S_N+1 + WCL a standby in HA mode posts its takeover request. -/
  | mstRequest
  /-- R158: A write of RED_LEADCMD.HANDOVER starts a handover to a READY target, or is refused. -/
  | handover (target : Fin 128)
  /-- R163: A write of RED_STFIND.GO looks up a stream key and reports it in RED_STFOUND. -/
  | streamLookup (src : Fin 128) (stream : Fin 4096)
  /-- R168: A missing cell not arrived within TMO is declared lost, its frame dropped and the plane recorded. -/
  | cellLostTimeout (fid : Nat) (q : Fin 80) (cell : Nat)
  /-- R169: A plane chosen for retirement drains and is then marked retired with a fault. -/
  | planeRetireDrained (plane : Fin 4)
  /-- R169: A write of SWC_PLANE.EN takes planes in or out of service, refusing to leave none. -/
  | planeEnableWrite (v : Fin 16)
  /-- R171: Every 10 µs the slowest plane's handshake rate and capacity are reported. -/
  | rateMeasurement (hs : Nat)
  /-- R171: Capacity below FLOOR for 1 ms sets RATE_LOW and raises a switch core fault. -/
  | rateLowTimeout
  /-- R172: A write of SWC_QCFG_q.MIN or RSP_RSV is refused if the pool would fall below 4,096 cells. -/
  | bufferConfigWrite (q : Option (Fin 80)) (v : Word)
  /-- R176: A residue copy not started within TMO_US is dropped or referred to MCR. -/
  | residueTimeout (fid : Nat)
  /-- R179: The hold timer of a HELD port expires and its queues are flushed. -/
  | holdTimerExpiry (p : Fin 10)
  /-- R180: A write of SWC_HOLD_p while HELD applies from the start of the hold. -/
  | holdTimeWrite (p : Fin 10) (v : Word)
  /-- R182: A watermark holdoff ends and one notice covering its crossings is issued. -/
  | watermarkHoldoffExpiry (q : Fin 81)
  /-- R184: A write of SWC_PLANCMD.ADMIT copies the staging registers and starts CYA. -/
  | planAdmit
  /-- R185: The plan checks finish; the plan is admitted or refused and the figures reported. -/
  | cyaCheckDone
  /-- R186: At its launch offset a hub sends its input image and then its output images. -/
  | cyclicLaunch
  /-- R193: A hardware push enters a spill FIFO tail, waits when blocking and full, or is dropped. -/
  | fifoPush (q : Fin 292) (w : Word) (met : Bool)
  /-- R193: A hardware pop takes the oldest visible word, waiting while none is visible. -/
  | fifoPop (q : Fin 292) (met : Bool)
  /-- R195: A packet-closing write writes the length word and makes the packet visible. -/
  | fifoCommit (q : Fin 292) (met : Bool)
  /-- R197: A data-window read pops a word, or at DEPTH 0 returns QLAST and underruns. -/
  | fifoSoftwareRead (q : Fin 292) (met : Bool)
  /-- R198: A data-window write pushes a word non-blocking, dropped when full. -/
  | fifoSoftwareWrite (q : Fin 292) (w : Word) (met : Bool)
  /-- R200: Setting EN allocates the middle or is refused; clearing EN discards all contents. -/
  | fifoEnableWrite (q : Fin 292) (v : Word)
  /-- R213: A REQUEST frame at the target is performed in RNG order, held, retried or discarded. -/
  | requestReceived (f : Frame)
  /-- R212: A RESPONSE completes its outstanding request, or is discarded as late. -/
  | responseReceived (f : Frame)
  /-- R215: A RETRY frees the exchange slot and schedules a resend after a random wait. -/
  | retryReceived (f : Frame)
  /-- R215: The random wait ends and the retried requests are resent in RNUM order. -/
  | retryWaitExpiry (hub : Fin 128) (master : Fin 256)
  /-- R214: The completion deadline of a non-posted access passes and it ends with TIMEOUT. -/
  | completionDeadline (hub : Fin 128) (master : Fin 256) (rnum : BitVec 16)
  /-- R213: An order record without a request for 100 ms is freed. -/
  | orderRecordAged (src : Fin 128) (master : Fin 256)
  /-- R216: A broadcast write is performed after duplicate discard and counted. -/
  | broadcastWriteReceived (f : Frame)
  /-- R218: Every ACK_US the hub sends an ACK frame to each source of performed posted writes. -/
  | ackPeriod
  /-- R218: An ACK settles posted writes of each master up to its RNUM. -/
  | ackReceived (f : Frame)
  /-- R219: An error report for a posted write logs a PWE fault and event and counts the failure. -/
  | errorReportReceived (f : Frame)
  /-- R220: A posted write not settled within PW_US fails with TIMEOUT. -/
  | postedWriteTimeout (hub : Fin 128) (master : Fin 256) (rnum : BitVec 16)
  /-- R224: A CREDIT barrier message updates the credits granted by the far receiver. -/
  | credit (toF : Bool) (m : BarMsg)
  /-- R222: The barrier sends a CREDIT message at least every 10 µs. -/
  | creditSend (toF : Bool)
  /-- R244: The F-die receives a TIME message and steps or steers its field time. -/
  | time (m : BarMsg)
  /-- R244: The H-die sends a TIME message every 1 µs, or at once after a step. -/
  | timeMessagePeriod
  /-- R336: A WAKE barrier message is received, leaving Rest or waking the F-die. -/
  | wake (toF : Bool) (m : BarMsg)
  /-- R373: A FAULT barrier message carries an F-die fault message to the collector. -/
  | fault (m : BarMsg)
  /-- R226: A barrier response ends a waiting field-register request, or asks a resend with BACKOFF. -/
  | rsp (toF : Bool) (m : BarMsg)
  /-- R471: A CYC_IN message adds part of the input image at the H-die. -/
  | cycIn (m : BarMsg)
  /-- R471: A CYC_OUT message adds part of the output image at the F-die. -/
  | cycOut (m : BarMsg)
  /-- R226: A barrier read request is performed on the other die and answered with RSP. -/
  | reqRd (toF : Bool) (m : BarMsg)
  /-- R226: A barrier write request is performed on the other die and answered with RSP. -/
  | reqWr (toF : Bool) (m : BarMsg)
  /-- R223: A STREAM message pushes data into an engine or CAN FIFO, or carries a packet or event to the H-die. -/
  | stream (toF : Bool) (m : BarMsg)
  /-- R418: An IMG_DATA message carries image stream bytes, RESTART or START to the F-die ROM. -/
  | imgData (m : BarMsg)
  /-- R418: An IMG_STAT message reports the F-die ROM or microcode state, or a NACK for resend. -/
  | imgStat (m : BarMsg)
  /-- R222: A barrier message of undefined type or direction is dropped and counted. -/
  | barrierUndefined (toF : Bool) (m : BarMsg)
  /-- R226: A barrier request without response by RSP_US ends with TIMEOUT. -/
  | barrierResponseTimeout (tag : Fin 4096)
  /-- R225: 1 µs after BACKOFF the F-die resends its request. -/
  | backoffResend (tag : Fin 4096)
  /-- R231: A write of TIM_INCFR commits a new increment, or refuses an out-of-range one. -/
  | timIncfrWrite (fr : Word)
  /-- R233: TIM_CMD.STEP adds the signed offset, refused beyond TIM_JUMP unless FORCE. -/
  | timeStep (force : Bool)
  /-- R233: TIM_CMD.SET replaces the time, refused beyond TIM_JUMP unless FORCE. -/
  | timeSet (force : Bool)
  /-- R232: A read of TIM_NOWFR captures the whole current time. -/
  | timeCapture
  /-- R232: A read of FTM_NOWFR captures the whole field time. -/
  | fieldTimeCapture
  /-- R234: A write of TIM_CYCLE.EN starts or stops cycles, or is refused. -/
  | cycleConfigWrite (v : Word)
  /-- R234: The time reaches S_N and cycle N starts, with its SYNC, reports and plan changes. -/
  | cycleStart
  /-- R245: The field time reaches a cycle start on the F-die. -/
  | fieldCycleStart
  /-- R246: No TIME message for 10 µs puts the F-die in holdover. -/
  | fieldHoldover
  /-- R243: A read of a PTP ID register fixes the head stamp entry. -/
  | ptpFifoReadId (sp : Fin 4) (tx : Bool)
  /-- R243: A read of a PTP SH register removes the head stamp entry. -/
  | ptpFifoReadSh (sp : Fin 4) (tx : Bool)
  /-- R252: A write of MAR_CEN_c starts or stops engines of a cluster in one field clock. -/
  | clusterEnableWrite (c : Fin 16) (v : Word)
  /-- R253: A write of MAR_EPIN_n sets the engine's pin groups, or is refused. -/
  | pinWindowWrite (n : Fin 128) (v : Word)
  /-- R254: A write of FIO_CFG_n sets the pin's driver and modes, or is refused. -/
  | fioCfgWrite (n : Fin 256) (v : Word)
  /-- R255: A write of FIO_SAFE.CLR returns pins to their drivers when the barrier is up. -/
  | safeClear
  /-- R256: FVIO_b leaving its range sets the bank's outputs to high impedance and inputs to 0. -/
  | fvioOutOfRange (b : Fin 8) (mv : BitVec 13)
  /-- R257: An accepted change of an input level sets RISE or FALL. -/
  | inputLevelChange (l : Fin 256) (v : Bool)
  /-- R263: A write to a string set register sets strings at one field clock. -/
  | stringSoftwareSet (r : Fin 18) (v : Word) (met : Word)
  /-- R263: A write to a string clear register clears strings at one field clock. -/
  | stringSoftwareClear (r : Fin 18) (v : Word) (met : Word)
  /-- R267: At the capture instant engine packets, bank inputs and filter slices are written into the input image. -/
  | captureInstant (n : Word)
  /-- R268: A write of MAR_EIMGI_n or MAR_EIMGO_n sets a slice, or is refused. -/
  | imageSliceConfigWrite (n : Fin 128) (out : Bool) (v : Word)
  /-- R269: At S_N + IMGAPP the output image is applied to banks and CAN buffers. -/
  | bankImageApply (n : Word)
  /-- R274: A write of FIO_BSET_b sets outputs of the bank. -/
  | bankOutputSet (b : Fin 8) (v : Word)
  /-- R274: A write of FIO_BCLR_b clears outputs of the bank. -/
  | bankOutputClear (b : Fin 8) (v : Word)
  /-- R289: A write to instruction memory is performed, or refused on the active bank. -/
  | instructionMemoryWrite (c : Fin 16) (k : Fin 2) (w : Fin 512) (v : Word)
  /-- R280: JMP steps its source, compares with K and jumps or falls through. -/
  | jmp (n : Fin 128)
  /-- R278: MOV combines a source value into a destination, including TCMP forms. -/
  | mov (n : Fin 128)
  /-- R284: PULL takes the oldest visible word of MAR_TXQ_n, stalling while none. -/
  | pull (n : Fin 128) (met : Bool)
  /-- R284: PUSH pushes a register into MAR_RXQ_n, stalling or dropping when full. -/
  | push (n : Fin 128) (met : Bool)
  /-- R284: PUSH_LEN writes the length word and commits the packet. -/
  | pushLen (n : Fin 128) (met : Bool)
  /-- R283: SHIFT_OUT moves bits from OSR to pins, refilling blocking. -/
  | shiftOut (n : Fin 128)
  /-- R283: SHIFT_IN moves input bits into ISR, pushing blocking. -/
  | shiftIn (n : Fin 128) (levels : List Word)
  /-- R260: SHIFT_OUT_NB shifts out and reloads the last word when the FIFO is dry. -/
  | shiftOutNb (n : Fin 128)
  /-- R260: SHIFT_IN_NB shifts in and discards the word when the FIFO is full. -/
  | shiftInNb (n : Fin 128) (levels : List Word)
  /-- R282: SET_PINS sets output group pins from VALUE. -/
  | setPins (n : Fin 128)
  /-- R285: WAIT_PIN waits for a pin level or edge, optionally until TCMP. -/
  | waitPin (n : Fin 128)
  /-- R285: The field time reaches TCMP during WAIT_PIN with UNTIL and the wait ends with TMO 1. -/
  | waitPinUntilTimeout (n : Fin 128)
  /-- R261: SET_STRING sets a string at the end of the clock. -/
  | setString (n : Fin 128) (met : Bool)
  /-- R261: CLR_STRING clears a string at the end of the clock. -/
  | clrString (n : Fin 128) (met : Bool)
  /-- R261: WAIT_STRING waits for a string level, optionally taking it. -/
  | waitString (n : Fin 128)
  /-- R286: AT waits until the field time reaches TCMP. -/
  | engAt (n : Fin 128) (met : Bool)
  /-- R286: TCMP is reached and AT performs ACT, the IN sample and the ADV addition. -/
  | atAct (n : Fin 128) (met : Bool)
  /-- R287: STAMP writes the current field time or EDGE into X and Y. -/
  | stamp (n : Fin 128)
  /-- R287: IRQ sets the engine IRQ bit and sends one event message. -/
  | irq (n : Fin 128)
  /-- R290: SYNC waits at a swap point while a swap is pending, else acts as NOP. -/
  | sync (n : Fin 128)
  /-- R290: A write of MAR_CCTL_c.SWAP sets SWAP_PEND, swapping at once if no engine runs. -/
  | swap (c : Fin 16)
  /-- R291: A write of FORCE_SWAP stops new two-clock instructions and forces a swap. -/
  | forceSwap (c : Fin 16)
  /-- R291: No engine remains inside a two-clock instruction; banks swap and waiting engines are abandoned. -/
  | forcedSwapEffect (c : Fin 16)
  /-- R295: A write of CAN_CTL_n.MODE is recorded or refused. -/
  | canModeWrite (n : Fin 16) (v : Word)
  /-- R295: At bus idle or end of frame the written mode takes effect. -/
  | canModeEffect (n : Fin 16)
  /-- R295: 11 recessive bits complete bus integration and the controller takes part. -/
  | busIntegrationDone (n : Fin 16)
  /-- R297: A write of bit timing registers is accepted in INIT, or refused. -/
  | canTimingWrite (n : Fin 16) (which : Fin 3) (v : Word)
  /-- R299: A validated frame is offered to the filters and sent to its destination. -/
  | canFrameReceived (n : Fin 16) (e0 : Word) (e1 : Word) (bytes : List Byte) (time : Nat)
  /-- R311: A recessive res bit after FDF causes a protocol exception or form error. -/
  | canProtocolException (n : Fin 16)
  /-- R303: A write of CAN_n_RXQGET_j releases elements, or is ignored. -/
  | rxqGetWrite (n : Fin 16) (j : Fin 2) (v : Word)
  /-- R305: REQ on a FREE or DONE buffer checks it and makes it WAIT_TIME or PENDING. -/
  | txReq (n : Fin 16) (k : Fin 32)
  /-- R308: CANCEL ends a waiting buffer, or marks an ACTIVE one CANPEND. -/
  | txCancel (n : Fin 16) (k : Fin 32)
  /-- R306: At an SOF the controller chooses a PENDING buffer and makes it ACTIVE. -/
  | canCommitPoint (n : Fin 16) (time : Nat)
  /-- R306: An ACTIVE frame sent without error enters DONE with SENT. -/
  | canFrameSent (n : Fin 16) (loop : Option Nat)
  /-- R306: An ACTIVE buffer losing arbitration returns to PENDING or ends. -/
  | canArbitrationLost (n : Fin 16)
  /-- R310: A bus error updates TEC and REC and the error state. -/
  | canError (n : Fin 16) (code : Fin 7) (dataPhase : Bool) (odd : Bool) (loop : Option Nat)
  /-- R307: A buffer's launch time is reached and it becomes PENDING. -/
  | canLaunchTimeReached (n : Fin 16) (k : Fin 32)
  /-- R307: LATE_US after the launch time without SOF sets LATE and discards or continues. -/
  | canLateTimeout (n : Fin 16) (k : Fin 32)
  /-- R309: A free pool buffer pops a packet from CAN_TSQ_n and is requested. -/
  | streamPoolLoad (n : Fin 16)
  /-- R310: A write of CAN_CMD_n.BO_RECOVER starts bus-off recovery. -/
  | boRecover (n : Fin 16)
  /-- R310: 128 occurrences of 11 recessive bits end bus-off with counters 0. -/
  | busOffRecoveryDone (n : Fin 16)
  /-- R311: Bus dominant for DOM_US sets DOMINANT and the DOM event. -/
  | dominantTimeout (n : Fin 16)
  /-- R320: FGL_PWR.REQ RUN returns the F-die to RUN. -/
  | powerRequestRun
  /-- R320: FGL_PWR.REQ STANDBY enters STANDBY, or is refused. -/
  | powerRequestStandby
  /-- R320: FGL_PWR.REQ SLEEP enters SLEEP, or is refused. -/
  | powerRequestSleep
  /-- R322: During wake from SLEEP the field clock locks and the barrier starts training. -/
  | fieldClockLocked
  /-- R322: A write of BAR_CMD.FWAKE sends a wake pattern on barrier channel 0. -/
  | fwake
  /-- R324: A write of CAN_XCV_n.MODE changes the transceiver mode, or is refused. -/
  | transceiverModeWrite (n : Fin 16) (m : Fin 4)
  /-- R324: The 50 µs GO_SLEEP timer expires and the transceiver enters SLEEP. -/
  | goSleepTimerExpiry (n : Fin 4)
  /-- R324: A wake-up pattern wakes the transceiver to STANDBY or NORMAL. -/
  | wupDetected (n : Fin 4)
  /-- R324: FVCAN below 4.5 V takes the transceiver to STANDBY. -/
  | fvcanUndervoltage
  /-- R18: FVSUP loss turns off transceivers and feeds and the barrier is lost. -/
  | fvsupLost
  /-- R327: A write of CAN_NMCFG_n.EN starts or stops network management, or is refused. -/
  | nmEnableWrite (n : Fin 16) (v : Word)
  /-- R327: A write of NEED moves network management toward NORMAL or READY_SLEEP. -/
  | nmNeedWrite (n : Fin 16) (b : Bool)
  /-- R327: KA_MS elapses in NORMAL and the keep-alive buffer is requested. -/
  | keepAliveTimer (n : Fin 16)
  /-- R327: The ready-sleep timer expires and PREPARE_SLEEP is entered. -/
  | readySleepTimerExpiry (n : Fin 16)
  /-- R327: The prepare timer expires and the bus sleeps. -/
  | prepareSleepTimerExpiry (n : Fin 16) (ka : Bool)
  /-- R330: The Groom samples a source, filters it and tests its rules. -/
  | groomSample (samples : List (Fin 25 × Word))
  /-- R331: A write of Groom input or rule configuration is applied or refused. -/
  | groomConfigWrite (rule : Bool) (i : Fin 32) (v : Word)
  /-- R341: Every 10 µs the channel measures VIN, VOUT and current and updates the FET model. -/
  | feedMeasurement (n : Fin 4) (vin : Fin 1024) (vout : Fin 1024) (uv : Nat)
  /-- R344: Every 100 µs the sense diode is read, a SENSE fault on out-of-range. -/
  | diodeReading (n : Fin 4) (t : Int)
  /-- R342: The shunt voltage reaches V_LIM and the limit loop and fault timer start. -/
  | limitingOnset (n : Fin 4)
  /-- R342: The shunt voltage stays below 0.9 V_LIM for 50 µs and limiting ends. -/
  | limitingEnd (n : Fin 4)
  /-- R343: The fault timer reaches FT_US and the channel faults. -/
  | faultTimerExpiry (n : Fin 4) (ended : Bool)
  /-- R348: A write of FED_CFG_n.EN starts the channel in WAIT, or stops it. -/
  | feedEnableWrite (n : Fin 4) (v : Word)
  /-- R348: VIN in range for 10 ms moves WAIT to RAMP. -/
  | inputGood (n : Fin 4)
  /-- R348: The ramp timer expires and the channel faults with GATE_TIMEOUT. -/
  | rampTimerExpiry (n : Fin 4)
  /-- R348: The gate is fully on and the channel enters ON. -/
  | fullyOn (n : Fin 4)
  /-- R349: The PG delay elapses without limiting and PG is asserted. -/
  | pgDelayExpiry (n : Fin 4) (limits : Bool)
  /-- R348: 10 s in ON without a fault clears ATTEMPTS. -/
  | faultFreePeriod (n : Fin 4)
  /-- R353: COOL ends and the channel retries or latches. -/
  | coolEnd (n : Fin 4) (off : Bool)
  /-- R348: VIN leaving UV to OV returns the channel to WAIT. -/
  | vinOutOfRange (n : Fin 4)
  /-- R352: Reverse current in a shared pair returns the channel to WAIT. -/
  | reverseCurrent (n : Fin 4)
  /-- R350: FEED_WARN_N is released after its 100 µs minimum. -/
  | warnHoldExpiry
  /-- R364: A scrub read checks the next valid word of an instance. -/
  | memoryScrubRead (i : Fin 256) (found : Fin 3) (again : Bool) (vote : Bool)
  /-- R362: A merge entry is written back after 1 µs, completion or eviction. -/
  | mergeWriteBack (i : Fin 256) (found : Fin 3)
  /-- R362: A write of MEM_CMD.FLUSH drains every merge buffer. -/
  | memoryFlush
  /-- R365: A write of MEM_IRMP_i_k enables or clears a remap entry, or is refused. -/
  | remapWrite (i : Fin 256) (k : Fin 8) (v : Word)
  /-- R368: ARM makes the next write to the instance inject check bits. -/
  | injectionArm (i : Fin 256) (v : Word)
  /-- R368: REWRITE rewrites ADDR with inverted check bits at once. -/
  | injectionRewrite (i : Fin 256) (v : Word)
  /-- R375: The collector classifies a fault message, records it and acts its reactions. -/
  | faultMessageReceived
  /-- R372: A write of FLT_BRST with GO resets a domain, or is refused. -/
  | blockResetCommand (v : Word)
  /-- R372: A block reset's reset time elapses and the block resumes. -/
  | blockResetDone (d : Fin 64)
  /-- R383: The reaction shadow closes after reset time plus SHADOW_US. -/
  | shadowClose (d : Fin 64)
  /-- R379: REPEAT_MS passes without an acting fault and the step returns to 0. -/
  | ladderStepDecay (src : Fin 768)
  /-- R384: A write of 1 to PEND clears a source, or is refused while ACTIVE. -/
  | pendClear (src : Fin 768)
  /-- R381: A write of FLT_FECSTAT.CLR clears the first-error capture. -/
  | fecClear
  /-- R388: FLT_INJ with GO builds an injected fault at the collector. -/
  | faultInject (v : Word)
  /-- R388: FFL_INJ with GO builds an injected fault at an F-die detector. -/
  | fieldFaultInject (v : Word)
  /-- R431: A rail leaving its operating range raises a SUPPLY fault. -/
  | supplyOutOfRange (rail : Fin 8) (out : Bool)
  /-- R374: A junction above 125 °C raises an OVERTEMP fault. -/
  | junctionOvertemp (field : Bool) (t : BitVec 16)
  /-- R374: A PLL out of lock or a failed RC oscillator raises a CLOCK fault. -/
  | clockLoss (n : Fin 13) (lost : Bool)
  /-- R374: The management core watchdog expires and raises a fault. -/
  | watchdog
  /-- R398: A write of SPL_FCFG_f EN or MODE moves the function machine, or is refused. -/
  | functionConfigWrite (f : Fin 16) (v : Word)
  /-- R399: Starting ends and the function enters ON. -/
  | functionStartDone (f : Fin 16)
  /-- R400: The drain ends and the function goes OFF or STARTING. -/
  | functionDrainDone (f : Fin 16)
  /-- R395: A request's deadline passes and it takes its default decision. -/
  | haRequestDeadline (f : Fin 16) (cookie : Word)
  /-- R394: The management core answers a request through its reply port. -/
  | coreHaReply (hub : Fin 128) (f : Fin 16) (cookie : Word) (d : Byte) (arg : BitVec 64)
  /-- R397: An EVENT frame carries a request or reply between peer hubs. -/
  | eventFrameReceived (f : Frame)
  /-- R415: FWU_CMD START opens a session on an inactive slot, or is refused. -/
  | updateStart (slot : Fin 16) (motionLow : Bool) (holdupLow : Bool)
  /-- R415: FWU_CMD PROGRAM erases and programs a chunk into the slot. -/
  | updateProgram
  /-- R415: A chunk's programming and read-back complete, or fail with FLASH. -/
  | programDone (good : Bool)
  /-- R415: FWU_CMD CHECK starts the image checks. -/
  | updateCheck
  /-- R410: The image checks finish and the slot is staged or the session ends. -/
  | checkDone
  /-- R415: FWU_CMD ACTIVATE writes the boot record and switches the image. -/
  | updateActivate (motionLow : Bool) (holdupLow : Bool)
  /-- R416: The new class M image is loaded, checked and started, and TRIAL begins. -/
  | classMImageStarted
  /-- R416: FWU_CMD CONFIRM ends the trial and returns HA-core functions. -/
  | updateConfirm (core expired : Bool)
  /-- R415: FWU_CMD ABORT closes the session, leaving the slot unchecked. -/
  | updateAbort
  /-- R416: The class M window expires without CONFIRM and the hub falls back. -/
  | confirmWindowExpiry
  /-- R417: No HEALTHY within F_MS and the previous class F slot is sent. -/
  | classFHealthTimeout
  /-- R413: Every 1 ms the lead broadcasts its motion flag to every hub. -/
  | motionBroadcast
  /-- R413: 10 ms without the lead's motion write sets VAL to 1. -/
  | motionTimeout
  /-- R414: A write of FWU_OWNER is performed from the owning hub, or refused. -/
  | ownerWrite (hub : Option (Fin 128)) (v : Word)
  /-- R422: Every PER_S the hub reads every ageing monitor. -/
  | monitorReading (ts : List (BitVec 16)) (rs : List (Fin 30 × BitVec 16))
  /-- R422: Every second the rise of FED_TCYC_n is added to the lifetime total. -/
  | cycleTotalUpdate
  /-- R423: Every SAVE_H hours the ageing record is saved, deferred while HOLDUP_N is low. -/
  | ageingRecordSave (holdupLow : Bool)
  /-- R423: A write of AGE_CMD.SAVE saves the ageing record. -/
  | ageSaveCommand (v : Word) (holdupLow : Bool)
  /-- R424: Every 720 power-on hours a history point is added. -/
  | historyPoint
  /-- R425: Every EST_H hours the remaining life of each monitor and group is estimated. -/
  | lifeEstimate
  /-- R431: A host rail below its threshold or loss of the reference holds chip reset. -/
  | hostRailLoss (rail : Fin 7)
  /-- R433: RST_N held low for 1 µs starts a chip reset. -/
  | rstNAssert
  /-- R433: GLB_RST with GO and KEY starts a chip reset. -/
  | softReset (v : Word)
  /-- R435: GLB_RST with FIELD and GO also resets the F-die. -/
  | fieldReset
  /-- R433: The test controller's reset instruction starts a chip reset. -/
  | jtagReset
  /-- R436: Chip reset releases; straps are sampled and the boot ROM starts. -/
  | chipResetRelease (high : Option Bool) (hubId : Option (Fin 128))
  /-- R436: The class M payload is loaded and the core starts, or the other slot is tried. -/
  | bootImageLoaded
  /-- R432: FVSUP at 8.5 V for 2 ms ends the F-die power-on reset. -/
  | fieldPowerOn
  /-- R437: The barrier link trains up and credits are granted. -/
  | barrierLinkUp (lat : BitVec 16)
  /-- R442: A write of GLB_HUBREQ gives the number to claim. -/
  | hubNumberRequest (v : Word)
  /-- R444: CLAIM is sent again 1 ms after the previous. -/
  | claimResend
  /-- R444: 4 ms without objection numbers the hub and sends JOINED. -/
  | claimTimeout
  /-- R444: A CLAIM is answered with OBJECT or fails a lower claim. -/
  | claimReceived (f : Frame)
  /-- R444: An OBJECT naming the hub's UID fails its claim. -/
  | objectReceived (f : Frame)
  /-- R445: A JOINED updates the membership and frees records of a new UID. -/
  | joinedReceived (f : Frame)
  /-- R445: Every 1 s a numbered hub repeats JOINED. -/
  | joinedPeriod
  /-- R441: A write of GLB_CTL.READY hands ERROR_N to R386. -/
  | readyWrite (v : Word)
  /-- R29: Rest entry finishes: PWM_REST.STATE passes from ENTERING to REST, the PCIe link goes to L1.2, spur lanes power down and CD_7 stops. -/
  | restEntryComplete
  /-- R256: FVIO_b returns to the range that VSEL selects, so the bank drives its outputs again and PRESENT and MISMATCH are updated. -/
  | fvioInRange (b : Fin 8) (mv : BitVec 13)
  /-- R287: An engine issues the NOP instruction, which occupies max(1, COUNT) field clocks and changes nothing. -/
  | engineNop (n : Fin 128)
  /-- R275: An engine issues opcode 0x00 or 0x14 to 0x1F and halts with ILLEGAL_OP. -/
  | illegalInstruction (n : Fin 128)
  /-- R415: The flash write of the boot record after ACTIVATE completes, and for class C the engine leaves SWITCHING for IDLE. -/
  | bootRecordWritten
  /-- R125: A lane or spur PRBS checker gains lock after 64 error-free bits or loses it on 16 errors within 64 bits, and PRBSLOCK changes. -/
  | prbsLockChange (u : Fin 8) (lock : Bool) (errors : Nat)
  /-- R100: After CONFIG_ACK with FEC on, the lanes reach FEC lock and the port enters ACTIVE. -/
  | fecLockAcquired (p : Fin 2)
  /-- R33: The PCIe link comes up, PCI_LINK.UP and the HOST port go up, and HA-host functions return to their mode once the event queue is enabled. -/
  | pcieLinkUp (width : Fin 3) (speed : Fin 4)
  /-- R423: HOLDUP_N rises, HOLDUP_LOW clears and a deferred ageing-record save is performed. -/
  | holdupNRise
  /-- R174: A frame copy finishes leaving its output port: the queue depth falls and the cells are freed once the last copy is sent. -/
  | frameSent (p : Fin 10)
  deriving DecidableEq, Repr

end Sys2Proof
end

