-- ==== Sys2Proof/Config.lean ====
section
/-! DEFINITION. What an implementation of the hub fixes and the spec leaves open: the reset values that
the spec does not give (each named in the assumption log), and the FREE VALUES, which are opaque: nothing in
Lean can evaluate them. -/
namespace Sys2Proof.Config

/-- The block revision of every header: R55 says only that it is never 0. DESIGN CHOICE (log 2). -/
def blockRev : Nat := 1

/-- The UID that the part's one-time-programmable memory holds (Table 20.8): no value is given.
DESIGN CHOICE (log 3). -/
def uid : Nat := 0

/-- GLB_IDENT.VARIANT of the part modelled at reset: 0 is the BH-7260 (R6). DESIGN CHOICE (log 4). -/
def variant : Nat := 0

/-- A value that the spec leaves open, indexed by the state's free-value counter: UNCONSTRAINED (log 5). -/
opaque freeValue : Nat → Nat

/-- The public key in slot k of one-time-programmable storage, as a point of P-384 (R408): written at manufacture, UNCONSTRAINED (log 42). -/
opaque publicKey : Nat → Nat × Nat

/-- The value of sensing monitor m at manufacture, in one-time-programmable storage and in the monitor's own units (R421): written at manufacture,
UNCONSTRAINED (log 42). -/
opaque manufacture : Nat → Nat

/-- The logarithm of a history point's 0 in the ageing estimate (R425): no power law passes through it and the spec states none, UNCONSTRAINED (log 43). -/
opaque logZero : Rat

/-- The standard error of the monthly rise that the ageing estimate takes from daily rises (R425): the spec names no estimator, UNCONSTRAINED
(log 43). -/
opaque riseSigma : List Int → Rat

/-- What a quotient by zero gives, as a function of the dividend: the spec states none (a shunt, a time constant, a wear limit or a spread of 0),
UNCONSTRAINED (log 35). -/
opaque byZero : Rat → Rat

end Sys2Proof.Config
end

