-- ==== Sys2Proof/Machine/Bits.lean ====
section
/-! DEFINITION. Bit fields, byte order and the check sums of frames: byte and word conversions (R68, R115, R210),
the header CRC-16 (R118) and the CRC-32C (R119). -/
namespace Sys2Proof.Machine

/-- `n` bytes of `v`, least significant first (R68, R210). -/
def leBytes : Nat → Nat → List Byte
  | 0, _ => []
  | n + 1, v => BitVec.ofNat 8 v :: leBytes n (v / 256)

/-- `n` bytes of `v`, most significant first (R115). -/
def beBytes (n v : Nat) : List Byte := (leBytes n v).reverse

/-- The number whose bytes, least significant first, are the list (R68). -/
def leNat : List Byte → Nat
  | [] => 0
  | b :: bs => b.toNat + 256 * leNat bs

/-- The number whose bytes, most significant first, are the list (R115). -/
def beNat (bs : List Byte) : Nat := leNat bs.reverse

/-- The bytes from offset `o`, `n` of them, zero where the list has ended. -/
def slice (bs : List Byte) (o n : Nat) : List Byte :=
  let t := (bs.drop o).take n
  t ++ List.replicate (n - t.length) 0

/-- The big-endian word at word index `i` of a payload (R115). -/
def beWord (bs : List Byte) (i : Nat) : Nat := beNat (slice bs (4 * i) 4)

/-- `n` copies of 0xFF: read data that Table 8.3 calls all ones. -/
def allOnes (n : Nat) : List Byte := List.replicate n 255

/-- Replace the bytes of `bs` from offset `o` by `new`. -/
def patch (bs : List Byte) (o : Nat) (new : List Byte) : List Byte :=
  bs.take o ++ new.take (bs.length - o) ++ bs.drop (o + new.length)

/-- One bit step of a CRC shifting left. -/
def crc16Step (poly : Nat) (c : Nat) : Nat :=
  let s := (c * 2) % 65536
  if c ≥ 32768 then s ^^^ poly else s

/-- CRC-16 of R118: polynomial 0x1021, initial value 0xFFFF, no reflection, no inversion. -/
def crc16 (bs : List Byte) : Nat :=
  bs.foldl (fun c b => (List.replicate 8 ()).foldl (fun c _ => crc16Step 0x1021 c) (c ^^^ (b.toNat * 256))) 0xFFFF

/-- One bit step of a reflected 32-bit CRC with the polynomial `poly`. -/
def crc32Step (poly c : Nat) : Nat :=
  if c % 2 = 1 then (c / 2) ^^^ poly else c / 2

/-- A reflected 32-bit CRC, initial value all ones, final inversion. -/
def crc32With (poly : Nat) (bs : List Byte) : Nat :=
  0xFFFFFFFF - bs.foldl (fun c b => (List.replicate 8 ()).foldl (fun c _ => crc32Step poly c) (c ^^^ b.toNat)) 0xFFFFFFFF

/-- CRC-32C of R119: polynomial 0x1EDC_6F41 reflected. -/
def crc32c (bs : List Byte) : Nat := crc32With 0x82F63B78 bs

/-- The frame check sequence of an Ethernet frame (R129, R130). -/
def fcs32 (bs : List Byte) : Nat := crc32With 0xEDB88320 bs

/-- The value of a two's complement field of `w` bits. -/
def signed (w v : Nat) : Int := if v < 2 ^ (w - 1) then (v : Int) else (v : Int) - (2 ^ w : Nat)

/-- An integer as a field of `w` bits, two's complement. -/
def unsigned (w : Nat) (i : Int) : Nat := (i % ((2 ^ w : Nat) : Int)).toNat

/-- A quotient; by zero it is a free value (log 35). -/
def quot (a b : Rat) : Rat := if b = 0 then Config.byZero a else a / b

/-- ceil(a / b). -/
def ceilDiv (a b : Nat) : Nat := (a + b - 1) / b

/-- Whether every element of the list is `true`. -/
def allTrue (l : List Bool) : Bool := l.all id

/-- The list with element `i` replaced. -/
def putAt {α : Type} (l : List α) (i : Nat) (v : α) : List α := l.set i v

/-- A value in a list of (key, value) pairs. -/
def aget {α : Type} (l : List (Nat × α)) (k : Nat) (d : α) : α :=
  match l with
  | [] => d
  | (a, v) :: r => if a = k then v else aget r k d

/-- Whether a key is present. -/
def ahas {α : Type} (l : List (Nat × α)) (k : Nat) : Bool := l.any fun e => e.1 == k

/-- The list without a key. -/
def adel {α : Type} (l : List (Nat × α)) (k : Nat) : List (Nat × α) := l.filter fun e => e.1 != k

/-- Insert in rising key order. -/
def ains {α : Type} (l : List (Nat × α)) (k : Nat) (v : α) : List (Nat × α) :=
  match l with
  | [] => [(k, v)]
  | (a, w) :: r => if k < a then (k, v) :: (a, w) :: r else (a, w) :: ains r k v

/-- The list with the value of a key replaced or added, in rising key order. -/
def aput {α : Type} (l : List (Nat × α)) (k : Nat) (v : α) : List (Nat × α) := ains (adel l k) k v

/-- The elements of a list with their indexes from `n`. -/
def indexed {α : Type} (l : List α) (n : Nat := 0) : List (Nat × α) :=
  match l with
  | [] => []
  | a :: r => (n, a) :: indexed r (n + 1)

/-- The numbers 0 to n − 1. -/
def upto (n : Nat) : List Nat := List.range n

/-- Remove the first element that satisfies the test. -/
def dropFirst {α : Type} (p : α → Bool) : List α → List α
  | [] => []
  | a :: r => if p a then r else a :: dropFirst p r

/-- Replace the first element that satisfies the test. -/
def mapFirst {α : Type} (p : α → Bool) (f : α → α) : List α → List α
  | [] => []
  | a :: r => if p a then f a :: r else a :: mapFirst p f r

end Sys2Proof.Machine
end

