-- ==== Sys2Proof/Machine/State.lean ====
section
/-! DEFINITION. The state of the hub as plain data: the host die, the field die, and the commands that wait. -/
namespace Sys2Proof.Machine

/-- A register file: the fields that no longer hold their reset value, as (bit address, value) pairs in rising
order. The bit address is 8 × BAR0 byte address + lsb; an unlisted field reads its reset value. -/
abbrev Regs := List (Nat × Nat)

/-- One field of a register: its BAR0 byte address, its lowest bit, its width and its reset value. -/
structure Fld where
  addr  : Nat
  lsb   : Nat
  width : Nat
  reset : Nat
  deriving DecidableEq, Repr

/-! ### Host queues (chapter 3) -/

/-- A descriptor that the hub has fetched and not yet completed (R67). `phase`: 0 not begun, 1 begun, 2 done. `dmaOk`: the write of its data to host
memory succeeds (Table 3.10, DMA_ERROR). -/
structure Started where
  ser    : Nat
  desc   : Desc
  slot   : Nat
  phase  : Nat
  status : Nat
  result : Nat
  dmaOk  : Bool
  deriving DecidableEq, Repr

/-- The hub's side of one submission queue beyond its registers. -/
structure SqCtx where
  q       : Nat
  started : List Started
  stalled : Bool
  deriving DecidableEq, Repr

/-- The hub's side of a completion queue (0 to 63) or the event queue (64) beyond its registers:
the released head, the unsignalled entries and when the oldest of them was written (R64, R90). -/
structure CqCtx where
  q     : Nat
  head  : Nat
  unsig : Nat
  since : Nat
  deriving DecidableEq, Repr

/-- A posted write kept until it is settled (R217). `hub` 127: a broadcast write, until this hub's own copy is performed (R37); 128: a write to this hub's own
endpoints. `wait`: RETRY received, waiting to be resent (R215). `slot`: its place in the posted-write store (Table 15.1). `fid`: the stored frame of its first
send, until that has left the hub; `time`: when it left (R74, R87, R220). -/
structure PostedW where
  ser     : Nat
  master  : Nat
  hub     : Nat
  rnum    : Nat
  raddr   : Nat
  data    : List Byte
  time    : Nat
  orig    : Nat
  resent  : Bool
  wait    : Bool
  resends : Nat
  slot    : Nat
  fid     : Option Nat
  deriving DecidableEq, Repr

/-- A failed posted write that no FENCE has counted yet (R74, R75). -/
structure PwFail where
  ser    : Nat
  master : Nat
  deriving DecidableEq, Repr

/-- A posted error report that arrived, until the ACK that covers it (R218). -/
structure PwReport where
  hub    : Nat
  master : Nat
  rnum   : Nat
  deriving DecidableEq, Repr

/-- A pending LAUNCH_AT (R71): its time, its stored frame, and its place among the 256 of the launch table. -/
structure Launch where
  time : Nat
  fid  : Nat
  q    : Nat
  ser  : Nat
  slot : Nat
  deriving DecidableEq, Repr

/-- A REMOTE_WRITE that completes once its stored frame has left on each port that is up (R69, R74). -/
structure Depart where
  fid : Nat
  q   : Nat
  ser : Nat
  deriving DecidableEq, Repr

/-- A cyclic map (R76): the cycles it is in force for (from `from_` until before `until_`), the cycles it lately holds or was fetched for, the slice last
received (an input map, once it has received one) or last accepted (an output map). -/
structure CMap where
  id     : Nat
  dir    : Nat
  notify : Bool
  hub    : Nat
  off    : Nat
  len    : Nat
  haddr  : Nat
  from_  : Nat
  until_ : Option Nat
  have_  : List Nat
  seen   : Bool
  last   : List Byte
  stale  : Bool
  live   : Bool
  deriving DecidableEq, Repr

/-- A map change that waits for the next cycle start (R76). -/
structure MapChange where
  map    : CMap
  remove : Bool
  q      : Nat
  ser    : Nat
  deriving DecidableEq, Repr

/-- A receive buffer of the pool of submission queue `q` (R80). `dmaOk`: the write of a record to it succeeds. -/
structure RxBuf where
  q     : Nat
  ser   : Nat
  len   : Nat
  haddr : Nat
  dmaOk : Bool
  deriving DecidableEq, Repr

/-- A receive record (R81, Table 3.7): of a frame, an inbox write or a mirror sample. -/
structure RxRec where
  cls       : Nat
  len       : Nat
  trunc     : Bool
  untracked : Bool
  stale     : Bool
  inbox     : Bool
  src       : Nat
  stream    : Nat
  seq       : Nat
  offset    : Nat
  time      : Nat
  payload   : List Byte
  since     : Nat
  deriving DecidableEq, Repr

/-- The PCI block and host queues beyond their registers. `cycPost`: the cycles whose CYCLIC event was posted lately. `msixOpen`: the MSI-X vectors that
are not masked; `msixTab`: address and data words of the MSI-X table. `l12`: the PCIe link is in L1.2 (R29). -/
structure HostQ where
  sqs      : List SqCtx
  cqs      : List CqCtx
  ser      : Nat
  events   : List Ev
  bufs     : List RxBuf
  held     : List RxRec
  launches : List Launch
  maps     : List CMap
  changes  : List MapChange
  departs  : List Depart
  cycPost  : List Nat
  turnQ    : List (Nat × Nat)
  hostMem  : List Host.Cell
  msixTab  : List (Nat × Nat)
  msixOpen : List Nat
  msixPend : List Nat
  msixSent : List Nat
  linkUp   : Bool
  l12      : Bool
  deriving DecidableEq, Repr

/-! ### Switch core (chapter 6) -/

/-- A frame stored once in the shared buffer (R25, R174), with where its cells were taken from. `grp`: 0 none,
1 E, 2 W, 3 HOST and BARRIER, 4 RSP. `good`: none until the trailer. `planes`: the plane that carried each of its cells (R166); `place`: the cells of the
buffer that hold it (Table 15.1). `due`: D_N of a CYCLIC frame under the
plan in force when it was queued (R186, Table 6.8). -/
structure Stored where
  fid    : Nat
  frame  : Frame
  cells  : Nat
  pool   : Nat
  rsv    : Nat
  grp    : Nat
  inPort : Nat
  own    : Bool
  good   : Option Bool
  stamp  : Nat
  left   : Option Nat
  launch : Option Nat
  whole  : Nat
  planes : List Nat
  due    : Option Nat
  place  : List Nat
  deriving DecidableEq, Repr

/-- A copy of a stored frame in output queue `q` (R164). A copy is `ready` once it may leave; `leaving` while its
port sends it. `seq`: the sequence number of its first cell in its flow (R166). `lost`: a cell of it that a plane discarded, for which the resequencer waits (R168). -/
structure Copy where
  fid     : Nat
  q       : Nat
  cells   : Nat
  ready   : Bool
  leaving : Bool
  untrk   : Bool
  extra   : Nat
  asked   : Bool
  stomp   : Bool
  seq     : Nat
  lost    : Option Nat
  deriving DecidableEq, Repr

/-- A frame being received on a ring port, from its header to its trailer (R120, R121). -/
structure RxCtx where
  port  : Nat
  hdr   : Hdr
  fid   : Option Nat
  fwd   : Bool
  local_ : Bool
  stamp : Nat
  deriving DecidableEq, Repr

/-- A good frame that waits for the unit that takes it (R137, R138): the port it came in on, its ingress stamp, whether it is untracked (R147), and, of a SYNC,
whether duplicate discard dropped it, so that it serves the offset alone (R240). -/
structure Inb where
  port  : Nat
  stamp : Nat
  untrk : Bool
  dup   : Bool
  frame : Frame
  deriving DecidableEq, Repr

/-- The frame that a port sent last, as it left: header, payload and trailer (R118, R119, R121, R126). `damaged`: a block of it was corrupted on its lane. -/
structure Sent where
  port    : Nat
  frame   : Frame
  trailer : Nat
  damaged : Bool
  deriving DecidableEq, Repr

/-- A watermark's notice state (R182): queue 0 to 79, or the pool as 80. -/
structure WmCtx where
  q     : Nat
  hold  : Option Nat
  xing  : Nat
  peak  : Nat
  deriving DecidableEq, Repr

/-- A cyclic plan: what Table 6.9's staging and in-force registers hold (R184). -/
structure Plan where
  m    : Nat
  k    : Nat
  ofs  : Nat
  crc  : Nat
  act  : Nat
  fast : Bool
  ins  : List Nat
  outs : List (Nat × Nat)
  deriving DecidableEq, Repr

/-- The switch core beyond its registers. `flows`: the next cell sequence number of each flow, 16 × ingress port + output port (R166); `planeAt`: the plane that the
rotation has come to; `holdExt`: holds that HLD extended, in µs (Table 6.6); `burst`: the next cycle whose images are launched (R186). -/
structure Switch where
  nextId   : Nat
  stored   : List Stored
  copies   : List Copy
  rx       : List RxCtx
  holds    : List (Nat × Nat)
  holdExt  : List (Nat × Nat)
  flows    : List (Nat × Nat)
  planeAt  : Nat
  burst    : Nat
  turns    : List (Nat × Nat)
  wms      : List WmCtx
  strikes  : List (Nat × Nat)
  retiring : List Nat
  rateLow  : Option Nat
  mirCount : Nat
  mirSeq   : Nat
  rsv      : Nat
  checking : Option Plan
  admitted : Option Plan
  inForce  : Option Plan
  lastIn   : List (Nat × List Byte)
  coreRx   : List Frame
  inbox    : List Inb
  sent     : List Sent
  deriving DecidableEq, Repr

/-! ### Ring ports (chapter 4) -/

/-- A ring port beyond its registers. Lists hold one entry for each of the two lanes. `reqOut`, `stsOut`: the training words its lanes send. `fullFails`: TRAIN_FAIL
in succession at full rate; `fbOff`: FALLBACK_EN was written 0 since the last DETECT (R112). `rfAt`: when RF put it in FAULT (R131). `trainAt`, `holdAt`: when
the training timer started, and the hold of its state. `injHcrc`, `injCrc`: an injection for the next frame; `nowHcrc`, `nowCrc`: one
that the frame in transmission has taken; `hit`: a block of that frame was corrupted (R126). -/
structure PortCtx where
  lastSeq   : List (Option Nat)
  reqSeq    : List Nat
  reqOut    : List Nat
  reqWait   : List Bool
  stsOut    : List Nat
  doneRx    : List Bool
  doneTx    : List Bool
  ackSent   : Bool
  ackRcvd   : Bool
  fecWait   : Bool
  restart   : Bool
  noFollow  : Bool
  sendsRf   : Bool
  fecNext   : Bool
  injHcrc   : Bool
  injCrc    : Bool
  nowHcrc   : Bool
  nowCrc    : Bool
  hit       : Bool
  fullFails : Nat
  fbOff     : Bool
  rfAt      : Option Nat
  trainAt   : Nat
  holdAt    : Nat
  downs     : Nat
  deriving DecidableEq, Repr

/-- A spur beyond its registers: whether its lane is powered (R29, R30), an injection for the next frame, one that the frame in transmission has taken, and
whether a block of that frame was corrupted (R126, R134). -/
structure SpurCtx where
  lane   : Bool
  injFcs : Bool
  nowFcs : Bool
  hit    : Bool
  deriving DecidableEq, Repr

/-! ### Redundancy (chapter 5) -/

/-- A stream table entry or control record (R139, R140): index, key, window and the time of its last accepted frame. -/
structure StreamEnt where
  idx    : Nat
  src    : Nat
  stream : Nat
  high   : Nat
  window : Nat
  path   : Nat
  last   : Nat
  deriving DecidableEq, Repr

/-- The latest PATH_STATE of a member (R151, Table 5.7). -/
structure PathSt where
  hub    : Nat
  eUp    : Bool
  wUp    : Bool
  fec    : Bool
  fb     : Bool
  eNeigh : Nat
  wNeigh : Nat
  time   : Nat
  absent : Bool
  deriving DecidableEq, Repr

/-- A standby's report at the lead (R157). -/
structure Health where
  hub    : Nat
  prio   : Nat
  ready  : Bool
  match_ : Bool
  single : Bool
  maxOff : Nat
  miss   : Nat
  cycle  : Nat
  seen   : Nat
  deriving DecidableEq, Repr

/-- An untracked frame that DUP holds for a decision (R148): its request, its stored frame and the frame. -/
structure DupHeld where
  cookie : Nat
  fid    : Option Nat
  inb    : Inb
  deriving DecidableEq, Repr

/-- Redundancy beyond its registers. -/
structure Redun where
  table     : List StreamEnt
  control   : List StreamEnt
  seqs      : List (Nat × Nat)
  cycApplied : List (Nat × Nat)
  paths     : List PathSt
  syncSeen  : List (Nat × Nat)
  lastAcc   : Option Nat
  accTime   : Nat
  highTerm  : Nat
  handTo    : Option Nat
  open_     : Bool
  inStep    : Nat
  missed    : Nat
  maxOff    : Nat
  lastCmp   : Nat
  planOk    : Bool
  listenAt  : Nat
  mstStay   : Option Bool
  health    : List Health
  dupHeld   : List DupHeld
  handSent  : Bool
  tkSync    : Bool
  deriving DecidableEq, Repr

/-! ### Ring bridge and barrier, H-die end (chapter 8) -/

/-- A non-posted access that waits for its end (R213, R214). `kind`: 0 descriptor, 1 BAR4 access, 2 core; 3 and 4 a
descriptor's and a BAR4 access whose host is gone (R92). `phase`: 0 sent,
1 RETRY received, waiting to be resent, 2 a BAR4 read that has ended behind an older one, 3 an access of this hub's own endpoints. `swap`: its window has SWAP set
(R210). `ur`: refused on the near side (R209). -/
structure NpReq where
  ser     : Nat
  kind    : Nat
  q       : Nat
  master  : Nat
  hub     : Nat
  rnum    : Nat
  op      : Nat
  raddr   : Nat
  data    : List Byte
  len     : Nat
  sent    : Nat
  resends : Nat
  phase   : Nat
  swap    : Bool
  ur      : Bool
  deriving DecidableEq, Repr

/-- An order record of the target side (R213), with the requests it holds out of order; `slot`: which of the 512 it is. -/
structure OrdRec where
  src    : Nat
  master : Nat
  next   : Nat
  last   : Nat
  held   : List Inb
  retry  : Option Nat
  slot   : Nat
  deriving DecidableEq, Repr

/-- A posted write of hub `src` that has been performed here, or has failed, and is not yet acknowledged (`fails` 0 or 1); or an entry of an ACK that
hub `src` sent, which waits for its error reports (R218). -/
structure AckDue where
  src    : Nat
  master : Nat
  fails  : Nat
  rnum   : Nat
  deriving DecidableEq, Repr

/-- What an inbox record shows of the frame that carried the write (Table 3.7): source stream, sequence number and ingress stamp. -/
structure Carrier where
  stream : Nat
  seq    : Nat
  time   : Nat
  deriving DecidableEq, Repr

/-- Where a part of an access is performed: nowhere, with a ring status; at a register of the host die; across the barrier, at a register or in a data
window of the field die. -/
inductive Place where
  | bad (status : Nat)
  | host (a : Nat)
  | field (a : Nat)
  | window (ep off : Nat)
  deriving DecidableEq, Repr

/-- A part of an access: its bytes from byte `at_` on. -/
structure Part where
  at_   : Nat
  len   : Nat
  place : Place
  deriving DecidableEq, Repr

/-- A barrier request of the H-die that waits for its response (R226): its tag, and the part of access `acc` that it is: `len` bytes from byte `at_`. -/
structure BarWait where
  tag    : Nat
  acc    : Nat
  at_    : Nat
  len    : Nat
  write  : Bool
  deriving DecidableEq, Repr

/-- An access that is performed in parts, some of them across the barrier (R208, R226): the parts still to be answered, the bytes read so
far, and the first failing status by offset. `who`: 0 the host through BAR0; 1 a request of hub `src`; 2 a non-posted access of this hub, `ref` its
serial; 3 a posted write of this hub to itself, 5 to every hub; 4 a broadcast write of hub `src`; 6 the hub's own read of FED_TCYC_n, `ref` n; 7 its own read of
MEM_ISTAT_i, `ref` i; 9 an access
through BAR0 whose host is gone (R92). -/
structure FieldAcc where
  acc    : Nat
  who    : Nat
  ref    : Nat
  master : Nat
  op     : Nat
  src    : Nat
  rnum   : Nat
  raddr  : Nat
  len    : Nat
  left   : Nat
  got    : List (Nat × List Byte)
  bad    : Option (Nat × Nat)
  deriving DecidableEq, Repr

/-- An access that has been accepted at this hub and waits for the one before it (R24): on behalf of hub `from_`, the parts that its address named
when it was accepted (Table 2.12; none for a write to the inbox), and the inbox offset. -/
structure Job where
  from_ : Nat
  off   : Nat
  data  : List Byte
  car   : Carrier
  acc   : FieldAcc
  parts : Option (List Part)
  deriving DecidableEq, Repr

/-- A completion of a read of BAR `bar` as the host received it (R206): address, data, and whether it was an
Unsupported Request; `bar` 8 is a read of the management core. -/
structure HostRd where
  bar   : Nat
  addr  : Nat
  data  : List Byte
  ur    : Bool
  deriving DecidableEq, Repr

/-- One end of the barrier link (R16, R221 to R224): messages that wait to be sent; credits granted by the far end and used, and credits
given to it, in the order RSP, REQ, CYC, STREAM; for each rank, the slots that others had since it last had one; the tags of the requests sent whose
response slot is taken. -/
structure BarEnd where
  tx      : List BarMsg
  granted : List Nat
  used    : List Nat
  given   : List Nat
  skips   : List Nat
  slots   : List Nat
  deriving DecidableEq, Repr

/-- An image that is crossing the barrier (R471): cycle number [11:0], the pieces that came, and whether LAST came. -/
structure ImgRx where
  tag    : Nat
  pieces : List (Nat × List Byte)
  last   : Bool
  deriving DecidableEq, Repr

/-! ### Stored-data integrity (chapter 15) -/

/-- A merge entry (R362): the word address, the bytes written (bit j for byte j), and when it was last written. -/
structure MergeEnt where
  addr  : Nat
  mask  : Nat
  since : Nat
  deriving DecidableEq, Repr

/-- A memory instance beyond its registers. `valid`: the addresses whose valid bit is set (R361), as ranges [lo, hi), rising and apart; `merge`: its merge buffer, the
oldest entry first. The words themselves are numbered from 0, spare k behind the last (R365): `bad`, words whose check bits are wrong, with the inverted check
bits (R363, R368); `stuck`, words with a cell that has failed for good (R360). `ces`: corrected errors by address and time, the newest first (R359, R367); `asked`:
addresses that SCB is asked about; `period`: a scrub period of its own, in ms (Table 15.3). -/
structure MemCtx where
  inst  : Nat
  valid : List (Nat × Nat)
  merge : List MergeEnt
  bad   : List (Nat × Nat)
  stuck : List Nat
  ces   : List (Nat × Nat)
  asked : List Nat
  period : Option Nat
  deriving DecidableEq, Repr

/-- The bridge beyond its registers. `seen`: untracked ACK frames and broadcast writes already performed, source and stream, and SEQ (R147); `strPkts`:
whole packets and events that have crossed the barrier (R223). -/
structure Bridge where
  rnums    : List (Nat × Nat)
  nps      : List NpReq
  posted   : List PostedW
  fails    : List PwFail
  reports  : List PwReport
  orders   : List OrdRec
  acks     : List AckDue
  ackIn    : List AckDue
  waits    : List BarWait
  accs     : List FieldAcc
  jobs     : List Job
  nextTag  : Nat
  reads    : List HostRd
  bar      : BarEnd
  timeSeq  : Nat
  imgIn    : List ImgRx
  strIn    : List (Nat × List Byte)
  strPkts  : List (Nat × List Byte)
  coreRd   : List HostRd
  seen     : List (Nat × Nat)
  nextAcc  : Nat
  deriving DecidableEq, Repr

/-! ### Time base (chapter 9) -/

/-- The good copies of the current SYNC (R240): the lead that sent it, cycle, start time, stamps of path A and path B, loop times. -/
structure SyncRx where
  src   : Nat
  cycle : Nat
  start : Nat
  a     : Option Nat
  b     : Option Nat
  loop  : Option (Nat × Nat)
  done  : Bool
  deriving DecidableEq, Repr

/-- A PTP stamp (R243, Table 9.5). -/
structure PtpStamp where
  id   : Nat
  time : Nat
  deriving DecidableEq, Repr

/-- The time base beyond its registers. Times are in units of 2^-32 ns. `offNew`: the offset was updated in this cycle (R240, R248). -/
structure TimeB where
  now     : Nat
  inc     : Nat
  cap     : Nat
  stepped : Bool
  running : Option Nat
  firstAct : Nat
  enAt    : Nat
  sync    : Option SyncRx
  offNew  : Bool
  resid   : List (Nat × Nat)
  resKnown : Bool
  loopRet : List (Nat × Option Nat × Option Nat)
  syncOut : List (Nat × Nat)
  closedAt : List (Nat × Bool)
  ptpRx   : List (Nat × PtpStamp)
  ptpTx   : List (Nat × PtpStamp)
  ptpHead : List (Nat × PtpStamp)
  deriving DecidableEq, Repr

/-! ### Fault collector and function split (chapters 16, 17) -/

/-- An open reaction shadow (R383). -/
structure Shadow where
  dom   : Nat
  open_ : Nat
  close : Nat
  deriving DecidableEq, Repr

/-- The fault collector beyond its registers (R375 to R388): messages that wait to be processed; open shadows; when each source last acted; domains
whose reset runs; faults that wait for FLE, by source; conditions that are out of range, as (source, item), a lost barrier among them; the kinds that have
acted at each source since its PEND was set; interrupts raised to the management core. -/
structure Faults where
  inbox    : List FaultMsg
  shadows  : List Shadow
  lastAct  : List (Nat × Nat)
  resets   : List Nat
  fle      : List (Nat × FaultMsg × Bool)
  outs     : List (Nat × Nat)
  kinds    : List (Nat × Nat)
  nmis     : Nat
  irqs     : Nat
  deriving DecidableEq, Repr

/-- An outstanding request of a function (R394, R395). `ctx` names what it decides about; `place`: 1 core, 2 host;
`peer`: the hub whose core decides (R397), 127 for none. -/
structure HaReq where
  func     : Nat
  cookie   : Nat
  detail0  : Nat
  detail1  : Nat
  ctx      : Nat
  time     : Nat
  place    : Nat
  posted   : Bool
  deriving DecidableEq, Repr

/-- The function split beyond its registers: outstanding requests, cookie counters, buckets (by function, what it holds and since when), requests and replies of peers,
requests that were withdrawn and are still to be decided, and the mode that each STARTING function starts in. -/
structure Split where
  reqs    : List HaReq
  cookies : List (Nat × Nat)
  buckets : List (Nat × Nat × Nat)
  coreIn  : List Ev
  peerReq : List (Nat × Nat)
  peerSeen : List (Nat × Nat)
  peerOut : List (Nat × Ev)
  owed    : List HaReq
  starting : List (Nat × Nat)
  deriving DecidableEq, Repr

/-! ### Start-up and joining (chapter 20) -/

/-- Start-up beyond its registers: the levels at the strap pins, the reset in progress and its cause, the join agent's
counters and what it has acted on (R443), the number that a running claim is for and whether GLB_HUBREQ was written meanwhile (Table 20.5), the UID last
recorded for each number (R445), and whether firmware has written GLB_CTL.READY 1 since chip reset (R441); the
management core's ENTRY, where it starts, and its memories' image (R409). -/
structure Boot where
  inReset  : Bool
  cause    : Nat
  roleHigh : Bool
  hubId    : Nat
  slotTry  : Nat
  jseq     : Nat
  claims   : Nat
  claimAt  : Nat
  claimNum : Nat
  reqWaits : Bool
  seenJoin : List (Nat × Nat)
  uids     : List (Nat × Nat)
  ready    : Bool
  perst    : Bool
  coreHeld : Bool
  coreOk   : Bool
  tryOther : Bool
  entry    : Nat
  imem     : List Byte
  dmem     : List Byte
  deriving DecidableEq, Repr

/-! ### Images and updates (chapter 18) -/

/-- A class F image that is to run on the field die (R417, R418, R437): its slot, whether the other slot has been tried, whether
the ROM has been sent it, and whether it has reported RUNNING. -/
structure FLoad where
  slot  : Nat
  tried : Bool
  sent  : Bool
  ran   : Bool
  deriving DecidableEq, Repr

/-- The update engine and its flash beyond the FWU registers (R404 to R418). `flash`: bytes that do not read 0xFF; `ok`: slots marked checked;
`touched`, `written`: the sectors erased and the chunks programmed in this session; `chunk`: the chunk whose programming runs; `header`: the header has
passed and FWC is asked; `prev`: the class M slot to fall back to; `writing`: the boot record copy that is being written, with its record; `saveDue`: a save waits for HOLDUP_N;
`motLow`: the MOTION_N ball is low; `use`: the copy whose record is in force; `run`: the class M slot that runs; `switch`: the slot
that ACTIVATE chose, until its image has started (class M) or is healthy (class F), which a reset of the engine does not change (Table 18.5). -/
structure Update where
  flash    : List Host.Cell
  ok       : List Nat
  touched  : List Nat
  written  : List (Nat × Nat)
  chunk    : Option (Nat × List Byte)
  header   : Bool
  prev     : Nat
  writing  : Option (Nat × List Byte)
  saveDue  : Bool
  motLow   : Bool
  use      : Nat
  run      : Nat
  switch   : Option Nat
  load     : Option FLoad
  deriving DecidableEq, Repr

/-! ### Ageing (chapter 19) -/

/-- Ageing beyond the AGE registers (R421 to R428): the sum of hourly temperatures; the erase counts of slots 0 to 5 and of the boot
record copies as the record gave them, and of sectors erased since; history points of each
monitor as (age in months, W), the oldest first; daily W readings of each monitor, the newest first; the FED_TCYC values last read, and what the last
answers said of REMAP_USED of the field die's memory instances. -/
structure Age where
  tsum   : Int
  base   : List Nat
  erases : List (Nat × Nat)
  hist   : List (Nat × List (Nat × Nat))
  daily  : List (Nat × List Nat)
  ftc    : List Nat
  remaps : List (Nat × Nat)
  deriving DecidableEq, Repr

/-- The field copy of the time base (R244 to R246): times in 2^-32 ns; `first` until a TIME message has come since link-up; counts of
successive errors within and beyond ±4 ns; the cycle in which actions happen and the first that acts. `rate`: the last steered rate, what the field time gains in a
tick of the host's (R246). -/
structure FTime where
  now      : Nat
  rate     : Nat
  first    : Bool
  good     : Nat
  bad      : Nat
  running  : Option Nat
  firstAct : Nat
  deriving DecidableEq, Repr

/-- A spill FIFO (R193, R195, R198): its visible words, the words of an open packet and whether one was lost, blocking pushes that wait (a
word, or the closing of a packet), whether a blocking pop waits (1 for a word, 2 for room in FGL_BQ_1), what is left of the packet that is being popped, and what the operation before found (R199): whether it
was a pop, whether DEPTH was 0, whether the FIFO was full. `pages`: the units of 32 words that its middle holds in its spill memory (R194); `put` and `got`: the words
that have entered and left the middle. Numbers: MAR_TXQ_n n, MAR_RXQ_n 128 + n, CAN_TSQ_n 256 + n, CAN_RSQ_n 272 + n,
FGL_BQ_i 288 + i. -/
structure Fifo where
  q       : Nat
  words   : List Nat
  opn     : Option (List Nat)
  err     : Bool
  waiting : List (Option Nat)
  popWait : Nat
  left    : Nat
  mark    : Bool × Bool × Bool
  pages   : List Nat
  put     : Nat
  got     : Nat
  deriving DecidableEq, Repr

/-- An engine beyond its registers: the instruction that is stalled, the word last loaded into OSR (R260), and whether the engine holds an
instruction unissued (R291). -/
structure EngCtx where
  ir   : Nat
  last : Nat
  held : Bool
  deriving DecidableEq, Repr

/-- What the field die knows of the plan in force (R267, R268): SWC_LAUNCH, and the hub's IN_LEN and OUT_LEN. -/
structure FPlan where
  launch : Nat
  inLen  : Nat
  outLen : Nat
  deriving DecidableEq, Repr

/-- A CAN controller beyond its registers and elements (R295, R306, R307, R310, R312, R324, R327). `order`: PENDING buffers, the first to become
PENDING first; `active`: the buffer committed to the SOF and its SOF time; `errTx`: the error that
is signalled met a frame of its own; `wups`: wake-up patterns that its transceiver has driven (R333); `hits`: frames each filter took since the capture before;
`seen`: filters that have taken a frame since EN was set; `modeWait`: a written mode waits for its effect; `recov`: bus-off recovery runs;
`armed`, `latch`: the transceiver's wake latch; `xcvWait`: a written transceiver mode; `kaWait`: a keep-alive waits for integration;
`lateAt`: buffers whose launch time came and whose SOF has not started since: 0, 1 late, 2 late in bus-off (R307). -/
structure CanCtx where
  order    : List Nat
  active   : Option (Nat × Nat)
  errTx    : Bool
  hits     : List (Nat × Nat)
  seen     : List Nat
  modeWait : Bool
  recov    : Bool
  armed    : Bool
  latch    : Bool
  kaWait   : Bool
  wups     : Nat
  lateAt   : List (Nat × Nat)
  deriving DecidableEq, Repr

/-- A Groom source's filter (R331): its last samples, the newest first, and how many equal samples debounce has seen. -/
structure GrmSrc where
  samples : List Nat
  same    : Nat
  deriving DecidableEq, Repr

/-- A Groom rule beyond its registers (R332, R335): whether its HIGH or LOW condition holds, whether the next sample is its first since it was
enabled or SLEEP was entered, and how many of its requests wait for a decision. -/
structure GrmRule where
  holds : Bool
  fresh : Bool
  waits : Nat
  deriving DecidableEq, Repr

/-- A feed channel beyond its registers (R345, R346, R348, R353): the model temperature in °C; whether the input is good; whether limiting has been
seen in this ramp; the extremes that thermal cycles are counted from, and whether T has risen; whether FDP was asked about the last fault,
and its decision; a reverse current; a diode that reads outside its range. -/
structure FeedCtx where
  temp     : Rat
  good     : Bool
  limited  : Bool
  low      : Rat
  high     : Rat
  rising   : Bool
  asked    : Bool
  decision : Option Bool
  reverse  : Bool
  badDiode : Bool
  deriving DecidableEq, Repr

/-- A request of a function of the split that an F-die unit makes (R394): its function, details and context. -/
structure Ask where
  func    : Nat
  detail0 : Nat
  detail1 : Nat
  ctx     : Nat
  deriving DecidableEq, Repr

/-- A request of the F-die to the host die that waits for its response or for a resend (R225): its message, and whether it got BACKOFF. -/
structure FWait where
  msg  : BarMsg
  back : Bool
  deriving DecidableEq, Repr

/-- The field die (R13). `variant`: which variant of Table 0.2 the part is (R6). `stage`: 0 running, 1 power-up begun, 2 field clock locked, 3 in its recovery ROM, 4 no FVSUP (R322, R437). `upd`: a class F update is in
progress (R320). `dueImage`: a plan that is admitted and awaits its cycle gives the hub an image (R320). `fvio`: the voltage at each FVIO_b, in mV, as last brought (R256, R461). -/
structure FDie where
  variant : Nat
  regs : Regs
  linkUp : Bool
  bar  : BarEnd
  held : List FaultMsg
  hiHold : List (Nat × Nat)
  hiCap  : List (Nat × Nat)
  tb   : FTime
  fifos : List Fifo
  engs : List (Nat × EngCtx)
  forcing : List Nat
  plan : Option FPlan
  dueImage : Bool
  slices : List (Nat × List Byte)
  imgRx : List ImgRx
  safeSnap : List (Nat × Bool)
  high : List Nat
  cans : List (Nat × CanCtx)
  elems : List (Nat × List Nat)
  grmS : List (Nat × GrmSrc)
  grmR : List (Nat × GrmRule)
  stage : Nat
  upd : Bool
  wakeSeq : Nat
  wakeHeld : List BarMsg
  feeds : List (Nat × FeedCtx)
  warnHold : Bool
  asks : List Ask
  mems : List MemCtx
  outs : List (Nat × Nat)
  fvio : List Nat
  waits : List FWait
  rom : List Byte
  romSeq : Nat
  version : Nat
  free : Nat
  deriving DecidableEq, Repr


/-- The host die (R13). -/
structure HDie where
  regs  : Regs
  hiHold : List (Nat × Nat)
  hiCap : List (Nat × Nat)
  hostq : HostQ
  sw    : Switch
  ports : List PortCtx
  spurs : List SpurCtx
  red   : Redun
  brg   : Bridge
  tb    : TimeB
  flt   : Faults
  spl   : Split
  boot  : Boot
  upd   : Update
  age   : Age
  mems  : List MemCtx
  free  : Nat
  deriving DecidableEq, Repr

/-- Barrier messages that one die has sent and the other has not yet taken (R14, R221). -/
structure Link where
  toF : List BarMsg
  toH : List BarMsg
  deriving DecidableEq, Repr

/-- The hub: its two dies, which share no bus (R14, R15), and the commands that wait, first in, first out. -/
structure State where
  h       : HDie
  f       : FDie
  link    : Link
  pending : List Instr
  deriving DecidableEq, Repr

/-- Why the machine stops on a command: the spec gives every command an effect, so there is no fault. -/
inductive Fault where
  deriving DecidableEq, Repr

/-- Why a command has no meaning here. -/
inductive Refusal where
  /-- Raised by the dispatch of a command that has no meaning yet, by its mnemonic: safe, since nothing happens. -/
  | notModelled (mnemonic : String)
  deriving DecidableEq, Repr

/-! ### Reset -/

/-- A ring port that has received nothing. -/
def PortCtx.clear : PortCtx :=
  { lastSeq := [none, none], reqSeq := [0, 0], reqOut := [0, 0], reqWait := [false, false], stsOut := [0, 0], doneRx := [false, false],
    doneTx := [false, false], ackSent := false, ackRcvd := false, fecWait := false, restart := false, noFollow := true,
    sendsRf := false, fecNext := false, injHcrc := false, injCrc := false, nowHcrc := false, nowCrc := false, hit := false, fullFails := 0, fbOff := false, rfAt := none, trainAt := 0,
    holdAt := 0, downs := 0 }

/-- An end of the barrier link that is down. -/
def BarEnd.clear : BarEnd :=
  { tx := [], granted := [0, 0, 0, 0], used := [0, 0, 0, 0], given := [0, 0, 0, 0], skips := [0, 0, 0, 0, 0, 0], slots := [] }

/-- No frame, no copy, no plan. -/
def Switch.clear : Switch :=
  { nextId := 0, stored := [], copies := [], rx := [], holds := [], holdExt := [], flows := [], planeAt := 0, burst := 0, turns := [], wms := [], strikes := [], retiring := [], rateLow := none,
    mirCount := 0, mirSeq := 0, rsv := 0, checking := none, admitted := none, inForce := none, lastIn := [], coreRx := [], inbox := [],
    sent := [] }

/-- No queue is enabled; host memory as the hub has not written it. -/
def HostQ.clear : HostQ :=
  { sqs := [], cqs := [], ser := 0, events := [], bufs := [], held := [], launches := [], maps := [], changes := [], departs := [], cycPost := [], turnQ := [],
    hostMem := [], msixTab := [], msixOpen := [], msixPend := [], msixSent := [], linkUp := false, l12 := false }

/-- An empty stream table; every counter 0 (R136, R361). -/
def Redun.clear : Redun :=
  { table := [], control := [], seqs := [], cycApplied := [], paths := [], syncSeen := [], lastAcc := none, accTime := 0, highTerm := 0,
    handTo := none, open_ := false, inStep := 0, missed := 0, maxOff := 0, lastCmp := 0, planOk := false, listenAt := 0, mstStay := none,
    health := [], dupHeld := [], handSent := false, tkSync := false }

/-- Nothing outstanding on the ring or the barrier; every RNUM 0 (R213). -/
def Bridge.clear : Bridge :=
  { rnums := [], nps := [], posted := [], fails := [], reports := [], orders := [], acks := [], ackIn := [], waits := [], accs := [], jobs := [], nextTag := 0,
    reads := [], bar := BarEnd.clear, timeSeq := 0, imgIn := [], strIn := [], strPkts := [],
    coreRd := [], seen := [], nextAcc := 0 }

/-- The time base counts from 0 with the increment of R231 at reset, 2 ns. -/
def TimeB.clear : TimeB :=
  { now := 0, inc := 2 * 2 ^ 32, cap := 0, stepped := false, running := none, firstAct := 0, enAt := 0, sync := none, offNew := false, resid := [],
    resKnown := false, loopRet := [], syncOut := [], closedAt := [], ptpRx := [], ptpTx := [], ptpHead := [] }

/-- No fault, no open shadow. -/
def Faults.clear : Faults :=
  { inbox := [], shadows := [], lastAct := [], resets := [], fle := [], outs := [], kinds := [], nmis := 0, irqs := 0 }

/-- No request; every bucket full (R399). -/
def Split.clear : Split :=
  { reqs := [], cookies := [], buckets := [], coreIn := [], peerReq := [], peerSeen := [], peerOut := [], owed := [], starting := [] }

/-- Right after the release of chip reset: the core has not started (R436). -/
def Boot.clear : Boot :=
  { inReset := false, cause := 0, roleHigh := false, hubId := 0x7F, slotTry := 0, jseq := 0, claims := 0, claimAt := 0, claimNum := 0x7F, reqWaits := false, seenJoin := [],
    uids := [], ready := false, perst := false, coreHeld := false, coreOk := false, tryOther := false, entry := 0, imem := [], dmem := [] }

/-- An erased flash (log 40): no boot record is valid, and no slot has been checked. -/
def Update.clear : Update :=
  { flash := [], ok := [], touched := [], written := [], chunk := none, header := false, prev := 0, writing := none,
    saveDue := false, motLow := false, use := 0, run := 0, switch := none, load := none }

/-- Ageing from zeros (R424). -/
def Age.clear : Age := { tsum := 0, base := List.replicate 8 0, erases := [], hist := [], daily := [], ftc := [0, 0, 0, 0], remaps := [] }

/-- The host die right after chip reset by power-on: every register at its reset value, but SPL_FSTAT of FWC and LIF, which are served in HW until
the core runs (R33; log 41). -/
def HDie.clear : HDie :=
  { regs := [(8 * 0x10198 + 2, 0), (8 * 0x10198 + 6, 1), (8 * 0x101B8 + 2, 0), (8 * 0x101B8 + 6, 1)], hiHold := [], hiCap := [],
    hostq := HostQ.clear, sw := Switch.clear, ports := [PortCtx.clear, PortCtx.clear],
    spurs := List.replicate 4 { lane := false, injFcs := false, nowFcs := false, hit := false }, red := Redun.clear, brg := Bridge.clear, tb := TimeB.clear,
    flt := Faults.clear, spl := Split.clear, boot := Boot.clear, upd := Update.clear, age := Age.clear, mems := [], free := 0 }

/-- The field die after its power-on: in its recovery ROM, with the barrier link down; a WAKE message with CAUSE POWER_ON waits for it (R432, Table
13.6; log 67). -/
def FDie.clear : FDie :=
  { variant := Config.variant, regs := [], linkUp := false, bar := BarEnd.clear, held := [], hiHold := [], hiCap := [],
    tb := { now := 0, rate := 2 * 2 ^ 32, first := true, good := 0, bad := 0, running := none, firstAct := 0 }, fifos := [], engs := [], forcing := [],
    plan := none, dueImage := false, slices := [], imgRx := [], safeSnap := [], high := [], cans := [], elems := [], grmS := [], grmR := [], stage := 3, upd := false,
    wakeSeq := 1, wakeHeld := [{ m0 := 2, m1 := 4, m2 := 0, m3 := 1, m4 := 0, m5 := 0, m6 := 0, m7 := 0 }], feeds := [], warnHold := false, asks := [], mems := [], outs := [], fvio := List.replicate 8 0, waits := [], rom := [], romSeq := 0,
    version := 0, free := 0 }

/-- The hub right after the release of chip reset (R433, R436), both dies powered, with every strap open (R456) and no command waiting. -/
def State.reset : State := { h := HDie.clear, f := FDie.clear, link := { toF := [], toH := [] }, pending := [] }

end Sys2Proof.Machine
end

