-- ==== Sys2Proof/Machine/RegFile.lean ====
section
/-! DEFINITION. The register file of a die: reading and writing one field, the saturating counters of R56, the
set-and-clear of W1C bits (R10, R12), and the access codes of Table 0.4 as software meets them. -/
namespace Sys2Proof.Machine

/-- The bit address of a field. -/
def Fld.key (F : Fld) : Nat := 8 * F.addr + F.lsb

/-- The value stored at a key. -/
def regFind : Regs → Nat → Option Nat
  | [], _ => none
  | (a, v) :: r, k => if a = k then some v else regFind r k

/-- The register file without a key. -/
def regDrop : Regs → Nat → Regs
  | [], _ => []
  | (a, v) :: r, k => if a = k then regDrop r k else (a, v) :: regDrop r k

/-- The register file with a key placed in rising order. -/
def regPlace : Regs → Nat → Nat → Regs
  | [], k, v => [(k, v)]
  | (a, w) :: r, k, v => if k < a then (k, v) :: (a, w) :: r else (a, w) :: regPlace r k v

/-- The value of a field: what was last stored, or its reset value. -/
def regGet (r : Regs) (F : Fld) : Nat := (regFind r F.key).getD F.reset

/-- The register file with a field holding `v` (modulo its width); a field at its reset value is not listed. -/
def regPut (r : Regs) (F : Fld) (v : Nat) : Regs :=
  let w := v % 2 ^ F.width
  if w = F.reset then regDrop r F.key else regPlace (regDrop r F.key) F.key w

/-- The register file with every field of the addresses from `lo` to `hi` at its reset value. -/
def regReset (r : Regs) (lo hi : Nat) : Regs := r.filter fun e => e.1 < 8 * lo || 8 * hi + 32 ≤ e.1

/-- A counter raised by `n`, saturating at its maximum (R56). -/
def regBump (r : Regs) (F : Fld) (n : Nat) : Regs := regPut r F (min (regGet r F + n) (2 ^ F.width - 1))

/-- The register file's form: keys strictly rising. -/
def Regs.wf : Regs → Bool
  | [] => true
  | [_] => true
  | (a, _) :: (b, w) :: r => a < b && Regs.wf ((b, w) :: r)

/-- The access codes of Table 0.4. -/
inductive Acc where
  | ro | rw | w1c | rc | wo | rwl
  deriving DecidableEq, Repr

/-- A register of a block: where its instances stand and its fields, each with its access code. The address of instance
(i, j) is base + s1 × i + s2 × j. -/
structure RegRow where
  base   : Nat
  s1     : Nat
  n1     : Nat
  s2     : Nat
  n2     : Nat
  fields : Nat → Nat → List (Fld × Acc)

/-- The instance of a row that an address names. -/
def RegRow.find (r : RegRow) (a : Nat) : Option (Nat × Nat) :=
  if a < r.base then none
  else
    let d := a - r.base
    let i := if r.s1 = 0 then 0 else d / r.s1
    let e := d - r.s1 * i
    let j := if r.s2 = 0 then 0 else e / r.s2
    if e = r.s2 * j && i < r.n1 && j < r.n2 then some (i, j) else none

/-- The fields of the register at an address, in a table of rows. -/
def rowsFind (rows : List RegRow) (a : Nat) : List (Fld × Acc) :=
  match rows with
  | [] => []
  | r :: rs =>
    match r.find a with
    | some (i, j) => r.fields i j
    | none => rowsFind rs a

/-- What one field shows to a read (R10): a write-only field reads 0. -/
def fieldRead (r : Regs) (f : Fld × Acc) : Nat :=
  match f.2 with
  | .wo => 0
  | _ => regGet r f.1 * 2 ^ f.1.lsb

/-- The register file after a read: RC fields clear (R10). -/
def fieldAfterRead (r : Regs) (f : Fld × Acc) : Regs :=
  match f.2 with
  | .rc => regPut r f.1 0
  | _ => r

/-- The register file after software writes `w` to the word that holds the field (R10, R11); `locked` is the block's
lock (R55). Fields wider than 32 bits are committed elsewhere (R56). -/
def fieldWrite (locked : Bool) (w : Nat) (r : Regs) (f : Fld × Acc) : Regs :=
  let v := fieldOf w f.1.lsb f.1.width
  match f.2 with
  | .rw => regPut r f.1 v
  | .rwl => if locked then r else regPut r f.1 v
  | .w1c => regPut r f.1 (regGet r f.1 - (regGet r f.1 &&& v))
  | .ro | .rc | .wo => r

end Sys2Proof.Machine
end

