-- ==== Sys2Proof/Machine/RegReset.lean ====
section
/-! DEFINITION. The reset values that the register tables give by instance: the pool floors (R173), the memory
instances (Table 15.1), the fault sources and dependencies (Table 16.1, R391), the functions (Tables 1.6, 17.5) and the
ageing groups (Table 19.1), of the BH-7260; and what the other variants lack (Table 0.2). -/
namespace Sys2Proof.Machine

/-! ### What a variant lacks (R2, R3, Table 0.2): variant 0 is the BH-7260, 1 the BH-7240, 2 the BH-7220 (R6) -/

/-- The variant has no PCIe endpoint and no host queues. -/
def lacksPcie (v : Nat) : Bool := v == 2

/-- The variant lacks spur SP_s. -/
def lacksSpur (v s : Nat) : Bool := v == 2 || (v == 1 && 2 ≤ s)

/-- The variant lacks cluster c. -/
def lacksCluster (v c : Nat) : Bool := v == 1 && 8 ≤ c

/-- The variant lacks CAN_n. -/
def lacksCan (v n : Nat) : Bool := v == 1 && 8 ≤ n

/-- The variant leaves endpoint ep unoccupied (R3, R41). -/
def lacksEp (v ep : Nat) : Bool :=
  if 16 ≤ ep && ep < 144 then lacksCluster v ((ep - 16) / 8)
  else if 144 ≤ ep && ep < 160 then lacksCan v (ep - 144)
  else if 420 ≤ ep && ep < 424 then lacksSpur v (ep - 420)
  else ep == 424 && lacksPcie v

/-- The register at a BAR0 address belongs to a unit that the variant lacks; a block whose every unit is absent lacks its header too (R3, R55). -/
def lacksReg (v a : Nat) : Bool :=
  if 0x20000 ≤ a && a < 0x30000 then lacksPcie v
  else if 0x60000 ≤ a && a < 0x70000 then lacksSpur v (if a < 0x64000 then (a - 0x60000) / 0x1000 else 0)
  else if 0x810000 ≤ a && a < 0x830000 then lacksCluster v (a / 0x1000 % 16)
  else 0x840000 ≤ a && a < 0x850000 && lacksCan v ((a - 0x840000) / 0x1000)

/-- Memory instance i belongs to a unit that the variant lacks (R358, Table 15.1). -/
def lacksMem (v i : Nat) : Bool :=
  if i == 51 then lacksPcie v
  else if 64 ≤ i && i < 96 then lacksCluster v (i % 16)
  else 97 ≤ i && i ≤ 112 && lacksCan v (i - 97)

/-- Fault source s belongs to a unit that the variant lacks (R371, Table 16.1). -/
def lacksSource (v s : Nat) : Bool :=
  if s == 4 then lacksPcie v
  else if 7 ≤ s && s ≤ 10 then lacksSpur v (s - 7)
  else if 272 ≤ s && s < 400 then lacksCluster v ((s - 272) / 8)
  else if 400 ≤ s && s < 416 then lacksCan v (s - 400)
  else 512 ≤ s && lacksMem v (s - 512)

/-- Whether a register's content is fixed by the variant, so that no reset changes it: GLB_IDENT.VARIANT, FLT_SCFG_s.PRESENT and
MEM_ISTAT_i.PRESENT (R6, R358, R371). -/
def variantKey (key : Nat) : Bool :=
  let a := key / 32 * 4
  key == 0 || (0xA1000 ≤ a && a < 0xA4000 && a % 16 == 0 && key % 32 == 31) || (0x91000 ≤ a && a < 0x95000 && a % 0x40 == 4 && key % 32 == 6)

/-! ### Reset values -/

/-- Pool floor of class c at reset (R173). -/
def swcFloor (c : Nat) : Nat :=
  match c with
  | 0 => 4096 | 1 => 2048 | 2 => 1536 | 3 => 1024 | 5 => 256 | _ => 0

/-- Whether memory instance i exists (Table 15.1). -/
def memPresent (i : Nat) : Nat := b2n (i ≤ 55 || (64 ≤ i && i ≤ 112))

/-- The class of memory instance i: 1 for class B, the cell buffer banks (Table 15.1). -/
def memClass (i : Nat) : Nat := b2n (i ≤ 31)

/-- Words of memory instance i (Table 15.1). -/
def memWords (i : Nat) : Nat :=
  if i ≤ 35 then 8192 else if i ≤ 45 then 256 else if i ≤ 47 then 3072 else if i = 48 then 480
  else if i = 49 then 18432 else if i ≤ 51 then 1024 else if i = 52 then 512 else if i ≤ 54 then 131072
  else if i = 55 then 1024 else if i < 64 then 0 else if i ≤ 79 then 512 else if i ≤ 95 then 4096
  else if i = 96 then 8192 else if i ≤ 112 then 2880 else 0

/-- Reset domain of fault source s (Table 16.1). -/
def fltDomain (s : Nat) : Nat :=
  if s = 4 then 1 else if s = 5 then 2 else if s = 6 then 3 else if 7 ≤ s && s ≤ 10 then s - 3
  else if s = 14 then 8 else if s = 15 then 12 else if s = 16 then 9 else if s = 17 then 10 else if s = 18 then 11
  else if s = 259 then 12 else if s = 261 then 13
  else if 272 ≤ s && s ≤ 399 then 16 + (s - 272) / 8
  else if 400 ≤ s && s ≤ 415 then 32 + (s - 400)
  else if 416 ≤ s && s ≤ 419 then 48 + (s - 416)
  else if 561 ≤ s && s ≤ 562 then 8 else if s = 564 then 8 else if s = 563 then 1
  else if s = 565 || s = 566 then 9
  else if 576 ≤ s && s ≤ 591 then 16 + (s - 576)
  else if 592 ≤ s && s ≤ 607 then 16 + (s - 592)
  else if s = 608 then 12
  else if 609 ≤ s && s ≤ 624 then 32 + (s - 609)
  else 0

/-- Whether fault source s exists (Table 16.1). -/
def fltPresent (s : Nat) : Nat :=
  b2n (s ≤ 18 || (256 ≤ s && s ≤ 270) || (272 ≤ s && s ≤ 419) || (512 ≤ s && s ≤ 567) || (576 ≤ s && s ≤ 624))

/-- Dependent domains of domain d at reset (R391). -/
def fltDep (d : Nat) : Nat :=
  match d with
  | 12 => 0x000FFFFFFFFF2000
  | 2 => 0x100
  | 3 => 0x100
  | 9 => 0x400
  | _ => 0

/-- Reset mode of function f: LIF (11) and FWC (9) run in HA-core, the rest in HW (Table 1.6). -/
def splMode (f : Nat) : Nat := b2n (f = 9 || f = 11)

/-- Reply deadline of function f at reset (Table 17.5): MCR, HLD, RSQ, ENG, PWE and CYA. -/
def splDl (f : Nat) : Nat :=
  match f with
  | 1 => 0x64 | 2 => 0x1F4 | 3 => 0x3E8 | 6 => 0x14 | 13 => 0x64 | 15 => 0x2710 | _ => 0

/-- Request rate of function f at reset (Table 17.5). -/
def splRate (f : Nat) : Nat := if f = 0 then 0x30D40 else 0x2710

/-- Request burst of function f at reset (Table 17.5). -/
def splBurst (f : Nat) : Nat := if f = 0 then 0x40 else 0x10

/-- Group of ageing monitor m: 1 for group B (Table 19.1). -/
def ageGroup (m : Nat) : Nat := b2n (m = 22 || (24 ≤ m && m ≤ 27))

end Sys2Proof.Machine
end

