-- ==== Sys2Proof/Machine/RegMapF.lean ====
section
/-! DEFINITION. The registers of the F-die: every field that the register tables of the spec name, with its
address, width, access code and reset value, block by block. -/
namespace Sys2Proof.Machine

/-! ### FGL (R55, R201, R229, R339, R451) -/

def Reg.FGL_BRXUNDEF_COUNT : Fld := ⟨0x800480, 0, 32, 0⟩
def Reg.FGL_BRXBAD_COUNT : Fld := ⟨0x800484, 0, 32, 0⟩
def Reg.FGL_PWR_REQ : Fld := ⟨0x800100, 0, 2, 0⟩
def Reg.FGL_PWRSTAT_STATE : Fld := ⟨0x800104, 0, 2, 0⟩
def Reg.FGL_PWRSTAT_REFUSE : Fld := ⟨0x800104, 4, 3, 0⟩
def Reg.FGL_SAFET_US : Fld := ⟨0x800010, 0, 20, 0x3e8⟩
def Reg.FGL_BQCFG_EN (i : Nat) : Fld := ⟨0x800400 + 0x10 * i, 0, 1, 1⟩
def Reg.FGL_BQCFG_PKT (i : Nat) : Fld := ⟨0x800400 + 0x10 * i, 1, 1, 0⟩
def Reg.FGL_BQCFG_NBPUSH (i : Nat) : Fld := ⟨0x800400 + 0x10 * i, 2, 1, 0⟩
def Reg.FGL_BQCFG_MID (i : Nat) : Fld := ⟨0x800400 + 0x10 * i, 8, 6, 0x20⟩
def Reg.FGL_BQSTAT_DEPTH (i : Nat) : Fld := ⟨0x800404 + 0x10 * i, 0, 11, 0⟩
def Reg.FGL_BQSTAT_OPEN (i : Nat) : Fld := ⟨0x800404 + 0x10 * i, 11, 1, 0⟩
def Reg.FGL_BQSTAT_UNDERRUN (i : Nat) : Fld := ⟨0x800404 + 0x10 * i, 12, 1, 0⟩
def Reg.FGL_BQSTAT_OVERFLOW (i : Nat) : Fld := ⟨0x800404 + 0x10 * i, 13, 1, 0⟩
def Reg.FGL_BQSTAT_PKT_ERR (i : Nat) : Fld := ⟨0x800404 + 0x10 * i, 14, 1, 0⟩
def Reg.FGL_BQSTAT_REFUSED (i : Nat) : Fld := ⟨0x800404 + 0x10 * i, 15, 1, 0⟩
def Reg.FGL_BQSTAT_MEET (i : Nat) : Fld := ⟨0x800404 + 0x10 * i, 16, 2, 0⟩
def Reg.FGL_BQSTAT_FULL (i : Nat) : Fld := ⟨0x800404 + 0x10 * i, 18, 1, 0⟩
def Reg.FGL_BQSTAT_STORED (i : Nat) : Fld := ⟨0x800404 + 0x10 * i, 19, 11, 0⟩
def Reg.FGL_BQCNT_OVF (i : Nat) : Fld := ⟨0x800408 + 0x10 * i, 0, 16, 0⟩
def Reg.FGL_BQCNT_UNF (i : Nat) : Fld := ⟨0x800408 + 0x10 * i, 16, 16, 0⟩
def Reg.FGL_BQLAST_VALUE (i : Nat) : Fld := ⟨0x80040c + 0x10 * i, 0, 32, 0⟩
def Reg.FGL_BLKID_NUM : Fld := ⟨0x80ff00, 24, 8, 0x80⟩
def Reg.FGL_BLKID_REV : Fld := ⟨0x80ff00, 0, 16, Config.blockRev⟩
def Reg.FGL_LOCK_SET : Fld := ⟨0x80ff04, 0, 1, 0⟩
def Reg.FGL_SCRATCH_VALUE : Fld := ⟨0x80ff08, 0, 32, 0⟩

/-- The registers of block FGL. -/
def rowsFGL : List RegRow := [  { base := 0x800480, s1 := 0x0, n1 := 1, s2 := 0x0, n2 := 1, fields := fun _ _ => [(Reg.FGL_BRXUNDEF_COUNT, .rc)] },
  { base := 0x800484, s1 := 0x0, n1 := 1, s2 := 0x0, n2 := 1, fields := fun _ _ => [(Reg.FGL_BRXBAD_COUNT, .rc)] },
  { base := 0x800100, s1 := 0x0, n1 := 1, s2 := 0x0, n2 := 1, fields := fun _ _ => [(Reg.FGL_PWR_REQ, .wo)] },
  { base := 0x800104, s1 := 0x0, n1 := 1, s2 := 0x0, n2 := 1, fields := fun _ _ => [(Reg.FGL_PWRSTAT_STATE, .ro), (Reg.FGL_PWRSTAT_REFUSE, .ro)] },
  { base := 0x800010, s1 := 0x0, n1 := 1, s2 := 0x0, n2 := 1, fields := fun _ _ => [(Reg.FGL_SAFET_US, .rw)] },
  { base := 0x800400, s1 := 0x10, n1 := 4, s2 := 0x0, n2 := 1, fields := fun i _ => [(Reg.FGL_BQCFG_EN i, .rw), (Reg.FGL_BQCFG_PKT i, .rw), (Reg.FGL_BQCFG_NBPUSH i, .ro), (Reg.FGL_BQCFG_MID i, .rw)] },
  { base := 0x800404, s1 := 0x10, n1 := 4, s2 := 0x0, n2 := 1, fields := fun i _ => [(Reg.FGL_BQSTAT_DEPTH i, .ro), (Reg.FGL_BQSTAT_OPEN i, .ro), (Reg.FGL_BQSTAT_UNDERRUN i, .w1c), (Reg.FGL_BQSTAT_OVERFLOW i, .w1c), (Reg.FGL_BQSTAT_PKT_ERR i, .w1c), (Reg.FGL_BQSTAT_REFUSED i, .w1c), (Reg.FGL_BQSTAT_MEET i, .ro), (Reg.FGL_BQSTAT_FULL i, .ro), (Reg.FGL_BQSTAT_STORED i, .ro)] },
  { base := 0x800408, s1 := 0x10, n1 := 4, s2 := 0x0, n2 := 1, fields := fun i _ => [(Reg.FGL_BQCNT_OVF i, .rc), (Reg.FGL_BQCNT_UNF i, .rc)] },
  { base := 0x80040c, s1 := 0x10, n1 := 4, s2 := 0x0, n2 := 1, fields := fun i _ => [(Reg.FGL_BQLAST_VALUE i, .ro)] },
  { base := 0x80ff00, s1 := 0x0, n1 := 1, s2 := 0x0, n2 := 1, fields := fun _ _ => [(Reg.FGL_BLKID_NUM, .ro), (Reg.FGL_BLKID_REV, .ro)] },
  { base := 0x80ff04, s1 := 0x0, n1 := 1, s2 := 0x0, n2 := 1, fields := fun _ _ => [(Reg.FGL_LOCK_SET, .rwl)] },
  { base := 0x80ff08, s1 := 0x0, n1 := 1, s2 := 0x0, n2 := 1, fields := fun _ _ => [(Reg.FGL_SCRATCH_VALUE, .rw)] }]

/-! ### FTM (R55, R249) -/

def Reg.FTM_NOWFR_FRAC : Fld := ⟨0x8c0000, 0, 16, 0⟩
def Reg.FTM_NOWNS_NS : Fld := ⟨0x8c0004, 0, 30, 0⟩
def Reg.FTM_NOWSL_SEC : Fld := ⟨0x8c0008, 0, 32, 0⟩
def Reg.FTM_NOWSH_SEC : Fld := ⟨0x8c000c, 0, 16, 0⟩
def Reg.FTM_STAT_LOCKED : Fld := ⟨0x8c0010, 0, 1, 0⟩
def Reg.FTM_STAT_HOLDOVER : Fld := ⟨0x8c0010, 1, 1, 1⟩
def Reg.FTM_STAT_EVER : Fld := ⟨0x8c0010, 2, 1, 0⟩
def Reg.FTM_EVT_UNLOCK : Fld := ⟨0x8c0014, 0, 1, 0⟩
def Reg.FTM_EVT_STEPPED : Fld := ⟨0x8c0014, 1, 1, 0⟩
def Reg.FTM_EVT_HOLD : Fld := ⟨0x8c0014, 2, 1, 0⟩
def Reg.FTM_ERR_ERR : Fld := ⟨0x8c0018, 0, 16, 0⟩
def Reg.FTM_LAT_LAT : Fld := ⟨0x8c001c, 0, 16, 0⟩
def Reg.FTM_CYCLE_NS : Fld := ⟨0x8c0020, 0, 23, 0⟩
def Reg.FTM_CYCLE_EN : Fld := ⟨0x8c0020, 31, 1, 0⟩
def Reg.FTM_EPNS_NS : Fld := ⟨0x8c0024, 0, 30, 0⟩
def Reg.FTM_EPSL_SEC : Fld := ⟨0x8c0028, 0, 32, 0⟩
def Reg.FTM_EPSH_SEC : Fld := ⟨0x8c002c, 0, 16, 0⟩
def Reg.FTM_CYCNUM_N : Fld := ⟨0x8c0030, 0, 32, 0⟩
def Reg.FTM_MSGCNT_COUNT : Fld := ⟨0x8c0034, 0, 32, 0⟩
def Reg.FTM_BLKID_NUM : Fld := ⟨0x8dff00, 24, 8, 0x8c⟩
def Reg.FTM_BLKID_REV : Fld := ⟨0x8dff00, 0, 16, Config.blockRev⟩
def Reg.FTM_LOCK_SET : Fld := ⟨0x8dff04, 0, 1, 0⟩
def Reg.FTM_SCRATCH_VALUE : Fld := ⟨0x8dff08, 0, 32, 0⟩

/-- The registers of block FTM. -/
def rowsFTM : List RegRow := [  { base := 0x8c0000, s1 := 0x0, n1 := 1, s2 := 0x0, n2 := 1, fields := fun _ _ => [(Reg.FTM_NOWFR_FRAC, .ro)] },
  { base := 0x8c0004, s1 := 0x0, n1 := 1, s2 := 0x0, n2 := 1, fields := fun _ _ => [(Reg.FTM_NOWNS_NS, .ro)] },
  { base := 0x8c0008, s1 := 0x0, n1 := 1, s2 := 0x0, n2 := 1, fields := fun _ _ => [(Reg.FTM_NOWSL_SEC, .ro)] },
  { base := 0x8c000c, s1 := 0x0, n1 := 1, s2 := 0x0, n2 := 1, fields := fun _ _ => [(Reg.FTM_NOWSH_SEC, .ro)] },
  { base := 0x8c0010, s1 := 0x0, n1 := 1, s2 := 0x0, n2 := 1, fields := fun _ _ => [(Reg.FTM_STAT_LOCKED, .ro), (Reg.FTM_STAT_HOLDOVER, .ro), (Reg.FTM_STAT_EVER, .ro)] },
  { base := 0x8c0014, s1 := 0x0, n1 := 1, s2 := 0x0, n2 := 1, fields := fun _ _ => [(Reg.FTM_EVT_UNLOCK, .w1c), (Reg.FTM_EVT_STEPPED, .w1c), (Reg.FTM_EVT_HOLD, .w1c)] },
  { base := 0x8c0018, s1 := 0x0, n1 := 1, s2 := 0x0, n2 := 1, fields := fun _ _ => [(Reg.FTM_ERR_ERR, .ro)] },
  { base := 0x8c001c, s1 := 0x0, n1 := 1, s2 := 0x0, n2 := 1, fields := fun _ _ => [(Reg.FTM_LAT_LAT, .ro)] },
  { base := 0x8c0020, s1 := 0x0, n1 := 1, s2 := 0x0, n2 := 1, fields := fun _ _ => [(Reg.FTM_CYCLE_NS, .ro), (Reg.FTM_CYCLE_EN, .ro)] },
  { base := 0x8c0024, s1 := 0x0, n1 := 1, s2 := 0x0, n2 := 1, fields := fun _ _ => [(Reg.FTM_EPNS_NS, .ro)] },
  { base := 0x8c0028, s1 := 0x0, n1 := 1, s2 := 0x0, n2 := 1, fields := fun _ _ => [(Reg.FTM_EPSL_SEC, .ro)] },
  { base := 0x8c002c, s1 := 0x0, n1 := 1, s2 := 0x0, n2 := 1, fields := fun _ _ => [(Reg.FTM_EPSH_SEC, .ro)] },
  { base := 0x8c0030, s1 := 0x0, n1 := 1, s2 := 0x0, n2 := 1, fields := fun _ _ => [(Reg.FTM_CYCNUM_N, .ro)] },
  { base := 0x8c0034, s1 := 0x0, n1 := 1, s2 := 0x0, n2 := 1, fields := fun _ _ => [(Reg.FTM_MSGCNT_COUNT, .rc)] },
  { base := 0x8dff00, s1 := 0x0, n1 := 1, s2 := 0x0, n2 := 1, fields := fun _ _ => [(Reg.FTM_BLKID_NUM, .ro), (Reg.FTM_BLKID_REV, .ro)] },
  { base := 0x8dff04, s1 := 0x0, n1 := 1, s2 := 0x0, n2 := 1, fields := fun _ _ => [(Reg.FTM_LOCK_SET, .rwl)] },
  { base := 0x8dff08, s1 := 0x0, n1 := 1, s2 := 0x0, n2 := 1, fields := fun _ _ => [(Reg.FTM_SCRATCH_VALUE, .rw)] }]

/-! ### MAR (R55, R201, R273, R293) -/

def Reg.MAR_ECFG_ENTRY (i : Nat) (j : Nat) : Fld := ⟨0x810000 + 0x1000 * i + 0x80 * j, 0, 9, 0⟩
def Reg.MAR_ECFG_DIV (i : Nat) (j : Nat) : Fld := ⟨0x810000 + 0x1000 * i + 0x80 * j, 16, 16, 1⟩
def Reg.MAR_EPIN_OUT_BASE (i : Nat) (j : Nat) : Fld := ⟨0x810004 + 0x1000 * i + 0x80 * j, 0, 6, 0x10⟩
def Reg.MAR_EPIN_OUT_CNT (i : Nat) (j : Nat) : Fld := ⟨0x810004 + 0x1000 * i + 0x80 * j, 8, 6, 0⟩
def Reg.MAR_EPIN_IN_BASE (i : Nat) (j : Nat) : Fld := ⟨0x810004 + 0x1000 * i + 0x80 * j, 16, 6, 0x10⟩
def Reg.MAR_EPIN_IN_CNT (i : Nat) (j : Nat) : Fld := ⟨0x810004 + 0x1000 * i + 0x80 * j, 24, 6, 0⟩
def Reg.MAR_ESHIFT_OUT_RIGHT (i : Nat) (j : Nat) : Fld := ⟨0x810008 + 0x1000 * i + 0x80 * j, 0, 1, 0⟩
def Reg.MAR_ESHIFT_IN_RIGHT (i : Nat) (j : Nat) : Fld := ⟨0x810008 + 0x1000 * i + 0x80 * j, 1, 1, 0⟩
def Reg.MAR_ESHIFT_PULL_THR (i : Nat) (j : Nat) : Fld := ⟨0x810008 + 0x1000 * i + 0x80 * j, 8, 6, 0x20⟩
def Reg.MAR_ESHIFT_PUSH_THR (i : Nat) (j : Nat) : Fld := ⟨0x810008 + 0x1000 * i + 0x80 * j, 16, 6, 0x20⟩
def Reg.MAR_ESTAT_STATE (i : Nat) (j : Nat) : Fld := ⟨0x810010 + 0x1000 * i + 0x80 * j, 0, 2, 0⟩
def Reg.MAR_ESTAT_STALL (i : Nat) (j : Nat) : Fld := ⟨0x810010 + 0x1000 * i + 0x80 * j, 4, 4, 0⟩
def Reg.MAR_ESTAT_PC (i : Nat) (j : Nat) : Fld := ⟨0x810010 + 0x1000 * i + 0x80 * j, 8, 9, 0⟩
def Reg.MAR_ECNT_OSR_CNT (i : Nat) (j : Nat) : Fld := ⟨0x810014 + 0x1000 * i + 0x80 * j, 0, 6, 0⟩
def Reg.MAR_ECNT_ISR_CNT (i : Nat) (j : Nat) : Fld := ⟨0x810014 + 0x1000 * i + 0x80 * j, 8, 6, 0⟩
def Reg.MAR_ECNT_SHIFT_CNT (i : Nat) (j : Nat) : Fld := ⟨0x810014 + 0x1000 * i + 0x80 * j, 16, 6, 0⟩
def Reg.MAR_EEVT_LATE (i : Nat) (j : Nat) : Fld := ⟨0x810018 + 0x1000 * i + 0x80 * j, 0, 1, 0⟩
def Reg.MAR_EEVT_NODRV (i : Nat) (j : Nat) : Fld := ⟨0x810018 + 0x1000 * i + 0x80 * j, 1, 1, 0⟩
def Reg.MAR_EEVT_STALE_O (i : Nat) (j : Nat) : Fld := ⟨0x810018 + 0x1000 * i + 0x80 * j, 2, 1, 0⟩
def Reg.MAR_EEVT_STALE_I (i : Nat) (j : Nat) : Fld := ⟨0x810018 + 0x1000 * i + 0x80 * j, 3, 1, 0⟩
def Reg.MAR_EEVT_IRQ (i : Nat) (j : Nat) : Fld := ⟨0x810018 + 0x1000 * i + 0x80 * j, 4, 1, 0⟩
def Reg.MAR_EEVT_ABANDON (i : Nat) (j : Nat) : Fld := ⟨0x810018 + 0x1000 * i + 0x80 * j, 5, 1, 0⟩
def Reg.MAR_EEVT_CFG_REFUSED (i : Nat) (j : Nat) : Fld := ⟨0x810018 + 0x1000 * i + 0x80 * j, 6, 1, 0⟩
def Reg.MAR_EEVT_FAULT (i : Nat) (j : Nat) : Fld := ⟨0x810018 + 0x1000 * i + 0x80 * j, 7, 1, 0⟩
def Reg.MAR_EX_X (i : Nat) (j : Nat) : Fld := ⟨0x81001c + 0x1000 * i + 0x80 * j, 0, 32, 0⟩
def Reg.MAR_EY_Y (i : Nat) (j : Nat) : Fld := ⟨0x810020 + 0x1000 * i + 0x80 * j, 0, 32, 0⟩
def Reg.MAR_EOSR_OSR (i : Nat) (j : Nat) : Fld := ⟨0x810024 + 0x1000 * i + 0x80 * j, 0, 32, 0⟩
def Reg.MAR_EISR_ISR (i : Nat) (j : Nat) : Fld := ⟨0x810028 + 0x1000 * i + 0x80 * j, 0, 32, 0⟩
def Reg.MAR_ETCMP_TCMP (i : Nat) (j : Nat) : Fld := ⟨0x81002c + 0x1000 * i + 0x80 * j, 0, 64, 0⟩
def Reg.MAR_EEDGE_EDGE (i : Nat) (j : Nat) : Fld := ⟨0x810034 + 0x1000 * i + 0x80 * j, 0, 64, 0⟩
def Reg.MAR_EATLATE_COUNT (i : Nat) (j : Nat) : Fld := ⟨0x81003c + 0x1000 * i + 0x80 * j, 0, 32, 0⟩
def Reg.MAR_ESTALE_OUT (i : Nat) (j : Nat) : Fld := ⟨0x810060 + 0x1000 * i + 0x80 * j, 0, 16, 0⟩
def Reg.MAR_ESTALE_IN (i : Nat) (j : Nat) : Fld := ⟨0x810060 + 0x1000 * i + 0x80 * j, 16, 16, 0⟩
def Reg.MAR_EIMGI_OFF (i : Nat) (j : Nat) : Fld := ⟨0x810064 + 0x1000 * i + 0x80 * j, 0, 12, 0⟩
def Reg.MAR_EIMGI_LEN (i : Nat) (j : Nat) : Fld := ⟨0x810064 + 0x1000 * i + 0x80 * j, 16, 11, 0⟩
def Reg.MAR_EIMGI_CYC (i : Nat) (j : Nat) : Fld := ⟨0x810064 + 0x1000 * i + 0x80 * j, 31, 1, 0⟩
def Reg.MAR_EIMGO_OFF (i : Nat) (j : Nat) : Fld := ⟨0x810068 + 0x1000 * i + 0x80 * j, 0, 12, 0⟩
def Reg.MAR_EIMGO_LEN (i : Nat) (j : Nat) : Fld := ⟨0x810068 + 0x1000 * i + 0x80 * j, 16, 11, 0⟩
def Reg.MAR_EIMGSTAT_STALE (i : Nat) (j : Nat) : Fld := ⟨0x81006c + 0x1000 * i + 0x80 * j, 0, 8, 0⟩
def Reg.MAR_EIMGSTAT_BAD (i : Nat) (j : Nat) : Fld := ⟨0x81006c + 0x1000 * i + 0x80 * j, 8, 8, 0⟩
def Reg.MAR_EIMGSTAT_DISC (i : Nat) (j : Nat) : Fld := ⟨0x81006c + 0x1000 * i + 0x80 * j, 16, 8, 0⟩
def Reg.MAR_EIMGSTAT_OVF (i : Nat) (j : Nat) : Fld := ⟨0x81006c + 0x1000 * i + 0x80 * j, 24, 8, 0⟩
def Reg.MAR_CCTL_ACTIVE (i : Nat) : Fld := ⟨0x810800 + 0x1000 * i, 0, 1, 0⟩
def Reg.MAR_CCTL_SWAP_PEND (i : Nat) : Fld := ⟨0x810800 + 0x1000 * i, 1, 1, 0⟩
def Reg.MAR_CCTL_SWAP (i : Nat) : Fld := ⟨0x810800 + 0x1000 * i, 8, 1, 0⟩
def Reg.MAR_CCTL_FORCE_SWAP (i : Nat) : Fld := ⟨0x810800 + 0x1000 * i, 9, 1, 0⟩
def Reg.MAR_CEN_EN (i : Nat) : Fld := ⟨0x810804 + 0x1000 * i, 0, 8, 0⟩
def Reg.MAR_CSTR_L (i : Nat) : Fld := ⟨0x810808 + 0x1000 * i, 0, 8, 0⟩
def Reg.MAR_CSTRSET_L (i : Nat) : Fld := ⟨0x81080c + 0x1000 * i, 0, 8, 0⟩
def Reg.MAR_CSTRCLR_L (i : Nat) : Fld := ⟨0x810810 + 0x1000 * i, 0, 8, 0⟩
def Reg.MAR_CEVT_ACCESS_FAULT (i : Nat) : Fld := ⟨0x810814 + 0x1000 * i, 0, 1, 0⟩
def Reg.MAR_CEVT_CONFLICT (i : Nat) : Fld := ⟨0x810814 + 0x1000 * i, 1, 1, 0⟩
def Reg.MAR_CEVT_STR (i : Nat) : Fld := ⟨0x810814 + 0x1000 * i, 8, 3, 0⟩
def Reg.MAR_IMEM_WORD (i : Nat) (j : Nat) : Fld := ⟨0x820000 + 0x1000 * i + 4 * j, 0, 32, 0⟩
def Reg.MAR_GSTRLO_G : Fld := ⟨0x830000, 0, 32, 0⟩
def Reg.MAR_GSTRHI_G : Fld := ⟨0x830004, 0, 32, 0⟩
def Reg.MAR_GSTRSETLO_G : Fld := ⟨0x830008, 0, 32, 0⟩
def Reg.MAR_GSTRSETHI_G : Fld := ⟨0x83000c, 0, 32, 0⟩
def Reg.MAR_GSTRCLRLO_G : Fld := ⟨0x830010, 0, 32, 0⟩
def Reg.MAR_GSTRCLRHI_G : Fld := ⟨0x830014, 0, 32, 0⟩
def Reg.MAR_CFG_CYCSTR : Fld := ⟨0x830018, 0, 1, 0⟩
def Reg.MAR_STREVT_CONFLICT : Fld := ⟨0x83001c, 0, 1, 0⟩
def Reg.MAR_STREVT_STR : Fld := ⟨0x83001c, 8, 6, 0⟩
def Reg.MAR_IMGCAP_LEAD : Fld := ⟨0x830020, 0, 23, 0x1770⟩
def Reg.MAR_IMGAPP_NS : Fld := ⟨0x830024, 0, 23, 0x7530⟩
def Reg.MAR_EFLT_CAUSE (i : Nat) (j : Nat) : Fld := ⟨0x810070 + 0x1000 * i + 0x80 * j, 0, 4, 0⟩
def Reg.MAR_EFLT_PC (i : Nat) (j : Nat) : Fld := ⟨0x810070 + 0x1000 * i + 0x80 * j, 8, 9, 0⟩
def Reg.MAR_ECOND_TMO (i : Nat) (j : Nat) : Fld := ⟨0x810074 + 0x1000 * i + 0x80 * j, 0, 1, 0⟩
def Reg.MAR_TXQCFG_EN (i : Nat) (j : Nat) : Fld := ⟨0x810040 + 0x1000 * i + 0x80 * j, 0, 1, 0⟩
def Reg.MAR_TXQCFG_PKT (i : Nat) (j : Nat) : Fld := ⟨0x810040 + 0x1000 * i + 0x80 * j, 1, 1, 0⟩
def Reg.MAR_TXQCFG_NBPUSH (i : Nat) (j : Nat) : Fld := ⟨0x810040 + 0x1000 * i + 0x80 * j, 2, 1, 0⟩
def Reg.MAR_TXQCFG_MID (i : Nat) (j : Nat) : Fld := ⟨0x810040 + 0x1000 * i + 0x80 * j, 8, 6, 4⟩
def Reg.MAR_TXQSTAT_DEPTH (i : Nat) (j : Nat) : Fld := ⟨0x810044 + 0x1000 * i + 0x80 * j, 0, 11, 0⟩
def Reg.MAR_TXQSTAT_OPEN (i : Nat) (j : Nat) : Fld := ⟨0x810044 + 0x1000 * i + 0x80 * j, 11, 1, 0⟩
def Reg.MAR_TXQSTAT_UNDERRUN (i : Nat) (j : Nat) : Fld := ⟨0x810044 + 0x1000 * i + 0x80 * j, 12, 1, 0⟩
def Reg.MAR_TXQSTAT_OVERFLOW (i : Nat) (j : Nat) : Fld := ⟨0x810044 + 0x1000 * i + 0x80 * j, 13, 1, 0⟩
def Reg.MAR_TXQSTAT_PKT_ERR (i : Nat) (j : Nat) : Fld := ⟨0x810044 + 0x1000 * i + 0x80 * j, 14, 1, 0⟩
def Reg.MAR_TXQSTAT_REFUSED (i : Nat) (j : Nat) : Fld := ⟨0x810044 + 0x1000 * i + 0x80 * j, 15, 1, 0⟩
def Reg.MAR_TXQSTAT_MEET (i : Nat) (j : Nat) : Fld := ⟨0x810044 + 0x1000 * i + 0x80 * j, 16, 2, 0⟩
def Reg.MAR_TXQSTAT_FULL (i : Nat) (j : Nat) : Fld := ⟨0x810044 + 0x1000 * i + 0x80 * j, 18, 1, 0⟩
def Reg.MAR_TXQSTAT_STORED (i : Nat) (j : Nat) : Fld := ⟨0x810044 + 0x1000 * i + 0x80 * j, 19, 11, 0⟩
def Reg.MAR_TXQCNT_OVF (i : Nat) (j : Nat) : Fld := ⟨0x810048 + 0x1000 * i + 0x80 * j, 0, 16, 0⟩
def Reg.MAR_TXQCNT_UNF (i : Nat) (j : Nat) : Fld := ⟨0x810048 + 0x1000 * i + 0x80 * j, 16, 16, 0⟩
def Reg.MAR_TXQLAST_VALUE (i : Nat) (j : Nat) : Fld := ⟨0x81004c + 0x1000 * i + 0x80 * j, 0, 32, 0⟩
def Reg.MAR_RXQCFG_EN (i : Nat) (j : Nat) : Fld := ⟨0x810050 + 0x1000 * i + 0x80 * j, 0, 1, 0⟩
def Reg.MAR_RXQCFG_PKT (i : Nat) (j : Nat) : Fld := ⟨0x810050 + 0x1000 * i + 0x80 * j, 1, 1, 0⟩
def Reg.MAR_RXQCFG_NBPUSH (i : Nat) (j : Nat) : Fld := ⟨0x810050 + 0x1000 * i + 0x80 * j, 2, 1, 0⟩
def Reg.MAR_RXQCFG_MID (i : Nat) (j : Nat) : Fld := ⟨0x810050 + 0x1000 * i + 0x80 * j, 8, 6, 4⟩
def Reg.MAR_RXQSTAT_DEPTH (i : Nat) (j : Nat) : Fld := ⟨0x810054 + 0x1000 * i + 0x80 * j, 0, 11, 0⟩
def Reg.MAR_RXQSTAT_OPEN (i : Nat) (j : Nat) : Fld := ⟨0x810054 + 0x1000 * i + 0x80 * j, 11, 1, 0⟩
def Reg.MAR_RXQSTAT_UNDERRUN (i : Nat) (j : Nat) : Fld := ⟨0x810054 + 0x1000 * i + 0x80 * j, 12, 1, 0⟩
def Reg.MAR_RXQSTAT_OVERFLOW (i : Nat) (j : Nat) : Fld := ⟨0x810054 + 0x1000 * i + 0x80 * j, 13, 1, 0⟩
def Reg.MAR_RXQSTAT_PKT_ERR (i : Nat) (j : Nat) : Fld := ⟨0x810054 + 0x1000 * i + 0x80 * j, 14, 1, 0⟩
def Reg.MAR_RXQSTAT_REFUSED (i : Nat) (j : Nat) : Fld := ⟨0x810054 + 0x1000 * i + 0x80 * j, 15, 1, 0⟩
def Reg.MAR_RXQSTAT_MEET (i : Nat) (j : Nat) : Fld := ⟨0x810054 + 0x1000 * i + 0x80 * j, 16, 2, 0⟩
def Reg.MAR_RXQSTAT_FULL (i : Nat) (j : Nat) : Fld := ⟨0x810054 + 0x1000 * i + 0x80 * j, 18, 1, 0⟩
def Reg.MAR_RXQSTAT_STORED (i : Nat) (j : Nat) : Fld := ⟨0x810054 + 0x1000 * i + 0x80 * j, 19, 11, 0⟩
def Reg.MAR_RXQCNT_OVF (i : Nat) (j : Nat) : Fld := ⟨0x810058 + 0x1000 * i + 0x80 * j, 0, 16, 0⟩
def Reg.MAR_RXQCNT_UNF (i : Nat) (j : Nat) : Fld := ⟨0x810058 + 0x1000 * i + 0x80 * j, 16, 16, 0⟩
def Reg.MAR_RXQLAST_VALUE (i : Nat) (j : Nat) : Fld := ⟨0x81005c + 0x1000 * i + 0x80 * j, 0, 32, 0⟩
def Reg.MAR_BLKID_NUM : Fld := ⟨0x83ff00, 24, 8, 0x81⟩
def Reg.MAR_BLKID_REV : Fld := ⟨0x83ff00, 0, 16, Config.blockRev⟩
def Reg.MAR_LOCK_SET : Fld := ⟨0x83ff04, 0, 1, 0⟩
def Reg.MAR_SCRATCH_VALUE : Fld := ⟨0x83ff08, 0, 32, 0⟩

/-- The registers of block MAR. -/
def rowsMAR : List RegRow := [  { base := 0x810000, s1 := 0x1000, n1 := 16, s2 := 0x80, n2 := 8, fields := fun i j => [(Reg.MAR_ECFG_ENTRY i j, .rw), (Reg.MAR_ECFG_DIV i j, .rw)] },
  { base := 0x810004, s1 := 0x1000, n1 := 16, s2 := 0x80, n2 := 8, fields := fun i j => [(Reg.MAR_EPIN_OUT_BASE i j, .rw), (Reg.MAR_EPIN_OUT_CNT i j, .rw), (Reg.MAR_EPIN_IN_BASE i j, .rw), (Reg.MAR_EPIN_IN_CNT i j, .rw)] },
  { base := 0x810008, s1 := 0x1000, n1 := 16, s2 := 0x80, n2 := 8, fields := fun i j => [(Reg.MAR_ESHIFT_OUT_RIGHT i j, .rw), (Reg.MAR_ESHIFT_IN_RIGHT i j, .rw), (Reg.MAR_ESHIFT_PULL_THR i j, .rw), (Reg.MAR_ESHIFT_PUSH_THR i j, .rw)] },
  { base := 0x810010, s1 := 0x1000, n1 := 16, s2 := 0x80, n2 := 8, fields := fun i j => [(Reg.MAR_ESTAT_STATE i j, .ro), (Reg.MAR_ESTAT_STALL i j, .ro), (Reg.MAR_ESTAT_PC i j, .ro)] },
  { base := 0x810014, s1 := 0x1000, n1 := 16, s2 := 0x80, n2 := 8, fields := fun i j => [(Reg.MAR_ECNT_OSR_CNT i j, .ro), (Reg.MAR_ECNT_ISR_CNT i j, .ro), (Reg.MAR_ECNT_SHIFT_CNT i j, .ro)] },
  { base := 0x810018, s1 := 0x1000, n1 := 16, s2 := 0x80, n2 := 8, fields := fun i j => [(Reg.MAR_EEVT_LATE i j, .w1c), (Reg.MAR_EEVT_NODRV i j, .w1c), (Reg.MAR_EEVT_STALE_O i j, .w1c), (Reg.MAR_EEVT_STALE_I i j, .w1c), (Reg.MAR_EEVT_IRQ i j, .w1c), (Reg.MAR_EEVT_ABANDON i j, .w1c), (Reg.MAR_EEVT_CFG_REFUSED i j, .w1c), (Reg.MAR_EEVT_FAULT i j, .w1c)] },
  { base := 0x81001c, s1 := 0x1000, n1 := 16, s2 := 0x80, n2 := 8, fields := fun i j => [(Reg.MAR_EX_X i j, .ro)] },
  { base := 0x810020, s1 := 0x1000, n1 := 16, s2 := 0x80, n2 := 8, fields := fun i j => [(Reg.MAR_EY_Y i j, .ro)] },
  { base := 0x810024, s1 := 0x1000, n1 := 16, s2 := 0x80, n2 := 8, fields := fun i j => [(Reg.MAR_EOSR_OSR i j, .ro)] },
  { base := 0x810028, s1 := 0x1000, n1 := 16, s2 := 0x80, n2 := 8, fields := fun i j => [(Reg.MAR_EISR_ISR i j, .ro)] },
  { base := 0x81002c, s1 := 0x1000, n1 := 16, s2 := 0x80, n2 := 8, fields := fun i j => [(Reg.MAR_ETCMP_TCMP i j, .ro)] },
  { base := 0x810034, s1 := 0x1000, n1 := 16, s2 := 0x80, n2 := 8, fields := fun i j => [(Reg.MAR_EEDGE_EDGE i j, .ro)] },
  { base := 0x81003c, s1 := 0x1000, n1 := 16, s2 := 0x80, n2 := 8, fields := fun i j => [(Reg.MAR_EATLATE_COUNT i j, .rc)] },
  { base := 0x810060, s1 := 0x1000, n1 := 16, s2 := 0x80, n2 := 8, fields := fun i j => [(Reg.MAR_ESTALE_OUT i j, .rc), (Reg.MAR_ESTALE_IN i j, .rc)] },
  { base := 0x810064, s1 := 0x1000, n1 := 16, s2 := 0x80, n2 := 8, fields := fun i j => [(Reg.MAR_EIMGI_OFF i j, .rw), (Reg.MAR_EIMGI_LEN i j, .rw), (Reg.MAR_EIMGI_CYC i j, .rw)] },
  { base := 0x810068, s1 := 0x1000, n1 := 16, s2 := 0x80, n2 := 8, fields := fun i j => [(Reg.MAR_EIMGO_OFF i j, .rw), (Reg.MAR_EIMGO_LEN i j, .rw)] },
  { base := 0x81006c, s1 := 0x1000, n1 := 16, s2 := 0x80, n2 := 8, fields := fun i j => [(Reg.MAR_EIMGSTAT_STALE i j, .rc), (Reg.MAR_EIMGSTAT_BAD i j, .rc), (Reg.MAR_EIMGSTAT_DISC i j, .rc), (Reg.MAR_EIMGSTAT_OVF i j, .rc)] },
  { base := 0x810800, s1 := 0x1000, n1 := 16, s2 := 0x0, n2 := 1, fields := fun i _ => [(Reg.MAR_CCTL_ACTIVE i, .ro), (Reg.MAR_CCTL_SWAP_PEND i, .ro), (Reg.MAR_CCTL_SWAP i, .wo), (Reg.MAR_CCTL_FORCE_SWAP i, .wo)] },
  { base := 0x810804, s1 := 0x1000, n1 := 16, s2 := 0x0, n2 := 1, fields := fun i _ => [(Reg.MAR_CEN_EN i, .rw)] },
  { base := 0x810808, s1 := 0x1000, n1 := 16, s2 := 0x0, n2 := 1, fields := fun i _ => [(Reg.MAR_CSTR_L i, .ro)] },
  { base := 0x81080c, s1 := 0x1000, n1 := 16, s2 := 0x0, n2 := 1, fields := fun i _ => [(Reg.MAR_CSTRSET_L i, .wo)] },
  { base := 0x810810, s1 := 0x1000, n1 := 16, s2 := 0x0, n2 := 1, fields := fun i _ => [(Reg.MAR_CSTRCLR_L i, .wo)] },
  { base := 0x810814, s1 := 0x1000, n1 := 16, s2 := 0x0, n2 := 1, fields := fun i _ => [(Reg.MAR_CEVT_ACCESS_FAULT i, .w1c), (Reg.MAR_CEVT_CONFLICT i, .w1c), (Reg.MAR_CEVT_STR i, .ro)] },
  { base := 0x820000, s1 := 0x1000, n1 := 16, s2 := 0x4, n2 := 1024, fields := fun i j => [(Reg.MAR_IMEM_WORD i j, .rw)] },
  { base := 0x830000, s1 := 0x0, n1 := 1, s2 := 0x0, n2 := 1, fields := fun _ _ => [(Reg.MAR_GSTRLO_G, .ro)] },
  { base := 0x830004, s1 := 0x0, n1 := 1, s2 := 0x0, n2 := 1, fields := fun _ _ => [(Reg.MAR_GSTRHI_G, .ro)] },
  { base := 0x830008, s1 := 0x0, n1 := 1, s2 := 0x0, n2 := 1, fields := fun _ _ => [(Reg.MAR_GSTRSETLO_G, .wo)] },
  { base := 0x83000c, s1 := 0x0, n1 := 1, s2 := 0x0, n2 := 1, fields := fun _ _ => [(Reg.MAR_GSTRSETHI_G, .wo)] },
  { base := 0x830010, s1 := 0x0, n1 := 1, s2 := 0x0, n2 := 1, fields := fun _ _ => [(Reg.MAR_GSTRCLRLO_G, .wo)] },
  { base := 0x830014, s1 := 0x0, n1 := 1, s2 := 0x0, n2 := 1, fields := fun _ _ => [(Reg.MAR_GSTRCLRHI_G, .wo)] },
  { base := 0x830018, s1 := 0x0, n1 := 1, s2 := 0x0, n2 := 1, fields := fun _ _ => [(Reg.MAR_CFG_CYCSTR, .rw)] },
  { base := 0x83001c, s1 := 0x0, n1 := 1, s2 := 0x0, n2 := 1, fields := fun _ _ => [(Reg.MAR_STREVT_CONFLICT, .w1c), (Reg.MAR_STREVT_STR, .ro)] },
  { base := 0x830020, s1 := 0x0, n1 := 1, s2 := 0x0, n2 := 1, fields := fun _ _ => [(Reg.MAR_IMGCAP_LEAD, .rw)] },
  { base := 0x830024, s1 := 0x0, n1 := 1, s2 := 0x0, n2 := 1, fields := fun _ _ => [(Reg.MAR_IMGAPP_NS, .rw)] },
  { base := 0x810070, s1 := 0x1000, n1 := 16, s2 := 0x80, n2 := 8, fields := fun i j => [(Reg.MAR_EFLT_CAUSE i j, .ro), (Reg.MAR_EFLT_PC i j, .ro)] },
  { base := 0x810074, s1 := 0x1000, n1 := 16, s2 := 0x80, n2 := 8, fields := fun i j => [(Reg.MAR_ECOND_TMO i j, .ro)] },
  { base := 0x810040, s1 := 0x1000, n1 := 16, s2 := 0x80, n2 := 8, fields := fun i j => [(Reg.MAR_TXQCFG_EN i j, .rw), (Reg.MAR_TXQCFG_PKT i j, .rw), (Reg.MAR_TXQCFG_NBPUSH i j, .ro), (Reg.MAR_TXQCFG_MID i j, .rw)] },
  { base := 0x810044, s1 := 0x1000, n1 := 16, s2 := 0x80, n2 := 8, fields := fun i j => [(Reg.MAR_TXQSTAT_DEPTH i j, .ro), (Reg.MAR_TXQSTAT_OPEN i j, .ro), (Reg.MAR_TXQSTAT_UNDERRUN i j, .w1c), (Reg.MAR_TXQSTAT_OVERFLOW i j, .w1c), (Reg.MAR_TXQSTAT_PKT_ERR i j, .w1c), (Reg.MAR_TXQSTAT_REFUSED i j, .w1c), (Reg.MAR_TXQSTAT_MEET i j, .ro), (Reg.MAR_TXQSTAT_FULL i j, .ro), (Reg.MAR_TXQSTAT_STORED i j, .ro)] },
  { base := 0x810048, s1 := 0x1000, n1 := 16, s2 := 0x80, n2 := 8, fields := fun i j => [(Reg.MAR_TXQCNT_OVF i j, .rc), (Reg.MAR_TXQCNT_UNF i j, .rc)] },
  { base := 0x81004c, s1 := 0x1000, n1 := 16, s2 := 0x80, n2 := 8, fields := fun i j => [(Reg.MAR_TXQLAST_VALUE i j, .ro)] },
  { base := 0x810050, s1 := 0x1000, n1 := 16, s2 := 0x80, n2 := 8, fields := fun i j => [(Reg.MAR_RXQCFG_EN i j, .rw), (Reg.MAR_RXQCFG_PKT i j, .rw), (Reg.MAR_RXQCFG_NBPUSH i j, .rw), (Reg.MAR_RXQCFG_MID i j, .rw)] },
  { base := 0x810054, s1 := 0x1000, n1 := 16, s2 := 0x80, n2 := 8, fields := fun i j => [(Reg.MAR_RXQSTAT_DEPTH i j, .ro), (Reg.MAR_RXQSTAT_OPEN i j, .ro), (Reg.MAR_RXQSTAT_UNDERRUN i j, .w1c), (Reg.MAR_RXQSTAT_OVERFLOW i j, .w1c), (Reg.MAR_RXQSTAT_PKT_ERR i j, .w1c), (Reg.MAR_RXQSTAT_REFUSED i j, .w1c), (Reg.MAR_RXQSTAT_MEET i j, .ro), (Reg.MAR_RXQSTAT_FULL i j, .ro), (Reg.MAR_RXQSTAT_STORED i j, .ro)] },
  { base := 0x810058, s1 := 0x1000, n1 := 16, s2 := 0x80, n2 := 8, fields := fun i j => [(Reg.MAR_RXQCNT_OVF i j, .rc), (Reg.MAR_RXQCNT_UNF i j, .rc)] },
  { base := 0x81005c, s1 := 0x1000, n1 := 16, s2 := 0x80, n2 := 8, fields := fun i j => [(Reg.MAR_RXQLAST_VALUE i j, .ro)] },
  { base := 0x83ff00, s1 := 0x0, n1 := 1, s2 := 0x0, n2 := 1, fields := fun _ _ => [(Reg.MAR_BLKID_NUM, .ro), (Reg.MAR_BLKID_REV, .ro)] },
  { base := 0x83ff04, s1 := 0x0, n1 := 1, s2 := 0x0, n2 := 1, fields := fun _ _ => [(Reg.MAR_LOCK_SET, .rwl)] },
  { base := 0x83ff08, s1 := 0x0, n1 := 1, s2 := 0x0, n2 := 1, fields := fun _ _ => [(Reg.MAR_SCRATCH_VALUE, .rw)] }]

/-! ### FIO (R55, R274) -/

def Reg.FIO_CFG_DRV (i : Nat) : Fld := ⟨0x860000 + 0x10 * i, 0, 8, 0xff⟩
def Reg.FIO_CFG_MODE (i : Nat) : Fld := ⟨0x860000 + 0x10 * i, 8, 2, 0⟩
def Reg.FIO_CFG_PULL (i : Nat) : Fld := ⟨0x860000 + 0x10 * i, 10, 2, 0⟩
def Reg.FIO_CFG_INV (i : Nat) : Fld := ⟨0x860000 + 0x10 * i, 12, 1, 0⟩
def Reg.FIO_CFG_SLEW (i : Nat) : Fld := ⟨0x860000 + 0x10 * i, 13, 1, 0⟩
def Reg.FIO_CFG_SAFE (i : Nat) : Fld := ⟨0x860000 + 0x10 * i, 14, 2, 3⟩
def Reg.FIO_CFG_FILT (i : Nat) : Fld := ⟨0x860000 + 0x10 * i, 16, 4, 0⟩
def Reg.FIO_OUT_VALUE (i : Nat) : Fld := ⟨0x860004 + 0x10 * i, 0, 1, 0⟩
def Reg.FIO_IN_LEVEL (i : Nat) : Fld := ⟨0x860008 + 0x10 * i, 0, 1, 0⟩
def Reg.FIO_IN_DRIVEN (i : Nat) : Fld := ⟨0x860008 + 0x10 * i, 1, 1, 0⟩
def Reg.FIO_EVT_RISE (i : Nat) : Fld := ⟨0x86000c + 0x10 * i, 0, 1, 0⟩
def Reg.FIO_EVT_FALL (i : Nat) : Fld := ⟨0x86000c + 0x10 * i, 1, 1, 0⟩
def Reg.FIO_EVT_REFUSED (i : Nat) : Fld := ⟨0x86000c + 0x10 * i, 2, 1, 0⟩
def Reg.FIO_BCFG_VSEL (i : Nat) : Fld := ⟨0x868000 + 0x100 * i, 0, 1, 0⟩
def Reg.FIO_BSTAT_PRESENT (i : Nat) : Fld := ⟨0x868004 + 0x100 * i, 0, 1, 0⟩
def Reg.FIO_BSTAT_MISMATCH (i : Nat) : Fld := ⟨0x868004 + 0x100 * i, 1, 1, 0⟩
def Reg.FIO_BIN_LEVEL (i : Nat) : Fld := ⟨0x868008 + 0x100 * i, 0, 32, 0⟩
def Reg.FIO_BOUT_VALUE (i : Nat) : Fld := ⟨0x86800c + 0x100 * i, 0, 32, 0⟩
def Reg.FIO_BSET_VALUE (i : Nat) : Fld := ⟨0x868010 + 0x100 * i, 0, 32, 0⟩
def Reg.FIO_BCLR_VALUE (i : Nat) : Fld := ⟨0x868014 + 0x100 * i, 0, 32, 0⟩
def Reg.FIO_BIMG_IN_OFF (i : Nat) : Fld := ⟨0x868018 + 0x100 * i, 0, 12, 0⟩
def Reg.FIO_BIMG_IN_EN (i : Nat) : Fld := ⟨0x868018 + 0x100 * i, 12, 1, 0⟩
def Reg.FIO_BIMG_OUT_OFF (i : Nat) : Fld := ⟨0x868018 + 0x100 * i, 16, 12, 0⟩
def Reg.FIO_BIMG_OUT_EN (i : Nat) : Fld := ⟨0x868018 + 0x100 * i, 28, 1, 0⟩
def Reg.FIO_BIMGSTAT_OUT_LATE (i : Nat) : Fld := ⟨0x86801c + 0x100 * i, 0, 16, 0⟩
def Reg.FIO_SAFE_ACTIVE : Fld := ⟨0x869000, 0, 1, 0⟩
def Reg.FIO_SAFE_CLR : Fld := ⟨0x869000, 8, 1, 0⟩
def Reg.FIO_BLKID_NUM : Fld := ⟨0x87ff00, 24, 8, 0x86⟩
def Reg.FIO_BLKID_REV : Fld := ⟨0x87ff00, 0, 16, Config.blockRev⟩
def Reg.FIO_LOCK_SET : Fld := ⟨0x87ff04, 0, 1, 0⟩
def Reg.FIO_SCRATCH_VALUE : Fld := ⟨0x87ff08, 0, 32, 0⟩

/-- The registers of block FIO. -/
def rowsFIO : List RegRow := [  { base := 0x860000, s1 := 0x10, n1 := 256, s2 := 0x0, n2 := 1, fields := fun i _ => [(Reg.FIO_CFG_DRV i, .rw), (Reg.FIO_CFG_MODE i, .rw), (Reg.FIO_CFG_PULL i, .rw), (Reg.FIO_CFG_INV i, .rw), (Reg.FIO_CFG_SLEW i, .rw), (Reg.FIO_CFG_SAFE i, .rw), (Reg.FIO_CFG_FILT i, .rw)] },
  { base := 0x860004, s1 := 0x10, n1 := 256, s2 := 0x0, n2 := 1, fields := fun i _ => [(Reg.FIO_OUT_VALUE i, .rw)] },
  { base := 0x860008, s1 := 0x10, n1 := 256, s2 := 0x0, n2 := 1, fields := fun i _ => [(Reg.FIO_IN_LEVEL i, .ro), (Reg.FIO_IN_DRIVEN i, .ro)] },
  { base := 0x86000c, s1 := 0x10, n1 := 256, s2 := 0x0, n2 := 1, fields := fun i _ => [(Reg.FIO_EVT_RISE i, .w1c), (Reg.FIO_EVT_FALL i, .w1c), (Reg.FIO_EVT_REFUSED i, .w1c)] },
  { base := 0x868000, s1 := 0x100, n1 := 8, s2 := 0x0, n2 := 1, fields := fun i _ => [(Reg.FIO_BCFG_VSEL i, .rw)] },
  { base := 0x868004, s1 := 0x100, n1 := 8, s2 := 0x0, n2 := 1, fields := fun i _ => [(Reg.FIO_BSTAT_PRESENT i, .ro), (Reg.FIO_BSTAT_MISMATCH i, .ro)] },
  { base := 0x868008, s1 := 0x100, n1 := 8, s2 := 0x0, n2 := 1, fields := fun i _ => [(Reg.FIO_BIN_LEVEL i, .ro)] },
  { base := 0x86800c, s1 := 0x100, n1 := 8, s2 := 0x0, n2 := 1, fields := fun i _ => [(Reg.FIO_BOUT_VALUE i, .rw)] },
  { base := 0x868010, s1 := 0x100, n1 := 8, s2 := 0x0, n2 := 1, fields := fun i _ => [(Reg.FIO_BSET_VALUE i, .wo)] },
  { base := 0x868014, s1 := 0x100, n1 := 8, s2 := 0x0, n2 := 1, fields := fun i _ => [(Reg.FIO_BCLR_VALUE i, .wo)] },
  { base := 0x868018, s1 := 0x100, n1 := 8, s2 := 0x0, n2 := 1, fields := fun i _ => [(Reg.FIO_BIMG_IN_OFF i, .rw), (Reg.FIO_BIMG_IN_EN i, .rw), (Reg.FIO_BIMG_OUT_OFF i, .rw), (Reg.FIO_BIMG_OUT_EN i, .rw)] },
  { base := 0x86801c, s1 := 0x100, n1 := 8, s2 := 0x0, n2 := 1, fields := fun i _ => [(Reg.FIO_BIMGSTAT_OUT_LATE i, .rc)] },
  { base := 0x869000, s1 := 0x0, n1 := 1, s2 := 0x0, n2 := 1, fields := fun _ _ => [(Reg.FIO_SAFE_ACTIVE, .ro), (Reg.FIO_SAFE_CLR, .wo)] },
  { base := 0x87ff00, s1 := 0x0, n1 := 1, s2 := 0x0, n2 := 1, fields := fun _ _ => [(Reg.FIO_BLKID_NUM, .ro), (Reg.FIO_BLKID_REV, .ro)] },
  { base := 0x87ff04, s1 := 0x0, n1 := 1, s2 := 0x0, n2 := 1, fields := fun _ _ => [(Reg.FIO_LOCK_SET, .rwl)] },
  { base := 0x87ff08, s1 := 0x0, n1 := 1, s2 := 0x0, n2 := 1, fields := fun _ _ => [(Reg.FIO_SCRATCH_VALUE, .rw)] }]

/-! ### CAN (R55, R201, R318, R339) -/

def Reg.CAN_CTL_MODE (i : Nat) : Fld := ⟨0x840000 + 0x1000 * i, 0, 3, 0⟩
def Reg.CAN_CTL_FD_ALLOW (i : Nat) : Fld := ⟨0x840000 + 0x1000 * i, 3, 1, 0⟩
def Reg.CAN_CTL_SWITCH_ALLOW (i : Nat) : Fld := ⟨0x840000 + 0x1000 * i, 4, 1, 0⟩
def Reg.CAN_CTL_SINGLE_SHOT (i : Nat) : Fld := ⟨0x840000 + 0x1000 * i, 5, 1, 0⟩
def Reg.CAN_CTL_XL_AS_ERROR (i : Nat) : Fld := ⟨0x840000 + 0x1000 * i, 6, 1, 0⟩
def Reg.CAN_CTL_AUTO_RECOVER (i : Nat) : Fld := ⟨0x840000 + 0x1000 * i, 7, 1, 1⟩
def Reg.CAN_CTL_TXORD (i : Nat) : Fld := ⟨0x840000 + 0x1000 * i, 8, 1, 0⟩
def Reg.CAN_CMD_BO_RECOVER (i : Nat) : Fld := ⟨0x840004 + 0x1000 * i, 0, 1, 0⟩
def Reg.CAN_ARBT_A_PRESC (i : Nat) : Fld := ⟨0x840008 + 0x1000 * i, 0, 5, 0⟩
def Reg.CAN_ARBT_A_PH1 (i : Nat) : Fld := ⟨0x840008 + 0x1000 * i, 8, 8, 0x3e⟩
def Reg.CAN_ARBT_A_PH2 (i : Nat) : Fld := ⟨0x840008 + 0x1000 * i, 16, 7, 0xf⟩
def Reg.CAN_ARBT_A_SJW (i : Nat) : Fld := ⟨0x840008 + 0x1000 * i, 24, 7, 0xf⟩
def Reg.CAN_DATT_D_PRESC (i : Nat) : Fld := ⟨0x84000c + 0x1000 * i, 0, 5, 0⟩
def Reg.CAN_DATT_D_PH1 (i : Nat) : Fld := ⟨0x84000c + 0x1000 * i, 8, 5, 0x1c⟩
def Reg.CAN_DATT_D_PH2 (i : Nat) : Fld := ⟨0x84000c + 0x1000 * i, 16, 4, 9⟩
def Reg.CAN_DATT_D_SJW (i : Nat) : Fld := ⟨0x84000c + 0x1000 * i, 24, 4, 9⟩
def Reg.CAN_SSP_SSP_OFS (i : Nat) : Fld := ⟨0x840010 + 0x1000 * i, 0, 7, 0⟩
def Reg.CAN_SSP_SSP_EN (i : Nat) : Fld := ⟨0x840010 + 0x1000 * i, 15, 1, 0⟩
def Reg.CAN_SSP_LOOP_DLY (i : Nat) : Fld := ⟨0x840010 + 0x1000 * i, 16, 7, 0⟩
def Reg.CAN_STAT_MODE (i : Nat) : Fld := ⟨0x840014 + 0x1000 * i, 0, 3, 0⟩
def Reg.CAN_STAT_INTEG (i : Nat) : Fld := ⟨0x840014 + 0x1000 * i, 3, 1, 0⟩
def Reg.CAN_STAT_ACT (i : Nat) : Fld := ⟨0x840014 + 0x1000 * i, 4, 2, 0⟩
def Reg.CAN_STAT_DOMINANT (i : Nat) : Fld := ⟨0x840014 + 0x1000 * i, 6, 1, 0⟩
def Reg.CAN_EVT_BOFF (i : Nat) : Fld := ⟨0x840018 + 0x1000 * i, 0, 1, 0⟩
def Reg.CAN_EVT_EPASS (i : Nat) : Fld := ⟨0x840018 + 0x1000 * i, 1, 1, 0⟩
def Reg.CAN_EVT_EWARN (i : Nat) : Fld := ⟨0x840018 + 0x1000 * i, 2, 1, 0⟩
def Reg.CAN_EVT_PXE (i : Nat) : Fld := ⟨0x840018 + 0x1000 * i, 3, 1, 0⟩
def Reg.CAN_EVT_DOM (i : Nat) : Fld := ⟨0x840018 + 0x1000 * i, 4, 1, 0⟩
def Reg.CAN_EVT_RXQ0 (i : Nat) : Fld := ⟨0x840018 + 0x1000 * i, 5, 1, 0⟩
def Reg.CAN_EVT_RXQ1 (i : Nat) : Fld := ⟨0x840018 + 0x1000 * i, 6, 1, 0⟩
def Reg.CAN_EVT_RXQ0_OVF (i : Nat) : Fld := ⟨0x840018 + 0x1000 * i, 7, 1, 0⟩
def Reg.CAN_EVT_RXQ1_OVF (i : Nat) : Fld := ⟨0x840018 + 0x1000 * i, 8, 1, 0⟩
def Reg.CAN_EVT_TXDONE (i : Nat) : Fld := ⟨0x840018 + 0x1000 * i, 9, 1, 0⟩
def Reg.CAN_EVT_LATE (i : Nat) : Fld := ⟨0x840018 + 0x1000 * i, 10, 1, 0⟩
def Reg.CAN_EVT_CFG_REFUSED (i : Nat) : Fld := ⟨0x840018 + 0x1000 * i, 11, 1, 0⟩
def Reg.CAN_EVT_TXINVALID (i : Nat) : Fld := ⟨0x840018 + 0x1000 * i, 12, 1, 0⟩
def Reg.CAN_EVT_SQFAIL (i : Nat) : Fld := ⟨0x840018 + 0x1000 * i, 13, 1, 0⟩
def Reg.CAN_EVT_BORECOV (i : Nat) : Fld := ⟨0x840018 + 0x1000 * i, 14, 1, 0⟩
def Reg.CAN_EVTEN_EN (i : Nat) : Fld := ⟨0x84001c + 0x1000 * i, 0, 15, 0⟩
def Reg.CAN_FCFG_NOMATCH (i : Nat) : Fld := ⟨0x840020 + 0x1000 * i, 0, 2, 0⟩
def Reg.CAN_FCFG_RREJ (i : Nat) : Fld := ⟨0x840020 + 0x1000 * i, 2, 1, 0⟩
def Reg.CAN_DOMCFG_DOM_US (i : Nat) : Fld := ⟨0x840024 + 0x1000 * i, 0, 16, 0x64⟩
def Reg.CAN_LCFG_LATE_US (i : Nat) : Fld := ⟨0x840028 + 0x1000 * i, 0, 16, 0x64⟩
def Reg.CAN_LCFG_LATEMODE (i : Nat) : Fld := ⟨0x840028 + 0x1000 * i, 16, 1, 0⟩
def Reg.CAN_TXSQ_BASE (i : Nat) : Fld := ⟨0x84002c + 0x1000 * i, 0, 5, 0x18⟩
def Reg.CAN_TXSQ_EN (i : Nat) : Fld := ⟨0x84002c + 0x1000 * i, 7, 1, 0⟩
def Reg.CAN_ECNT_TEC (i : Nat) : Fld := ⟨0x840040 + 0x1000 * i, 0, 8, 0⟩
def Reg.CAN_ECNT_REC (i : Nat) : Fld := ⟨0x840040 + 0x1000 * i, 8, 7, 0⟩
def Reg.CAN_ECNT_RX_PASSIVE (i : Nat) : Fld := ⟨0x840040 + 0x1000 * i, 15, 1, 0⟩
def Reg.CAN_ECNT_STATE (i : Nat) : Fld := ⟨0x840040 + 0x1000 * i, 16, 2, 0⟩
def Reg.CAN_ECNT_WARN (i : Nat) : Fld := ⟨0x840040 + 0x1000 * i, 18, 1, 0⟩
def Reg.CAN_LASTERR_ERR (i : Nat) : Fld := ⟨0x840044 + 0x1000 * i, 0, 3, 0⟩
def Reg.CAN_LASTERR_DERR (i : Nat) : Fld := ⟨0x840044 + 0x1000 * i, 4, 3, 0⟩
def Reg.CAN_RXOK_COUNT (i : Nat) : Fld := ⟨0x840060 + 0x1000 * i, 0, 32, 0⟩
def Reg.CAN_TXOK_COUNT (i : Nat) : Fld := ⟨0x840064 + 0x1000 * i, 0, 32, 0⟩
def Reg.CAN_ARBLOST_COUNT (i : Nat) : Fld := ⟨0x840068 + 0x1000 * i, 0, 32, 0⟩
def Reg.CAN_ERRFRM_COUNT (i : Nat) : Fld := ⟨0x84006c + 0x1000 * i, 0, 32, 0⟩
def Reg.CAN_PXE_COUNT (i : Nat) : Fld := ⟨0x840070 + 0x1000 * i, 0, 32, 0⟩
def Reg.CAN_BOCNT_COUNT (i : Nat) : Fld := ⟨0x840074 + 0x1000 * i, 0, 16, 0⟩
def Reg.CAN_NOMATCH_COUNT (i : Nat) : Fld := ⟨0x840078 + 0x1000 * i, 0, 32, 0⟩
def Reg.CAN_SQBAD_COUNT (i : Nat) : Fld := ⟨0x84007c + 0x1000 * i, 0, 32, 0⟩
def Reg.CAN_SQFAIL_COUNT (i : Nat) : Fld := ⟨0x840080 + 0x1000 * i, 0, 32, 0⟩
def Reg.CAN_IMGOVR_COUNT (i : Nat) : Fld := ⟨0x840084 + 0x1000 * i, 0, 32, 0⟩
def Reg.CAN_TXPEND_BUF (i : Nat) : Fld := ⟨0x840090 + 0x1000 * i, 0, 32, 0⟩
def Reg.CAN_TXDONE_BUF (i : Nat) : Fld := ⟨0x840094 + 0x1000 * i, 0, 32, 0⟩
def Reg.CAN_RXQCFG_OVERWRITE (i : Nat) (j : Nat) : Fld := ⟨0x840100 + 0x1000 * i + 0x20 * j, 0, 1, 0⟩
def Reg.CAN_RXQSTAT_PUT (i : Nat) (j : Nat) : Fld := ⟨0x840104 + 0x1000 * i + 0x20 * j, 0, 6, 0⟩
def Reg.CAN_RXQSTAT_GET (i : Nat) (j : Nat) : Fld := ⟨0x840104 + 0x1000 * i + 0x20 * j, 8, 6, 0⟩
def Reg.CAN_RXQSTAT_FILL (i : Nat) (j : Nat) : Fld := ⟨0x840104 + 0x1000 * i + 0x20 * j, 16, 7, 0⟩
def Reg.CAN_RXQSTAT_FULL (i : Nat) (j : Nat) : Fld := ⟨0x840104 + 0x1000 * i + 0x20 * j, 23, 1, 0⟩
def Reg.CAN_RXQGET_GET (i : Nat) (j : Nat) : Fld := ⟨0x840108 + 0x1000 * i + 0x20 * j, 0, 6, 0⟩
def Reg.CAN_RXQLOST_COUNT (i : Nat) (j : Nat) : Fld := ⟨0x84010c + 0x1000 * i + 0x20 * j, 0, 32, 0⟩
def Reg.CAN_RXQOVW_COUNT (i : Nat) (j : Nat) : Fld := ⟨0x840110 + 0x1000 * i + 0x20 * j, 0, 32, 0⟩
def Reg.CAN_TXB_REQ (i : Nat) (j : Nat) : Fld := ⟨0x840400 + 0x1000 * i + 0x10 * j, 0, 1, 0⟩
def Reg.CAN_TXB_CANCEL (i : Nat) (j : Nat) : Fld := ⟨0x840400 + 0x1000 * i + 0x10 * j, 1, 1, 0⟩
def Reg.CAN_TXB_STATE (i : Nat) (j : Nat) : Fld := ⟨0x840400 + 0x1000 * i + 0x10 * j, 4, 3, 0⟩
def Reg.CAN_TXB_CANPEND (i : Nat) (j : Nat) : Fld := ⟨0x840400 + 0x1000 * i + 0x10 * j, 7, 1, 0⟩
def Reg.CAN_TXB_OUTCOME (i : Nat) (j : Nat) : Fld := ⟨0x840400 + 0x1000 * i + 0x10 * j, 8, 4, 0⟩
def Reg.CAN_TXB_LATE (i : Nat) (j : Nat) : Fld := ⟨0x840400 + 0x1000 * i + 0x10 * j, 12, 1, 0⟩
def Reg.CAN_TXB_POOL (i : Nat) (j : Nat) : Fld := ⟨0x840400 + 0x1000 * i + 0x10 * j, 13, 1, 0⟩
def Reg.CAN_TXB_ATTEMPTS (i : Nat) (j : Nat) : Fld := ⟨0x840400 + 0x1000 * i + 0x10 * j, 16, 8, 0⟩
def Reg.CAN_TXBTS_TIME (i : Nat) (j : Nat) : Fld := ⟨0x840404 + 0x1000 * i + 0x10 * j, 0, 64, 0⟩
def Reg.CAN_TXIMG_OFF (i : Nat) (j : Nat) : Fld := ⟨0x84040c + 0x1000 * i + 0x10 * j, 0, 12, 0⟩
def Reg.CAN_TXIMG_LEN (i : Nat) (j : Nat) : Fld := ⟨0x84040c + 0x1000 * i + 0x10 * j, 16, 7, 0⟩
def Reg.CAN_TXIMG_EN (i : Nat) (j : Nat) : Fld := ⟨0x84040c + 0x1000 * i + 0x10 * j, 31, 1, 0⟩
def Reg.CAN_FID_ID (i : Nat) (j : Nat) : Fld := ⟨0x840600 + 0x1000 * i + 0x10 * j, 0, 29, 0⟩
def Reg.CAN_FID_IDE (i : Nat) (j : Nat) : Fld := ⟨0x840600 + 0x1000 * i + 0x10 * j, 29, 1, 0⟩
def Reg.CAN_FID_EN (i : Nat) (j : Nat) : Fld := ⟨0x840600 + 0x1000 * i + 0x10 * j, 31, 1, 0⟩
def Reg.CAN_FMSK_MASK (i : Nat) (j : Nat) : Fld := ⟨0x840604 + 0x1000 * i + 0x10 * j, 0, 29, 0⟩
def Reg.CAN_FMSK_IDEM (i : Nat) (j : Nat) : Fld := ⟨0x840604 + 0x1000 * i + 0x10 * j, 29, 1, 1⟩
def Reg.CAN_FMSK_DEST (i : Nat) (j : Nat) : Fld := ⟨0x840604 + 0x1000 * i + 0x10 * j, 30, 2, 3⟩
def Reg.CAN_FIMG_OFF (i : Nat) (j : Nat) : Fld := ⟨0x840608 + 0x1000 * i + 0x10 * j, 0, 12, 0⟩
def Reg.CAN_FIMG_LEN (i : Nat) (j : Nat) : Fld := ⟨0x840608 + 0x1000 * i + 0x10 * j, 16, 7, 0⟩
def Reg.CAN_FIMG_EN (i : Nat) (j : Nat) : Fld := ⟨0x840608 + 0x1000 * i + 0x10 * j, 31, 1, 0⟩
def Reg.CAN_FHIT_COUNT (i : Nat) (j : Nat) : Fld := ⟨0x84060c + 0x1000 * i + 0x10 * j, 0, 32, 0⟩
def Reg.CAN_XCV_MODE (i : Nat) : Fld := ⟨0x8400a0 + 0x1000 * i, 0, 2, 2⟩
def Reg.CAN_XCV_STATE (i : Nat) : Fld := ⟨0x8400a0 + 0x1000 * i, 4, 3, 2⟩
def Reg.CAN_XCV_INH (i : Nat) : Fld := ⟨0x8400a0 + 0x1000 * i, 7, 1, 1⟩
def Reg.CAN_SLPEVT_WUP (i : Nat) : Fld := ⟨0x8400a4 + 0x1000 * i, 0, 1, 0⟩
def Reg.CAN_SLPEVT_UV (i : Nat) : Fld := ⟨0x8400a4 + 0x1000 * i, 1, 1, 0⟩
def Reg.CAN_SLPEVT_WAKE_CAPT (i : Nat) : Fld := ⟨0x8400a4 + 0x1000 * i, 2, 1, 0⟩
def Reg.CAN_SLPEVT_NM_REFUSED (i : Nat) : Fld := ⟨0x8400a4 + 0x1000 * i, 3, 1, 0⟩
def Reg.CAN_NMCFG_EN (i : Nat) : Fld := ⟨0x8400a8 + 0x1000 * i, 0, 1, 0⟩
def Reg.CAN_NMCFG_NEED (i : Nat) : Fld := ⟨0x8400a8 + 0x1000 * i, 1, 1, 0⟩
def Reg.CAN_NMCFG_TXB (i : Nat) : Fld := ⟨0x8400a8 + 0x1000 * i, 2, 5, 0⟩
def Reg.CAN_NMCFG_FILT (i : Nat) : Fld := ⟨0x8400a8 + 0x1000 * i, 8, 7, 0⟩
def Reg.CAN_NMCFG_KA_MS (i : Nat) : Fld := ⟨0x8400a8 + 0x1000 * i, 16, 16, 0x64⟩
def Reg.CAN_NMTIM_RS_MS (i : Nat) : Fld := ⟨0x8400ac + 0x1000 * i, 0, 16, 0x5dc⟩
def Reg.CAN_NMTIM_PS_MS (i : Nat) : Fld := ⟨0x8400ac + 0x1000 * i, 16, 16, 0x1f4⟩
def Reg.CAN_NMSTAT_STATE (i : Nat) : Fld := ⟨0x8400b0 + 0x1000 * i, 0, 3, 0⟩
def Reg.CAN_NMCNT_KASKIP (i : Nat) : Fld := ⟨0x8400b4 + 0x1000 * i, 0, 8, 0⟩
def Reg.CAN_NMCNT_KATX (i : Nat) : Fld := ⟨0x8400b4 + 0x1000 * i, 16, 16, 0⟩
def Reg.CAN_TSQCFG_EN (i : Nat) : Fld := ⟨0x840e00 + 0x1000 * i, 0, 1, 0⟩
def Reg.CAN_TSQCFG_PKT (i : Nat) : Fld := ⟨0x840e00 + 0x1000 * i, 1, 1, 0⟩
def Reg.CAN_TSQCFG_NBPUSH (i : Nat) : Fld := ⟨0x840e00 + 0x1000 * i, 2, 1, 0⟩
def Reg.CAN_TSQCFG_MID (i : Nat) : Fld := ⟨0x840e00 + 0x1000 * i, 8, 6, 8⟩
def Reg.CAN_TSQSTAT_DEPTH (i : Nat) : Fld := ⟨0x840e04 + 0x1000 * i, 0, 11, 0⟩
def Reg.CAN_TSQSTAT_OPEN (i : Nat) : Fld := ⟨0x840e04 + 0x1000 * i, 11, 1, 0⟩
def Reg.CAN_TSQSTAT_UNDERRUN (i : Nat) : Fld := ⟨0x840e04 + 0x1000 * i, 12, 1, 0⟩
def Reg.CAN_TSQSTAT_OVERFLOW (i : Nat) : Fld := ⟨0x840e04 + 0x1000 * i, 13, 1, 0⟩
def Reg.CAN_TSQSTAT_PKT_ERR (i : Nat) : Fld := ⟨0x840e04 + 0x1000 * i, 14, 1, 0⟩
def Reg.CAN_TSQSTAT_REFUSED (i : Nat) : Fld := ⟨0x840e04 + 0x1000 * i, 15, 1, 0⟩
def Reg.CAN_TSQSTAT_MEET (i : Nat) : Fld := ⟨0x840e04 + 0x1000 * i, 16, 2, 0⟩
def Reg.CAN_TSQSTAT_FULL (i : Nat) : Fld := ⟨0x840e04 + 0x1000 * i, 18, 1, 0⟩
def Reg.CAN_TSQSTAT_STORED (i : Nat) : Fld := ⟨0x840e04 + 0x1000 * i, 19, 11, 0⟩
def Reg.CAN_TSQCNT_OVF (i : Nat) : Fld := ⟨0x840e08 + 0x1000 * i, 0, 16, 0⟩
def Reg.CAN_TSQCNT_UNF (i : Nat) : Fld := ⟨0x840e08 + 0x1000 * i, 16, 16, 0⟩
def Reg.CAN_TSQLAST_VALUE (i : Nat) : Fld := ⟨0x840e0c + 0x1000 * i, 0, 32, 0⟩
def Reg.CAN_RSQCFG_EN (i : Nat) : Fld := ⟨0x840e10 + 0x1000 * i, 0, 1, 0⟩
def Reg.CAN_RSQCFG_PKT (i : Nat) : Fld := ⟨0x840e10 + 0x1000 * i, 1, 1, 0⟩
def Reg.CAN_RSQCFG_NBPUSH (i : Nat) : Fld := ⟨0x840e10 + 0x1000 * i, 2, 1, 0⟩
def Reg.CAN_RSQCFG_MID (i : Nat) : Fld := ⟨0x840e10 + 0x1000 * i, 8, 6, 8⟩
def Reg.CAN_RSQSTAT_DEPTH (i : Nat) : Fld := ⟨0x840e14 + 0x1000 * i, 0, 11, 0⟩
def Reg.CAN_RSQSTAT_OPEN (i : Nat) : Fld := ⟨0x840e14 + 0x1000 * i, 11, 1, 0⟩
def Reg.CAN_RSQSTAT_UNDERRUN (i : Nat) : Fld := ⟨0x840e14 + 0x1000 * i, 12, 1, 0⟩
def Reg.CAN_RSQSTAT_OVERFLOW (i : Nat) : Fld := ⟨0x840e14 + 0x1000 * i, 13, 1, 0⟩
def Reg.CAN_RSQSTAT_PKT_ERR (i : Nat) : Fld := ⟨0x840e14 + 0x1000 * i, 14, 1, 0⟩
def Reg.CAN_RSQSTAT_REFUSED (i : Nat) : Fld := ⟨0x840e14 + 0x1000 * i, 15, 1, 0⟩
def Reg.CAN_RSQSTAT_MEET (i : Nat) : Fld := ⟨0x840e14 + 0x1000 * i, 16, 2, 0⟩
def Reg.CAN_RSQSTAT_FULL (i : Nat) : Fld := ⟨0x840e14 + 0x1000 * i, 18, 1, 0⟩
def Reg.CAN_RSQSTAT_STORED (i : Nat) : Fld := ⟨0x840e14 + 0x1000 * i, 19, 11, 0⟩
def Reg.CAN_RSQCNT_OVF (i : Nat) : Fld := ⟨0x840e18 + 0x1000 * i, 0, 16, 0⟩
def Reg.CAN_RSQCNT_UNF (i : Nat) : Fld := ⟨0x840e18 + 0x1000 * i, 16, 16, 0⟩
def Reg.CAN_RSQLAST_VALUE (i : Nat) : Fld := ⟨0x840e1c + 0x1000 * i, 0, 32, 0⟩
def Reg.CAN_BLKID_NUM : Fld := ⟨0x85ff00, 24, 8, 0x84⟩
def Reg.CAN_BLKID_REV : Fld := ⟨0x85ff00, 0, 16, Config.blockRev⟩
def Reg.CAN_LOCK_SET : Fld := ⟨0x85ff04, 0, 1, 0⟩
def Reg.CAN_SCRATCH_VALUE : Fld := ⟨0x85ff08, 0, 32, 0⟩

/-- The registers of block CAN. -/
def rowsCAN : List RegRow := [  { base := 0x840000, s1 := 0x1000, n1 := 16, s2 := 0x0, n2 := 1, fields := fun i _ => [(Reg.CAN_CTL_MODE i, .rw), (Reg.CAN_CTL_FD_ALLOW i, .rw), (Reg.CAN_CTL_SWITCH_ALLOW i, .rw), (Reg.CAN_CTL_SINGLE_SHOT i, .rw), (Reg.CAN_CTL_XL_AS_ERROR i, .rw), (Reg.CAN_CTL_AUTO_RECOVER i, .rw), (Reg.CAN_CTL_TXORD i, .rw)] },
  { base := 0x840004, s1 := 0x1000, n1 := 16, s2 := 0x0, n2 := 1, fields := fun i _ => [(Reg.CAN_CMD_BO_RECOVER i, .wo)] },
  { base := 0x840008, s1 := 0x1000, n1 := 16, s2 := 0x0, n2 := 1, fields := fun i _ => [(Reg.CAN_ARBT_A_PRESC i, .rw), (Reg.CAN_ARBT_A_PH1 i, .rw), (Reg.CAN_ARBT_A_PH2 i, .rw), (Reg.CAN_ARBT_A_SJW i, .rw)] },
  { base := 0x84000c, s1 := 0x1000, n1 := 16, s2 := 0x0, n2 := 1, fields := fun i _ => [(Reg.CAN_DATT_D_PRESC i, .rw), (Reg.CAN_DATT_D_PH1 i, .rw), (Reg.CAN_DATT_D_PH2 i, .rw), (Reg.CAN_DATT_D_SJW i, .rw)] },
  { base := 0x840010, s1 := 0x1000, n1 := 16, s2 := 0x0, n2 := 1, fields := fun i _ => [(Reg.CAN_SSP_SSP_OFS i, .rw), (Reg.CAN_SSP_SSP_EN i, .rw), (Reg.CAN_SSP_LOOP_DLY i, .ro)] },
  { base := 0x840014, s1 := 0x1000, n1 := 16, s2 := 0x0, n2 := 1, fields := fun i _ => [(Reg.CAN_STAT_MODE i, .ro), (Reg.CAN_STAT_INTEG i, .ro), (Reg.CAN_STAT_ACT i, .ro), (Reg.CAN_STAT_DOMINANT i, .ro)] },
  { base := 0x840018, s1 := 0x1000, n1 := 16, s2 := 0x0, n2 := 1, fields := fun i _ => [(Reg.CAN_EVT_BOFF i, .w1c), (Reg.CAN_EVT_EPASS i, .w1c), (Reg.CAN_EVT_EWARN i, .w1c), (Reg.CAN_EVT_PXE i, .w1c), (Reg.CAN_EVT_DOM i, .w1c), (Reg.CAN_EVT_RXQ0 i, .w1c), (Reg.CAN_EVT_RXQ1 i, .w1c), (Reg.CAN_EVT_RXQ0_OVF i, .w1c), (Reg.CAN_EVT_RXQ1_OVF i, .w1c), (Reg.CAN_EVT_TXDONE i, .w1c), (Reg.CAN_EVT_LATE i, .w1c), (Reg.CAN_EVT_CFG_REFUSED i, .w1c), (Reg.CAN_EVT_TXINVALID i, .w1c), (Reg.CAN_EVT_SQFAIL i, .w1c), (Reg.CAN_EVT_BORECOV i, .w1c)] },
  { base := 0x84001c, s1 := 0x1000, n1 := 16, s2 := 0x0, n2 := 1, fields := fun i _ => [(Reg.CAN_EVTEN_EN i, .rw)] },
  { base := 0x840020, s1 := 0x1000, n1 := 16, s2 := 0x0, n2 := 1, fields := fun i _ => [(Reg.CAN_FCFG_NOMATCH i, .rw), (Reg.CAN_FCFG_RREJ i, .rw)] },
  { base := 0x840024, s1 := 0x1000, n1 := 16, s2 := 0x0, n2 := 1, fields := fun i _ => [(Reg.CAN_DOMCFG_DOM_US i, .rw)] },
  { base := 0x840028, s1 := 0x1000, n1 := 16, s2 := 0x0, n2 := 1, fields := fun i _ => [(Reg.CAN_LCFG_LATE_US i, .rw), (Reg.CAN_LCFG_LATEMODE i, .rw)] },
  { base := 0x84002c, s1 := 0x1000, n1 := 16, s2 := 0x0, n2 := 1, fields := fun i _ => [(Reg.CAN_TXSQ_BASE i, .rw), (Reg.CAN_TXSQ_EN i, .rw)] },
  { base := 0x840040, s1 := 0x1000, n1 := 16, s2 := 0x0, n2 := 1, fields := fun i _ => [(Reg.CAN_ECNT_TEC i, .ro), (Reg.CAN_ECNT_REC i, .ro), (Reg.CAN_ECNT_RX_PASSIVE i, .ro), (Reg.CAN_ECNT_STATE i, .ro), (Reg.CAN_ECNT_WARN i, .ro)] },
  { base := 0x840044, s1 := 0x1000, n1 := 16, s2 := 0x0, n2 := 1, fields := fun i _ => [(Reg.CAN_LASTERR_ERR i, .ro), (Reg.CAN_LASTERR_DERR i, .ro)] },
  { base := 0x840060, s1 := 0x1000, n1 := 16, s2 := 0x0, n2 := 1, fields := fun i _ => [(Reg.CAN_RXOK_COUNT i, .rc)] },
  { base := 0x840064, s1 := 0x1000, n1 := 16, s2 := 0x0, n2 := 1, fields := fun i _ => [(Reg.CAN_TXOK_COUNT i, .rc)] },
  { base := 0x840068, s1 := 0x1000, n1 := 16, s2 := 0x0, n2 := 1, fields := fun i _ => [(Reg.CAN_ARBLOST_COUNT i, .rc)] },
  { base := 0x84006c, s1 := 0x1000, n1 := 16, s2 := 0x0, n2 := 1, fields := fun i _ => [(Reg.CAN_ERRFRM_COUNT i, .rc)] },
  { base := 0x840070, s1 := 0x1000, n1 := 16, s2 := 0x0, n2 := 1, fields := fun i _ => [(Reg.CAN_PXE_COUNT i, .rc)] },
  { base := 0x840074, s1 := 0x1000, n1 := 16, s2 := 0x0, n2 := 1, fields := fun i _ => [(Reg.CAN_BOCNT_COUNT i, .rc)] },
  { base := 0x840078, s1 := 0x1000, n1 := 16, s2 := 0x0, n2 := 1, fields := fun i _ => [(Reg.CAN_NOMATCH_COUNT i, .rc)] },
  { base := 0x84007c, s1 := 0x1000, n1 := 16, s2 := 0x0, n2 := 1, fields := fun i _ => [(Reg.CAN_SQBAD_COUNT i, .rc)] },
  { base := 0x840080, s1 := 0x1000, n1 := 16, s2 := 0x0, n2 := 1, fields := fun i _ => [(Reg.CAN_SQFAIL_COUNT i, .rc)] },
  { base := 0x840084, s1 := 0x1000, n1 := 16, s2 := 0x0, n2 := 1, fields := fun i _ => [(Reg.CAN_IMGOVR_COUNT i, .rc)] },
  { base := 0x840090, s1 := 0x1000, n1 := 16, s2 := 0x0, n2 := 1, fields := fun i _ => [(Reg.CAN_TXPEND_BUF i, .ro)] },
  { base := 0x840094, s1 := 0x1000, n1 := 16, s2 := 0x0, n2 := 1, fields := fun i _ => [(Reg.CAN_TXDONE_BUF i, .w1c)] },
  { base := 0x840100, s1 := 0x1000, n1 := 16, s2 := 0x20, n2 := 2, fields := fun i j => [(Reg.CAN_RXQCFG_OVERWRITE i j, .rw)] },
  { base := 0x840104, s1 := 0x1000, n1 := 16, s2 := 0x20, n2 := 2, fields := fun i j => [(Reg.CAN_RXQSTAT_PUT i j, .ro), (Reg.CAN_RXQSTAT_GET i j, .ro), (Reg.CAN_RXQSTAT_FILL i j, .ro), (Reg.CAN_RXQSTAT_FULL i j, .ro)] },
  { base := 0x840108, s1 := 0x1000, n1 := 16, s2 := 0x20, n2 := 2, fields := fun i j => [(Reg.CAN_RXQGET_GET i j, .wo)] },
  { base := 0x84010c, s1 := 0x1000, n1 := 16, s2 := 0x20, n2 := 2, fields := fun i j => [(Reg.CAN_RXQLOST_COUNT i j, .rc)] },
  { base := 0x840110, s1 := 0x1000, n1 := 16, s2 := 0x20, n2 := 2, fields := fun i j => [(Reg.CAN_RXQOVW_COUNT i j, .rc)] },
  { base := 0x840400, s1 := 0x1000, n1 := 16, s2 := 0x10, n2 := 32, fields := fun i j => [(Reg.CAN_TXB_REQ i j, .wo), (Reg.CAN_TXB_CANCEL i j, .wo), (Reg.CAN_TXB_STATE i j, .ro), (Reg.CAN_TXB_CANPEND i j, .ro), (Reg.CAN_TXB_OUTCOME i j, .ro), (Reg.CAN_TXB_LATE i j, .ro), (Reg.CAN_TXB_POOL i j, .ro), (Reg.CAN_TXB_ATTEMPTS i j, .ro)] },
  { base := 0x840404, s1 := 0x1000, n1 := 16, s2 := 0x10, n2 := 32, fields := fun i j => [(Reg.CAN_TXBTS_TIME i j, .ro)] },
  { base := 0x84040c, s1 := 0x1000, n1 := 16, s2 := 0x10, n2 := 32, fields := fun i j => [(Reg.CAN_TXIMG_OFF i j, .rw), (Reg.CAN_TXIMG_LEN i j, .rw), (Reg.CAN_TXIMG_EN i j, .rw)] },
  { base := 0x840600, s1 := 0x1000, n1 := 16, s2 := 0x10, n2 := 128, fields := fun i j => [(Reg.CAN_FID_ID i j, .rw), (Reg.CAN_FID_IDE i j, .rw), (Reg.CAN_FID_EN i j, .rw)] },
  { base := 0x840604, s1 := 0x1000, n1 := 16, s2 := 0x10, n2 := 128, fields := fun i j => [(Reg.CAN_FMSK_MASK i j, .rw), (Reg.CAN_FMSK_IDEM i j, .rw), (Reg.CAN_FMSK_DEST i j, .rw)] },
  { base := 0x840608, s1 := 0x1000, n1 := 16, s2 := 0x10, n2 := 128, fields := fun i j => [(Reg.CAN_FIMG_OFF i j, .rw), (Reg.CAN_FIMG_LEN i j, .rw), (Reg.CAN_FIMG_EN i j, .rw)] },
  { base := 0x84060c, s1 := 0x1000, n1 := 16, s2 := 0x10, n2 := 128, fields := fun i j => [(Reg.CAN_FHIT_COUNT i j, .rc)] },
  { base := 0x8400a0, s1 := 0x1000, n1 := 16, s2 := 0x0, n2 := 1, fields := fun i _ => [(Reg.CAN_XCV_MODE i, .rw), (Reg.CAN_XCV_STATE i, .ro), (Reg.CAN_XCV_INH i, .ro)] },
  { base := 0x8400a4, s1 := 0x1000, n1 := 16, s2 := 0x0, n2 := 1, fields := fun i _ => [(Reg.CAN_SLPEVT_WUP i, .w1c), (Reg.CAN_SLPEVT_UV i, .w1c), (Reg.CAN_SLPEVT_WAKE_CAPT i, .w1c), (Reg.CAN_SLPEVT_NM_REFUSED i, .w1c)] },
  { base := 0x8400a8, s1 := 0x1000, n1 := 16, s2 := 0x0, n2 := 1, fields := fun i _ => [(Reg.CAN_NMCFG_EN i, .rw), (Reg.CAN_NMCFG_NEED i, .rw), (Reg.CAN_NMCFG_TXB i, .rw), (Reg.CAN_NMCFG_FILT i, .rw), (Reg.CAN_NMCFG_KA_MS i, .rw)] },
  { base := 0x8400ac, s1 := 0x1000, n1 := 16, s2 := 0x0, n2 := 1, fields := fun i _ => [(Reg.CAN_NMTIM_RS_MS i, .rw), (Reg.CAN_NMTIM_PS_MS i, .rw)] },
  { base := 0x8400b0, s1 := 0x1000, n1 := 16, s2 := 0x0, n2 := 1, fields := fun i _ => [(Reg.CAN_NMSTAT_STATE i, .ro)] },
  { base := 0x8400b4, s1 := 0x1000, n1 := 16, s2 := 0x0, n2 := 1, fields := fun i _ => [(Reg.CAN_NMCNT_KASKIP i, .rc), (Reg.CAN_NMCNT_KATX i, .rc)] },
  { base := 0x840e00, s1 := 0x1000, n1 := 16, s2 := 0x0, n2 := 1, fields := fun i _ => [(Reg.CAN_TSQCFG_EN i, .rw), (Reg.CAN_TSQCFG_PKT i, .rw), (Reg.CAN_TSQCFG_NBPUSH i, .ro), (Reg.CAN_TSQCFG_MID i, .rw)] },
  { base := 0x840e04, s1 := 0x1000, n1 := 16, s2 := 0x0, n2 := 1, fields := fun i _ => [(Reg.CAN_TSQSTAT_DEPTH i, .ro), (Reg.CAN_TSQSTAT_OPEN i, .ro), (Reg.CAN_TSQSTAT_UNDERRUN i, .w1c), (Reg.CAN_TSQSTAT_OVERFLOW i, .w1c), (Reg.CAN_TSQSTAT_PKT_ERR i, .w1c), (Reg.CAN_TSQSTAT_REFUSED i, .w1c), (Reg.CAN_TSQSTAT_MEET i, .ro), (Reg.CAN_TSQSTAT_FULL i, .ro), (Reg.CAN_TSQSTAT_STORED i, .ro)] },
  { base := 0x840e08, s1 := 0x1000, n1 := 16, s2 := 0x0, n2 := 1, fields := fun i _ => [(Reg.CAN_TSQCNT_OVF i, .rc), (Reg.CAN_TSQCNT_UNF i, .rc)] },
  { base := 0x840e0c, s1 := 0x1000, n1 := 16, s2 := 0x0, n2 := 1, fields := fun i _ => [(Reg.CAN_TSQLAST_VALUE i, .ro)] },
  { base := 0x840e10, s1 := 0x1000, n1 := 16, s2 := 0x0, n2 := 1, fields := fun i _ => [(Reg.CAN_RSQCFG_EN i, .rw), (Reg.CAN_RSQCFG_PKT i, .rw), (Reg.CAN_RSQCFG_NBPUSH i, .ro), (Reg.CAN_RSQCFG_MID i, .rw)] },
  { base := 0x840e14, s1 := 0x1000, n1 := 16, s2 := 0x0, n2 := 1, fields := fun i _ => [(Reg.CAN_RSQSTAT_DEPTH i, .ro), (Reg.CAN_RSQSTAT_OPEN i, .ro), (Reg.CAN_RSQSTAT_UNDERRUN i, .w1c), (Reg.CAN_RSQSTAT_OVERFLOW i, .w1c), (Reg.CAN_RSQSTAT_PKT_ERR i, .w1c), (Reg.CAN_RSQSTAT_REFUSED i, .w1c), (Reg.CAN_RSQSTAT_MEET i, .ro), (Reg.CAN_RSQSTAT_FULL i, .ro), (Reg.CAN_RSQSTAT_STORED i, .ro)] },
  { base := 0x840e18, s1 := 0x1000, n1 := 16, s2 := 0x0, n2 := 1, fields := fun i _ => [(Reg.CAN_RSQCNT_OVF i, .rc), (Reg.CAN_RSQCNT_UNF i, .rc)] },
  { base := 0x840e1c, s1 := 0x1000, n1 := 16, s2 := 0x0, n2 := 1, fields := fun i _ => [(Reg.CAN_RSQLAST_VALUE i, .ro)] },
  { base := 0x85ff00, s1 := 0x0, n1 := 1, s2 := 0x0, n2 := 1, fields := fun _ _ => [(Reg.CAN_BLKID_NUM, .ro), (Reg.CAN_BLKID_REV, .ro)] },
  { base := 0x85ff04, s1 := 0x0, n1 := 1, s2 := 0x0, n2 := 1, fields := fun _ _ => [(Reg.CAN_LOCK_SET, .rwl)] },
  { base := 0x85ff08, s1 := 0x0, n1 := 1, s2 := 0x0, n2 := 1, fields := fun _ _ => [(Reg.CAN_SCRATCH_VALUE, .rw)] }]

/-! ### GRM (R55, R338) -/

def Reg.GRM_CFG_DRATE : Fld := ⟨0x8a0000, 0, 14, 0x64⟩
def Reg.GRM_CFG_ARATE : Fld := ⟨0x8a0000, 16, 14, 0xa⟩
def Reg.GRM_CONF_MS : Fld := ⟨0x8a0004, 0, 16, 0x64⟩
def Reg.GRM_EVT_CFG_REFUSED : Fld := ⟨0x8a000c, 0, 1, 0⟩
def Reg.GRM_EVT_BWAKE : Fld := ⟨0x8a000c, 1, 1, 0⟩
def Reg.GRM_HIT_RULE : Fld := ⟨0x8a0010, 0, 32, 0⟩
def Reg.GRM_LWK_PEND : Fld := ⟨0x8a0014, 0, 16, 0⟩
def Reg.GRM_INCFG_EN (i : Nat) : Fld := ⟨0x8a0100 + 4 * i, 0, 1, 0⟩
def Reg.GRM_INCFG_INV (i : Nat) : Fld := ⟨0x8a0100 + 4 * i, 1, 1, 0⟩
def Reg.GRM_INCFG_FILT (i : Nat) : Fld := ⟨0x8a0100 + 4 * i, 2, 2, 0⟩
def Reg.GRM_INCFG_DEB (i : Nat) : Fld := ⟨0x8a0100 + 4 * i, 4, 4, 1⟩
def Reg.GRM_INCFG_K (i : Nat) : Fld := ⟨0x8a0100 + 4 * i, 8, 3, 0⟩
def Reg.GRM_VAL_VALUE (i : Nat) : Fld := ⟨0x8a0180 + 4 * i, 0, 10, 0⟩
def Reg.GRM_RCOND_EN (i : Nat) : Fld := ⟨0x8a0200 + 0x10 * i, 0, 1, 0⟩
def Reg.GRM_RCOND_SRC (i : Nat) : Fld := ⟨0x8a0200 + 0x10 * i, 1, 5, 0⟩
def Reg.GRM_RCOND_COND (i : Nat) : Fld := ⟨0x8a0200 + 0x10 * i, 6, 2, 0⟩
def Reg.GRM_RCOND_THR (i : Nat) : Fld := ⟨0x8a0200 + 0x10 * i, 8, 10, 0⟩
def Reg.GRM_RCOND_HYS (i : Nat) : Fld := ⟨0x8a0200 + 0x10 * i, 18, 6, 0⟩
def Reg.GRM_RACT_WAKE_F (i : Nat) : Fld := ⟨0x8a0204 + 0x10 * i, 0, 1, 0⟩
def Reg.GRM_RACT_BARRIER (i : Nat) : Fld := ⟨0x8a0204 + 0x10 * i, 1, 1, 0⟩
def Reg.GRM_RACT_CONFIRM (i : Nat) : Fld := ⟨0x8a0204 + 0x10 * i, 2, 1, 0⟩
def Reg.GRM_RACT_INH (i : Nat) : Fld := ⟨0x8a0204 + 0x10 * i, 4, 4, 0⟩
def Reg.GRM_RACT_CANWAKE (i : Nat) : Fld := ⟨0x8a0204 + 0x10 * i, 8, 4, 0⟩
def Reg.GRM_RACT_LWAKE (i : Nat) : Fld := ⟨0x8a0204 + 0x10 * i, 16, 16, 0⟩
def Reg.GRM_RCNT_COUNT (i : Nat) : Fld := ⟨0x8a0208 + 0x10 * i, 0, 8, 0⟩
def Reg.GRM_BLKID_NUM : Fld := ⟨0x8bff00, 24, 8, 0x8a⟩
def Reg.GRM_BLKID_REV : Fld := ⟨0x8bff00, 0, 16, Config.blockRev⟩
def Reg.GRM_LOCK_SET : Fld := ⟨0x8bff04, 0, 1, 0⟩
def Reg.GRM_SCRATCH_VALUE : Fld := ⟨0x8bff08, 0, 32, 0⟩

/-- The registers of block GRM. -/
def rowsGRM : List RegRow := [  { base := 0x8a0000, s1 := 0x0, n1 := 1, s2 := 0x0, n2 := 1, fields := fun _ _ => [(Reg.GRM_CFG_DRATE, .rw), (Reg.GRM_CFG_ARATE, .rw)] },
  { base := 0x8a0004, s1 := 0x0, n1 := 1, s2 := 0x0, n2 := 1, fields := fun _ _ => [(Reg.GRM_CONF_MS, .rw)] },
  { base := 0x8a000c, s1 := 0x0, n1 := 1, s2 := 0x0, n2 := 1, fields := fun _ _ => [(Reg.GRM_EVT_CFG_REFUSED, .w1c), (Reg.GRM_EVT_BWAKE, .w1c)] },
  { base := 0x8a0010, s1 := 0x0, n1 := 1, s2 := 0x0, n2 := 1, fields := fun _ _ => [(Reg.GRM_HIT_RULE, .w1c)] },
  { base := 0x8a0014, s1 := 0x0, n1 := 1, s2 := 0x0, n2 := 1, fields := fun _ _ => [(Reg.GRM_LWK_PEND, .w1c)] },
  { base := 0x8a0100, s1 := 0x4, n1 := 20, s2 := 0x0, n2 := 1, fields := fun i _ => [(Reg.GRM_INCFG_EN i, .rw), (Reg.GRM_INCFG_INV i, .rw), (Reg.GRM_INCFG_FILT i, .rw), (Reg.GRM_INCFG_DEB i, .rw), (Reg.GRM_INCFG_K i, .rw)] },
  { base := 0x8a0180, s1 := 0x4, n1 := 20, s2 := 0x0, n2 := 1, fields := fun i _ => [(Reg.GRM_VAL_VALUE i, .ro)] },
  { base := 0x8a0200, s1 := 0x10, n1 := 32, s2 := 0x0, n2 := 1, fields := fun i _ => [(Reg.GRM_RCOND_EN i, .rw), (Reg.GRM_RCOND_SRC i, .rw), (Reg.GRM_RCOND_COND i, .rw), (Reg.GRM_RCOND_THR i, .rw), (Reg.GRM_RCOND_HYS i, .rw)] },
  { base := 0x8a0204, s1 := 0x10, n1 := 32, s2 := 0x0, n2 := 1, fields := fun i _ => [(Reg.GRM_RACT_WAKE_F i, .rw), (Reg.GRM_RACT_BARRIER i, .rw), (Reg.GRM_RACT_CONFIRM i, .rw), (Reg.GRM_RACT_INH i, .rw), (Reg.GRM_RACT_CANWAKE i, .rw), (Reg.GRM_RACT_LWAKE i, .rw)] },
  { base := 0x8a0208, s1 := 0x10, n1 := 32, s2 := 0x0, n2 := 1, fields := fun i _ => [(Reg.GRM_RCNT_COUNT i, .rc)] },
  { base := 0x8bff00, s1 := 0x0, n1 := 1, s2 := 0x0, n2 := 1, fields := fun _ _ => [(Reg.GRM_BLKID_NUM, .ro), (Reg.GRM_BLKID_REV, .ro)] },
  { base := 0x8bff04, s1 := 0x0, n1 := 1, s2 := 0x0, n2 := 1, fields := fun _ _ => [(Reg.GRM_LOCK_SET, .rwl)] },
  { base := 0x8bff08, s1 := 0x0, n1 := 1, s2 := 0x0, n2 := 1, fields := fun _ _ => [(Reg.GRM_SCRATCH_VALUE, .rw)] }]

/-! ### FED (R55, R357) -/

def Reg.FED_CFG_EN (i : Nat) : Fld := ⟨0x880000 + 0x1000 * i, 0, 1, 0⟩
def Reg.FED_CFG_SHARE (i : Nat) : Fld := ⟨0x880000 + 0x1000 * i, 1, 1, 0⟩
def Reg.FED_CFG_TSRC (i : Nat) : Fld := ⟨0x880000 + 0x1000 * i, 2, 2, 0⟩
def Reg.FED_CFG_SAFE (i : Nat) : Fld := ⟨0x880000 + 0x1000 * i, 4, 1, 0⟩
def Reg.FED_CFG_RETRIES (i : Nat) : Fld := ⟨0x880000 + 0x1000 * i, 8, 4, 3⟩
def Reg.FED_LIM_MV10 (i : Nat) : Fld := ⟨0x880004 + 0x1000 * i, 0, 10, 0xc8⟩
def Reg.FED_LIM_SHUNT_UOHM (i : Nat) : Fld := ⟨0x880004 + 0x1000 * i, 16, 16, 0x7d0⟩
def Reg.FED_TMR_FT_US (i : Nat) : Fld := ⟨0x880008 + 0x1000 * i, 0, 17, 0x2710⟩
def Reg.FED_RAMP_RATE (i : Nat) : Fld := ⟨0x88000c + 0x1000 * i, 0, 7, 0xa⟩
def Reg.FED_RAMP_TMO_MS (i : Nat) : Fld := ⟨0x88000c + 0x1000 * i, 8, 8, 0x64⟩
def Reg.FED_PG_DLY_US (i : Nat) : Fld := ⟨0x880010 + 0x1000 * i, 0, 17, 0x3e8⟩
def Reg.FED_VIN_UV (i : Nat) : Fld := ⟨0x880014 + 0x1000 * i, 0, 10, 0x90⟩
def Reg.FED_VIN_OV (i : Nat) : Fld := ⟨0x880014 + 0x1000 * i, 16, 10, 0x3c0⟩
def Reg.FED_WARNCFG_WARN_IN (i : Nat) : Fld := ⟨0x880018 + 0x1000 * i, 0, 10, 0x130⟩
def Reg.FED_WARNCFG_WARN_C (i : Nat) : Fld := ⟨0x880018 + 0x1000 * i, 16, 8, 0x7d⟩
def Reg.FED_WARNCFG_LIM_EN (i : Nat) : Fld := ⟨0x880018 + 0x1000 * i, 24, 1, 1⟩
def Reg.FED_WARNCFG_IN_EN (i : Nat) : Fld := ⟨0x880018 + 0x1000 * i, 25, 1, 1⟩
def Reg.FED_WARNCFG_TEMP_EN (i : Nat) : Fld := ⟨0x880018 + 0x1000 * i, 26, 1, 1⟩
def Reg.FED_FETM_RDS_UOHM (i : Nat) : Fld := ⟨0x88001c + 0x1000 * i, 0, 16, 0xbb8⟩
def Reg.FED_FETM_AMB_OFS (i : Nat) : Fld := ⟨0x88001c + 0x1000 * i, 16, 8, 0⟩
def Reg.FED_FETT_RTH (i : Nat) : Fld := ⟨0x880020 + 0x1000 * i, 0, 16, 0x96⟩
def Reg.FED_FETT_TAU (i : Nat) : Fld := ⟨0x880020 + 0x1000 * i, 16, 16, 0xc8⟩
def Reg.FED_COOL_RETRY_C (i : Nat) : Fld := ⟨0x880024 + 0x1000 * i, 0, 8, 0x50⟩
def Reg.FED_COOL_MIN_OFF_MS (i : Nat) : Fld := ⟨0x880024 + 0x1000 * i, 16, 16, 0x64⟩
def Reg.FED_STAT_STATE (i : Nat) : Fld := ⟨0x880030 + 0x1000 * i, 0, 3, 0⟩
def Reg.FED_STAT_LIMIT (i : Nat) : Fld := ⟨0x880030 + 0x1000 * i, 3, 1, 0⟩
def Reg.FED_STAT_PG (i : Nat) : Fld := ⟨0x880030 + 0x1000 * i, 4, 1, 0⟩
def Reg.FED_STAT_WARN (i : Nat) : Fld := ⟨0x880030 + 0x1000 * i, 5, 1, 0⟩
def Reg.FED_STAT_FULL (i : Nat) : Fld := ⟨0x880030 + 0x1000 * i, 6, 1, 0⟩
def Reg.FED_STAT_ATTEMPTS (i : Nat) : Fld := ⟨0x880030 + 0x1000 * i, 8, 4, 0⟩
def Reg.FED_STAT_LAST_FAULT (i : Nat) : Fld := ⟨0x880030 + 0x1000 * i, 12, 4, 0⟩
def Reg.FED_MEAS_VIN (i : Nat) : Fld := ⟨0x880034 + 0x1000 * i, 0, 10, 0⟩
def Reg.FED_MEAS_VOUT (i : Nat) : Fld := ⟨0x880034 + 0x1000 * i, 16, 10, 0⟩
def Reg.FED_IMEAS_MA10 (i : Nat) : Fld := ⟨0x880038 + 0x1000 * i, 0, 16, 0⟩
def Reg.FED_TEMP_MODEL (i : Nat) : Fld := ⟨0x88003c + 0x1000 * i, 0, 16, 0⟩
def Reg.FED_TEMP_DIODE (i : Nat) : Fld := ⟨0x88003c + 0x1000 * i, 16, 16, 0⟩
def Reg.FED_EVT_LIMIT (i : Nat) : Fld := ⟨0x880040 + 0x1000 * i, 0, 1, 0⟩
def Reg.FED_EVT_FAULT (i : Nat) : Fld := ⟨0x880040 + 0x1000 * i, 1, 1, 0⟩
def Reg.FED_EVT_PG_UP (i : Nat) : Fld := ⟨0x880040 + 0x1000 * i, 2, 1, 0⟩
def Reg.FED_EVT_PG_DOWN (i : Nat) : Fld := ⟨0x880040 + 0x1000 * i, 3, 1, 0⟩
def Reg.FED_EVT_WARN (i : Nat) : Fld := ⟨0x880040 + 0x1000 * i, 4, 1, 0⟩
def Reg.FED_EVT_LATCHED (i : Nat) : Fld := ⟨0x880040 + 0x1000 * i, 5, 1, 0⟩
def Reg.FED_EVT_REVERSE (i : Nat) : Fld := ⟨0x880040 + 0x1000 * i, 6, 1, 0⟩
def Reg.FED_EVT_CFG_REFUSED (i : Nat) : Fld := ⟨0x880040 + 0x1000 * i, 7, 1, 0⟩
def Reg.FED_EVT_RETRY (i : Nat) : Fld := ⟨0x880040 + 0x1000 * i, 8, 1, 0⟩
def Reg.FED_EVTEN_EN (i : Nat) : Fld := ⟨0x880044 + 0x1000 * i, 0, 9, 0⟩
def Reg.FED_FLTCNT_FAULTS (i : Nat) : Fld := ⟨0x880050 + 0x1000 * i, 0, 16, 0⟩
def Reg.FED_FLTCNT_RETRIES (i : Nat) : Fld := ⟨0x880050 + 0x1000 * i, 16, 16, 0⟩
def Reg.FED_TCYC_COUNT (i : Nat) : Fld := ⟨0x880054 + 0x1000 * i, 0, 32, 0⟩
def Reg.FED_TCYCCFG_DELTA_K (i : Nat) : Fld := ⟨0x880058 + 0x1000 * i, 0, 8, 0x28⟩
def Reg.FED_WARN_SRC : Fld := ⟨0x884000, 0, 4, 0⟩
def Reg.FED_WARN_PIN : Fld := ⟨0x884000, 4, 1, 0⟩
def Reg.FED_WARN_MASK : Fld := ⟨0x884000, 8, 4, 0xf⟩
def Reg.FED_BLKID_NUM : Fld := ⟨0x89ff00, 24, 8, 0x88⟩
def Reg.FED_BLKID_REV : Fld := ⟨0x89ff00, 0, 16, Config.blockRev⟩
def Reg.FED_LOCK_SET : Fld := ⟨0x89ff04, 0, 1, 0⟩
def Reg.FED_SCRATCH_VALUE : Fld := ⟨0x89ff08, 0, 32, 0⟩

/-- The registers of block FED. -/
def rowsFED : List RegRow := [  { base := 0x880000, s1 := 0x1000, n1 := 4, s2 := 0x0, n2 := 1, fields := fun i _ => [(Reg.FED_CFG_EN i, .rw), (Reg.FED_CFG_SHARE i, .rw), (Reg.FED_CFG_TSRC i, .rw), (Reg.FED_CFG_SAFE i, .rw), (Reg.FED_CFG_RETRIES i, .rw)] },
  { base := 0x880004, s1 := 0x1000, n1 := 4, s2 := 0x0, n2 := 1, fields := fun i _ => [(Reg.FED_LIM_MV10 i, .rw), (Reg.FED_LIM_SHUNT_UOHM i, .rw)] },
  { base := 0x880008, s1 := 0x1000, n1 := 4, s2 := 0x0, n2 := 1, fields := fun i _ => [(Reg.FED_TMR_FT_US i, .rw)] },
  { base := 0x88000c, s1 := 0x1000, n1 := 4, s2 := 0x0, n2 := 1, fields := fun i _ => [(Reg.FED_RAMP_RATE i, .rw), (Reg.FED_RAMP_TMO_MS i, .rw)] },
  { base := 0x880010, s1 := 0x1000, n1 := 4, s2 := 0x0, n2 := 1, fields := fun i _ => [(Reg.FED_PG_DLY_US i, .rw)] },
  { base := 0x880014, s1 := 0x1000, n1 := 4, s2 := 0x0, n2 := 1, fields := fun i _ => [(Reg.FED_VIN_UV i, .rw), (Reg.FED_VIN_OV i, .rw)] },
  { base := 0x880018, s1 := 0x1000, n1 := 4, s2 := 0x0, n2 := 1, fields := fun i _ => [(Reg.FED_WARNCFG_WARN_IN i, .rw), (Reg.FED_WARNCFG_WARN_C i, .rw), (Reg.FED_WARNCFG_LIM_EN i, .rw), (Reg.FED_WARNCFG_IN_EN i, .rw), (Reg.FED_WARNCFG_TEMP_EN i, .rw)] },
  { base := 0x88001c, s1 := 0x1000, n1 := 4, s2 := 0x0, n2 := 1, fields := fun i _ => [(Reg.FED_FETM_RDS_UOHM i, .rw), (Reg.FED_FETM_AMB_OFS i, .rw)] },
  { base := 0x880020, s1 := 0x1000, n1 := 4, s2 := 0x0, n2 := 1, fields := fun i _ => [(Reg.FED_FETT_RTH i, .rw), (Reg.FED_FETT_TAU i, .rw)] },
  { base := 0x880024, s1 := 0x1000, n1 := 4, s2 := 0x0, n2 := 1, fields := fun i _ => [(Reg.FED_COOL_RETRY_C i, .rw), (Reg.FED_COOL_MIN_OFF_MS i, .rw)] },
  { base := 0x880030, s1 := 0x1000, n1 := 4, s2 := 0x0, n2 := 1, fields := fun i _ => [(Reg.FED_STAT_STATE i, .ro), (Reg.FED_STAT_LIMIT i, .ro), (Reg.FED_STAT_PG i, .ro), (Reg.FED_STAT_WARN i, .ro), (Reg.FED_STAT_FULL i, .ro), (Reg.FED_STAT_ATTEMPTS i, .ro), (Reg.FED_STAT_LAST_FAULT i, .ro)] },
  { base := 0x880034, s1 := 0x1000, n1 := 4, s2 := 0x0, n2 := 1, fields := fun i _ => [(Reg.FED_MEAS_VIN i, .ro), (Reg.FED_MEAS_VOUT i, .ro)] },
  { base := 0x880038, s1 := 0x1000, n1 := 4, s2 := 0x0, n2 := 1, fields := fun i _ => [(Reg.FED_IMEAS_MA10 i, .ro)] },
  { base := 0x88003c, s1 := 0x1000, n1 := 4, s2 := 0x0, n2 := 1, fields := fun i _ => [(Reg.FED_TEMP_MODEL i, .ro), (Reg.FED_TEMP_DIODE i, .ro)] },
  { base := 0x880040, s1 := 0x1000, n1 := 4, s2 := 0x0, n2 := 1, fields := fun i _ => [(Reg.FED_EVT_LIMIT i, .w1c), (Reg.FED_EVT_FAULT i, .w1c), (Reg.FED_EVT_PG_UP i, .w1c), (Reg.FED_EVT_PG_DOWN i, .w1c), (Reg.FED_EVT_WARN i, .w1c), (Reg.FED_EVT_LATCHED i, .w1c), (Reg.FED_EVT_REVERSE i, .w1c), (Reg.FED_EVT_CFG_REFUSED i, .w1c), (Reg.FED_EVT_RETRY i, .w1c)] },
  { base := 0x880044, s1 := 0x1000, n1 := 4, s2 := 0x0, n2 := 1, fields := fun i _ => [(Reg.FED_EVTEN_EN i, .rw)] },
  { base := 0x880050, s1 := 0x1000, n1 := 4, s2 := 0x0, n2 := 1, fields := fun i _ => [(Reg.FED_FLTCNT_FAULTS i, .rc), (Reg.FED_FLTCNT_RETRIES i, .rc)] },
  { base := 0x880054, s1 := 0x1000, n1 := 4, s2 := 0x0, n2 := 1, fields := fun i _ => [(Reg.FED_TCYC_COUNT i, .ro)] },
  { base := 0x880058, s1 := 0x1000, n1 := 4, s2 := 0x0, n2 := 1, fields := fun i _ => [(Reg.FED_TCYCCFG_DELTA_K i, .rw)] },
  { base := 0x884000, s1 := 0x0, n1 := 1, s2 := 0x0, n2 := 1, fields := fun _ _ => [(Reg.FED_WARN_SRC, .ro), (Reg.FED_WARN_PIN, .ro), (Reg.FED_WARN_MASK, .rw)] },
  { base := 0x89ff00, s1 := 0x0, n1 := 1, s2 := 0x0, n2 := 1, fields := fun _ _ => [(Reg.FED_BLKID_NUM, .ro), (Reg.FED_BLKID_REV, .ro)] },
  { base := 0x89ff04, s1 := 0x0, n1 := 1, s2 := 0x0, n2 := 1, fields := fun _ _ => [(Reg.FED_LOCK_SET, .rwl)] },
  { base := 0x89ff08, s1 := 0x0, n1 := 1, s2 := 0x0, n2 := 1, fields := fun _ _ => [(Reg.FED_SCRATCH_VALUE, .rw)] }]

/-! ### FFL (R55, R392) -/

def Reg.FFL_STAT_HELD : Fld := ⟨0x8e0000, 0, 5, 0⟩
def Reg.FFL_HOLDDROP_COUNT : Fld := ⟨0x8e0004, 0, 32, 0⟩
def Reg.FFL_SENT_COUNT : Fld := ⟨0x8e0008, 0, 32, 0⟩
def Reg.FFL_INJ_SOURCE : Fld := ⟨0x8e0010, 0, 10, 0⟩
def Reg.FFL_INJ_KIND : Fld := ⟨0x8e0010, 10, 6, 0⟩
def Reg.FFL_INJ_REACT : Fld := ⟨0x8e0010, 16, 1, 0⟩
def Reg.FFL_INJ_GO : Fld := ⟨0x8e0010, 31, 1, 0⟩
def Reg.FFL_BLKID_NUM : Fld := ⟨0x8fff00, 24, 8, 0x8e⟩
def Reg.FFL_BLKID_REV : Fld := ⟨0x8fff00, 0, 16, Config.blockRev⟩
def Reg.FFL_LOCK_SET : Fld := ⟨0x8fff04, 0, 1, 0⟩
def Reg.FFL_SCRATCH_VALUE : Fld := ⟨0x8fff08, 0, 32, 0⟩

/-- The registers of block FFL. -/
def rowsFFL : List RegRow := [  { base := 0x8e0000, s1 := 0x0, n1 := 1, s2 := 0x0, n2 := 1, fields := fun _ _ => [(Reg.FFL_STAT_HELD, .ro)] },
  { base := 0x8e0004, s1 := 0x0, n1 := 1, s2 := 0x0, n2 := 1, fields := fun _ _ => [(Reg.FFL_HOLDDROP_COUNT, .rc)] },
  { base := 0x8e0008, s1 := 0x0, n1 := 1, s2 := 0x0, n2 := 1, fields := fun _ _ => [(Reg.FFL_SENT_COUNT, .rc)] },
  { base := 0x8e0010, s1 := 0x0, n1 := 1, s2 := 0x0, n2 := 1, fields := fun _ _ => [(Reg.FFL_INJ_SOURCE, .wo), (Reg.FFL_INJ_KIND, .wo), (Reg.FFL_INJ_REACT, .wo), (Reg.FFL_INJ_GO, .wo)] },
  { base := 0x8fff00, s1 := 0x0, n1 := 1, s2 := 0x0, n2 := 1, fields := fun _ _ => [(Reg.FFL_BLKID_NUM, .ro), (Reg.FFL_BLKID_REV, .ro)] },
  { base := 0x8fff04, s1 := 0x0, n1 := 1, s2 := 0x0, n2 := 1, fields := fun _ _ => [(Reg.FFL_LOCK_SET, .rwl)] },
  { base := 0x8fff08, s1 := 0x0, n1 := 1, s2 := 0x0, n2 := 1, fields := fun _ _ => [(Reg.FFL_SCRATCH_VALUE, .rw)] }]

end Sys2Proof.Machine
end

