-- ==== Sys2Proof/Machine/RegMapH.lean ====
section
/-! DEFINITION. The registers of the H-die: every field that the register tables of the spec name, with its
address, width, access code and reset value, block by block. -/
namespace Sys2Proof.Machine

/-! ### PCI (R55, R94) -/

def Reg.PCI_LINK_UP : Fld := ⟨0x20000, 0, 1, 0⟩
def Reg.PCI_LINK_WIDTH : Fld := ⟨0x20000, 1, 3, 0⟩
def Reg.PCI_LINK_SPEED : Fld := ⟨0x20000, 4, 4, 0⟩
def Reg.PCI_ERR_CFG_REFUSED : Fld := ⟨0x20004, 0, 1, 0⟩
def Reg.PCI_ERR_DB_IGNORED : Fld := ⟨0x20004, 1, 1, 0⟩
def Reg.PCI_CYCCFG_FETCH_LEAD : Fld := ⟨0x20010, 0, 20, 0x4e20⟩
def Reg.PCI_CYCSTAT_OUT_LATE : Fld := ⟨0x20014, 0, 16, 0⟩
def Reg.PCI_CYCSTAT_IN_MISSING : Fld := ⟨0x20014, 16, 16, 0⟩
def Reg.PCI_RXMAP_SQ (i : Nat) : Fld := ⟨0x20020 + 4 * i, 0, 6, 0⟩
def Reg.PCI_RXMAP_EN (i : Nat) : Fld := ⟨0x20020 + 4 * i, 31, 1, 0⟩
def Reg.PCI_RXNOBUF_COUNT (i : Nat) : Fld := ⟨0x20040 + 4 * i, 0, 32, 0⟩
def Reg.PCI_EQBASE_ADDR : Fld := ⟨0x20100, 0, 64, 0⟩
def Reg.PCI_EQCFG_EN : Fld := ⟨0x20108, 0, 1, 0⟩
def Reg.PCI_EQCFG_LOG2SIZE : Fld := ⟨0x20108, 8, 5, 4⟩
def Reg.PCI_EQCFG_VEC : Fld := ⟨0x20108, 16, 8, 0⟩
def Reg.PCI_EQCFG_IEN : Fld := ⟨0x20108, 24, 1, 0⟩
def Reg.PCI_EQMOD_COUNT : Fld := ⟨0x2010c, 0, 8, 1⟩
def Reg.PCI_EQMOD_TIMER : Fld := ⟨0x2010c, 8, 10, 0⟩
def Reg.PCI_EQSTAT_TAIL : Fld := ⟨0x20110, 0, 16, 0⟩
def Reg.PCI_EQSTAT_PHASE : Fld := ⟨0x20110, 16, 1, 1⟩
def Reg.PCI_EQSTAT_ARMED : Fld := ⟨0x20110, 17, 1, 0⟩
def Reg.PCI_EQSTAT_HALT : Fld := ⟨0x20110, 18, 1, 0⟩
def Reg.PCI_EQSTALL_COUNT : Fld := ⟨0x20114, 0, 32, 0⟩
def Reg.PCI_EQMASK_HA_REQUEST : Fld := ⟨0x20118, 1, 1, 1⟩
def Reg.PCI_EQMASK_KINDS : Fld := ⟨0x20118, 2, 11, 0x7ff⟩
def Reg.PCI_SQBASE_ADDR (i : Nat) : Fld := ⟨0x21000 + 0x20 * i, 0, 64, 0⟩
def Reg.PCI_SQCFG_EN (i : Nat) : Fld := ⟨0x21008 + 0x20 * i, 0, 1, 0⟩
def Reg.PCI_SQCFG_LOG2SIZE (i : Nat) : Fld := ⟨0x21008 + 0x20 * i, 8, 5, 4⟩
def Reg.PCI_SQCFG_CQ (i : Nat) : Fld := ⟨0x21008 + 0x20 * i, 16, 6, 0⟩
def Reg.PCI_SQCFG_PRIO (i : Nat) : Fld := ⟨0x21008 + 0x20 * i, 24, 1, 0⟩
def Reg.PCI_SQCFG_WEIGHT (i : Nat) : Fld := ⟨0x21008 + 0x20 * i, 28, 4, 1⟩
def Reg.PCI_SQSTAT_HEAD (i : Nat) : Fld := ⟨0x2100c + 0x20 * i, 0, 16, 0⟩
def Reg.PCI_SQSTAT_IDLE (i : Nat) : Fld := ⟨0x2100c + 0x20 * i, 16, 1, 1⟩
def Reg.PCI_SQSTAT_HALT (i : Nat) : Fld := ⟨0x2100c + 0x20 * i, 17, 1, 0⟩
def Reg.PCI_SQSTAT_INFLIGHT (i : Nat) : Fld := ⟨0x2100c + 0x20 * i, 24, 8, 0⟩
def Reg.PCI_SQPWERR_COUNT (i : Nat) : Fld := ⟨0x21010 + 0x20 * i, 0, 32, 0⟩
def Reg.PCI_SQTAIL_TAIL (i : Nat) : Fld := ⟨0x21014 + 0x20 * i, 0, 16, 0⟩
def Reg.PCI_CQBASE_ADDR (i : Nat) : Fld := ⟨0x22000 + 0x20 * i, 0, 64, 0⟩
def Reg.PCI_CQCFG_EN (i : Nat) : Fld := ⟨0x22008 + 0x20 * i, 0, 1, 0⟩
def Reg.PCI_CQCFG_LOG2SIZE (i : Nat) : Fld := ⟨0x22008 + 0x20 * i, 8, 5, 4⟩
def Reg.PCI_CQCFG_VEC (i : Nat) : Fld := ⟨0x22008 + 0x20 * i, 16, 8, 0⟩
def Reg.PCI_CQCFG_IEN (i : Nat) : Fld := ⟨0x22008 + 0x20 * i, 24, 1, 0⟩
def Reg.PCI_CQMOD_COUNT (i : Nat) : Fld := ⟨0x2200c + 0x20 * i, 0, 8, 1⟩
def Reg.PCI_CQMOD_TIMER (i : Nat) : Fld := ⟨0x2200c + 0x20 * i, 8, 10, 0⟩
def Reg.PCI_CQSTAT_TAIL (i : Nat) : Fld := ⟨0x22010 + 0x20 * i, 0, 16, 0⟩
def Reg.PCI_CQSTAT_PHASE (i : Nat) : Fld := ⟨0x22010 + 0x20 * i, 16, 1, 1⟩
def Reg.PCI_CQSTAT_ARMED (i : Nat) : Fld := ⟨0x22010 + 0x20 * i, 17, 1, 0⟩
def Reg.PCI_CQSTAT_HALT (i : Nat) : Fld := ⟨0x22010 + 0x20 * i, 18, 1, 0⟩
def Reg.PCI_CQSTALL_COUNT (i : Nat) : Fld := ⟨0x22014 + 0x20 * i, 0, 32, 0⟩
def Reg.PCI_BLKID_NUM : Fld := ⟨0x2ff00, 24, 8, 2⟩
def Reg.PCI_BLKID_REV : Fld := ⟨0x2ff00, 0, 16, Config.blockRev⟩
def Reg.PCI_LOCK_SET : Fld := ⟨0x2ff04, 0, 1, 0⟩
def Reg.PCI_SCRATCH_VALUE : Fld := ⟨0x2ff08, 0, 32, 0⟩

/-- The registers of block PCI. -/
def rowsPCI : List RegRow := [  { base := 0x20000, s1 := 0x0, n1 := 1, s2 := 0x0, n2 := 1, fields := fun _ _ => [(Reg.PCI_LINK_UP, .ro), (Reg.PCI_LINK_WIDTH, .ro), (Reg.PCI_LINK_SPEED, .ro)] },
  { base := 0x20004, s1 := 0x0, n1 := 1, s2 := 0x0, n2 := 1, fields := fun _ _ => [(Reg.PCI_ERR_CFG_REFUSED, .w1c), (Reg.PCI_ERR_DB_IGNORED, .w1c)] },
  { base := 0x20010, s1 := 0x0, n1 := 1, s2 := 0x0, n2 := 1, fields := fun _ _ => [(Reg.PCI_CYCCFG_FETCH_LEAD, .rw)] },
  { base := 0x20014, s1 := 0x0, n1 := 1, s2 := 0x0, n2 := 1, fields := fun _ _ => [(Reg.PCI_CYCSTAT_OUT_LATE, .rc), (Reg.PCI_CYCSTAT_IN_MISSING, .rc)] },
  { base := 0x20020, s1 := 0x4, n1 := 8, s2 := 0x0, n2 := 1, fields := fun i _ => [(Reg.PCI_RXMAP_SQ i, .rw), (Reg.PCI_RXMAP_EN i, .rw)] },
  { base := 0x20040, s1 := 0x4, n1 := 8, s2 := 0x0, n2 := 1, fields := fun i _ => [(Reg.PCI_RXNOBUF_COUNT i, .rc)] },
  { base := 0x20100, s1 := 0x0, n1 := 1, s2 := 0x0, n2 := 1, fields := fun _ _ => [(Reg.PCI_EQBASE_ADDR, .rw)] },
  { base := 0x20108, s1 := 0x0, n1 := 1, s2 := 0x0, n2 := 1, fields := fun _ _ => [(Reg.PCI_EQCFG_EN, .rw), (Reg.PCI_EQCFG_LOG2SIZE, .rw), (Reg.PCI_EQCFG_VEC, .rw), (Reg.PCI_EQCFG_IEN, .rw)] },
  { base := 0x2010c, s1 := 0x0, n1 := 1, s2 := 0x0, n2 := 1, fields := fun _ _ => [(Reg.PCI_EQMOD_COUNT, .rw), (Reg.PCI_EQMOD_TIMER, .rw)] },
  { base := 0x20110, s1 := 0x0, n1 := 1, s2 := 0x0, n2 := 1, fields := fun _ _ => [(Reg.PCI_EQSTAT_TAIL, .ro), (Reg.PCI_EQSTAT_PHASE, .ro), (Reg.PCI_EQSTAT_ARMED, .ro), (Reg.PCI_EQSTAT_HALT, .ro)] },
  { base := 0x20114, s1 := 0x0, n1 := 1, s2 := 0x0, n2 := 1, fields := fun _ _ => [(Reg.PCI_EQSTALL_COUNT, .rc)] },
  { base := 0x20118, s1 := 0x0, n1 := 1, s2 := 0x0, n2 := 1, fields := fun _ _ => [(Reg.PCI_EQMASK_HA_REQUEST, .ro), (Reg.PCI_EQMASK_KINDS, .rw)] },
  { base := 0x21000, s1 := 0x20, n1 := 64, s2 := 0x0, n2 := 1, fields := fun i _ => [(Reg.PCI_SQBASE_ADDR i, .rw)] },
  { base := 0x21008, s1 := 0x20, n1 := 64, s2 := 0x0, n2 := 1, fields := fun i _ => [(Reg.PCI_SQCFG_EN i, .rw), (Reg.PCI_SQCFG_LOG2SIZE i, .rw), (Reg.PCI_SQCFG_CQ i, .rw), (Reg.PCI_SQCFG_PRIO i, .rw), (Reg.PCI_SQCFG_WEIGHT i, .rw)] },
  { base := 0x2100c, s1 := 0x20, n1 := 64, s2 := 0x0, n2 := 1, fields := fun i _ => [(Reg.PCI_SQSTAT_HEAD i, .ro), (Reg.PCI_SQSTAT_IDLE i, .ro), (Reg.PCI_SQSTAT_HALT i, .ro), (Reg.PCI_SQSTAT_INFLIGHT i, .ro)] },
  { base := 0x21010, s1 := 0x20, n1 := 64, s2 := 0x0, n2 := 1, fields := fun i _ => [(Reg.PCI_SQPWERR_COUNT i, .rc)] },
  { base := 0x21014, s1 := 0x20, n1 := 64, s2 := 0x0, n2 := 1, fields := fun i _ => [(Reg.PCI_SQTAIL_TAIL i, .ro)] },
  { base := 0x22000, s1 := 0x20, n1 := 64, s2 := 0x0, n2 := 1, fields := fun i _ => [(Reg.PCI_CQBASE_ADDR i, .rw)] },
  { base := 0x22008, s1 := 0x20, n1 := 64, s2 := 0x0, n2 := 1, fields := fun i _ => [(Reg.PCI_CQCFG_EN i, .rw), (Reg.PCI_CQCFG_LOG2SIZE i, .rw), (Reg.PCI_CQCFG_VEC i, .rw), (Reg.PCI_CQCFG_IEN i, .rw)] },
  { base := 0x2200c, s1 := 0x20, n1 := 64, s2 := 0x0, n2 := 1, fields := fun i _ => [(Reg.PCI_CQMOD_COUNT i, .rw), (Reg.PCI_CQMOD_TIMER i, .rw)] },
  { base := 0x22010, s1 := 0x20, n1 := 64, s2 := 0x0, n2 := 1, fields := fun i _ => [(Reg.PCI_CQSTAT_TAIL i, .ro), (Reg.PCI_CQSTAT_PHASE i, .ro), (Reg.PCI_CQSTAT_ARMED i, .ro), (Reg.PCI_CQSTAT_HALT i, .ro)] },
  { base := 0x22014, s1 := 0x20, n1 := 64, s2 := 0x0, n2 := 1, fields := fun i _ => [(Reg.PCI_CQSTALL_COUNT i, .rc)] },
  { base := 0x2ff00, s1 := 0x0, n1 := 1, s2 := 0x0, n2 := 1, fields := fun _ _ => [(Reg.PCI_BLKID_NUM, .ro), (Reg.PCI_BLKID_REV, .ro)] },
  { base := 0x2ff04, s1 := 0x0, n1 := 1, s2 := 0x0, n2 := 1, fields := fun _ _ => [(Reg.PCI_LOCK_SET, .rwl)] },
  { base := 0x2ff08, s1 := 0x0, n1 := 1, s2 := 0x0, n2 := 1, fields := fun _ _ => [(Reg.PCI_SCRATCH_VALUE, .rw)] }]

/-! ### RNG (R55, R133) -/

def Reg.RNG_PCFG_EN (i : Nat) : Fld := ⟨0x30000 + 0x1000 * i, 0, 1, 1⟩
def Reg.RNG_PCFG_FEC (i : Nat) : Fld := ⟨0x30000 + 0x1000 * i, 1, 1, 0⟩
def Reg.RNG_PCFG_FALLBACK_EN (i : Nat) : Fld := ⟨0x30000 + 0x1000 * i, 2, 1, 1⟩
def Reg.RNG_PCFG_PRBS_MODE (i : Nat) : Fld := ⟨0x30000 + 0x1000 * i, 3, 1, 0⟩
def Reg.RNG_PCFG_LPBK (i : Nat) : Fld := ⟨0x30000 + 0x1000 * i, 4, 2, 0⟩
def Reg.RNG_PCFG_TRAIN_TMO (i : Nat) : Fld := ⟨0x30000 + 0x1000 * i, 8, 8, 0x32⟩
def Reg.RNG_PCFG_FAULT_HOLD (i : Nat) : Fld := ⟨0x30000 + 0x1000 * i, 16, 8, 0xa⟩
def Reg.RNG_PSTAT_STATE (i : Nat) : Fld := ⟨0x30004 + 0x1000 * i, 0, 4, 1⟩
def Reg.RNG_PSTAT_UP (i : Nat) : Fld := ⟨0x30004 + 0x1000 * i, 4, 1, 0⟩
def Reg.RNG_PSTAT_RATE (i : Nat) : Fld := ⟨0x30004 + 0x1000 * i, 5, 1, 0⟩
def Reg.RNG_PSTAT_FEC_ON (i : Nat) : Fld := ⟨0x30004 + 0x1000 * i, 6, 1, 0⟩
def Reg.RNG_PSTAT_LANE_REV (i : Nat) : Fld := ⟨0x30004 + 0x1000 * i, 7, 1, 0⟩
def Reg.RNG_PSTAT_RF_RX (i : Nat) : Fld := ⟨0x30004 + 0x1000 * i, 8, 1, 0⟩
def Reg.RNG_PSTAT_LF (i : Nat) : Fld := ⟨0x30004 + 0x1000 * i, 9, 1, 0⟩
def Reg.RNG_PSTAT_CAUSE (i : Nat) : Fld := ⟨0x30004 + 0x1000 * i, 10, 5, 0⟩
def Reg.RNG_PSTAT_SKEW (i : Nat) : Fld := ⟨0x30004 + 0x1000 * i, 16, 5, 0⟩
def Reg.RNG_PSTAT_FAILS (i : Nat) : Fld := ⟨0x30004 + 0x1000 * i, 24, 4, 0⟩
def Reg.RNG_PEVT_UP (i : Nat) : Fld := ⟨0x30008 + 0x1000 * i, 0, 1, 0⟩
def Reg.RNG_PEVT_DOWN (i : Nat) : Fld := ⟨0x30008 + 0x1000 * i, 1, 1, 0⟩
def Reg.RNG_PEVT_RF (i : Nat) : Fld := ⟨0x30008 + 0x1000 * i, 2, 1, 0⟩
def Reg.RNG_PEVT_LOS (i : Nat) : Fld := ⟨0x30008 + 0x1000 * i, 3, 1, 0⟩
def Reg.RNG_PEVT_LOL (i : Nat) : Fld := ⟨0x30008 + 0x1000 * i, 4, 1, 0⟩
def Reg.RNG_PEVT_BLOCK (i : Nat) : Fld := ⟨0x30008 + 0x1000 * i, 5, 1, 0⟩
def Reg.RNG_PEVT_HIBER (i : Nat) : Fld := ⟨0x30008 + 0x1000 * i, 6, 1, 0⟩
def Reg.RNG_PEVT_AM (i : Nat) : Fld := ⟨0x30008 + 0x1000 * i, 7, 1, 0⟩
def Reg.RNG_PEVT_TRAIN_FAIL (i : Nat) : Fld := ⟨0x30008 + 0x1000 * i, 8, 1, 0⟩
def Reg.RNG_PEVT_FALLBACK (i : Nat) : Fld := ⟨0x30008 + 0x1000 * i, 9, 1, 0⟩
def Reg.RNG_PEVT_MISWIRE (i : Nat) : Fld := ⟨0x30008 + 0x1000 * i, 10, 1, 0⟩
def Reg.RNG_PEVT_FEC (i : Nat) : Fld := ⟨0x30008 + 0x1000 * i, 11, 1, 0⟩
def Reg.RNG_PEVT_PROTO (i : Nat) : Fld := ⟨0x30008 + 0x1000 * i, 12, 1, 0⟩
def Reg.RNG_PEVT_BIP (i : Nat) : Fld := ⟨0x30008 + 0x1000 * i, 13, 1, 0⟩
def Reg.RNG_PCMD_RETRAIN (i : Nat) : Fld := ⟨0x3000c + 0x1000 * i, 0, 1, 0⟩
def Reg.RNG_NEIGH_HUB (i : Nat) : Fld := ⟨0x30010 + 0x1000 * i, 0, 7, 0x7f⟩
def Reg.RNG_NEIGH_PORT (i : Nat) : Fld := ⟨0x30010 + 0x1000 * i, 7, 1, 0⟩
def Reg.RNG_NEIGH_PVER (i : Nat) : Fld := ⟨0x30010 + 0x1000 * i, 8, 4, 0⟩
def Reg.RNG_NEIGH_FEC (i : Nat) : Fld := ⟨0x30010 + 0x1000 * i, 12, 1, 0⟩
def Reg.RNG_RXFRM_COUNT (i : Nat) : Fld := ⟨0x30020 + 0x1000 * i, 0, 32, 0⟩
def Reg.RNG_RXHCRC_COUNT (i : Nat) : Fld := ⟨0x30024 + 0x1000 * i, 0, 32, 0⟩
def Reg.RNG_RXCRC_COUNT (i : Nat) : Fld := ⟨0x30028 + 0x1000 * i, 0, 32, 0⟩
def Reg.RNG_RXSTOMP_COUNT (i : Nat) : Fld := ⟨0x3002c + 0x1000 * i, 0, 32, 0⟩
def Reg.RNG_RXTRUNC_COUNT (i : Nat) : Fld := ⟨0x30030 + 0x1000 * i, 0, 32, 0⟩
def Reg.RNG_RXBAD_COUNT (i : Nat) : Fld := ⟨0x30034 + 0x1000 * i, 0, 32, 0⟩
def Reg.RNG_HOPSEXP_COUNT (i : Nat) : Fld := ⟨0x30038 + 0x1000 * i, 0, 32, 0⟩
def Reg.RNG_TXFRM_COUNT (i : Nat) : Fld := ⟨0x3003c + 0x1000 * i, 0, 32, 0⟩
def Reg.RNG_TXSTOMP_COUNT (i : Nat) : Fld := ⟨0x30040 + 0x1000 * i, 0, 32, 0⟩
def Reg.RNG_DOWNCNT_COUNT (i : Nat) : Fld := ⟨0x30044 + 0x1000 * i, 0, 16, 0⟩
def Reg.RNG_FECCORR_COUNT (i : Nat) : Fld := ⟨0x30048 + 0x1000 * i, 0, 32, 0⟩
def Reg.RNG_FECUNC_COUNT (i : Nat) : Fld := ⟨0x3004c + 0x1000 * i, 0, 32, 0⟩
def Reg.RNG_INJ_HCRC (i : Nat) : Fld := ⟨0x30050 + 0x1000 * i, 0, 1, 0⟩
def Reg.RNG_INJ_CRC (i : Nat) : Fld := ⟨0x30050 + 0x1000 * i, 1, 1, 0⟩
def Reg.RNG_INJ_SYNC (i : Nat) : Fld := ⟨0x30050 + 0x1000 * i, 2, 1, 0⟩
def Reg.RNG_INJ_FORCE_LF (i : Nat) : Fld := ⟨0x30050 + 0x1000 * i, 8, 1, 0⟩
def Reg.RNG_LCFG_POL (i : Nat) (j : Nat) : Fld := ⟨0x30400 + 0x1000 * i + 0x40 * j, 0, 2, 0⟩
def Reg.RNG_LCFG_TAPMAN (i : Nat) (j : Nat) : Fld := ⟨0x30400 + 0x1000 * i + 0x40 * j, 2, 1, 0⟩
def Reg.RNG_LCFG_PRBS (i : Nat) (j : Nat) : Fld := ⟨0x30400 + 0x1000 * i + 0x40 * j, 4, 3, 0⟩
def Reg.RNG_LCFG_CHK (i : Nat) (j : Nat) : Fld := ⟨0x30400 + 0x1000 * i + 0x40 * j, 7, 1, 0⟩
def Reg.RNG_LTAP_PRE (i : Nat) (j : Nat) : Fld := ⟨0x30404 + 0x1000 * i + 0x40 * j, 0, 4, 4⟩
def Reg.RNG_LTAP_MAIN (i : Nat) (j : Nat) : Fld := ⟨0x30404 + 0x1000 * i + 0x40 * j, 8, 6, 0x2f⟩
def Reg.RNG_LTAP_POST (i : Nat) (j : Nat) : Fld := ⟨0x30404 + 0x1000 * i + 0x40 * j, 16, 5, 0xc⟩
def Reg.RNG_LTAPM_PRE (i : Nat) (j : Nat) : Fld := ⟨0x30408 + 0x1000 * i + 0x40 * j, 0, 4, 4⟩
def Reg.RNG_LTAPM_MAIN (i : Nat) (j : Nat) : Fld := ⟨0x30408 + 0x1000 * i + 0x40 * j, 8, 6, 0x2f⟩
def Reg.RNG_LTAPM_POST (i : Nat) (j : Nat) : Fld := ⟨0x30408 + 0x1000 * i + 0x40 * j, 16, 5, 0xc⟩
def Reg.RNG_LSTAT_SIGNAL (i : Nat) (j : Nat) : Fld := ⟨0x3040c + 0x1000 * i + 0x40 * j, 0, 1, 0⟩
def Reg.RNG_LSTAT_CDR (i : Nat) (j : Nat) : Fld := ⟨0x3040c + 0x1000 * i + 0x40 * j, 1, 1, 0⟩
def Reg.RNG_LSTAT_BLOCK (i : Nat) (j : Nat) : Fld := ⟨0x3040c + 0x1000 * i + 0x40 * j, 2, 1, 0⟩
def Reg.RNG_LSTAT_AM (i : Nat) (j : Nat) : Fld := ⟨0x3040c + 0x1000 * i + 0x40 * j, 3, 1, 0⟩
def Reg.RNG_LSTAT_POLINV (i : Nat) (j : Nat) : Fld := ⟨0x3040c + 0x1000 * i + 0x40 * j, 4, 1, 0⟩
def Reg.RNG_LSTAT_LOGICAL (i : Nat) (j : Nat) : Fld := ⟨0x3040c + 0x1000 * i + 0x40 * j, 5, 1, 0⟩
def Reg.RNG_LSTAT_PRBSLOCK (i : Nat) (j : Nat) : Fld := ⟨0x3040c + 0x1000 * i + 0x40 * j, 6, 1, 0⟩
def Reg.RNG_LSTAT_DONE (i : Nat) (j : Nat) : Fld := ⟨0x3040c + 0x1000 * i + 0x40 * j, 7, 1, 0⟩
def Reg.RNG_LSTAT_EYE_H (i : Nat) (j : Nat) : Fld := ⟨0x3040c + 0x1000 * i + 0x40 * j, 8, 8, 0⟩
def Reg.RNG_LSTAT_EYE_V (i : Nat) (j : Nat) : Fld := ⟨0x3040c + 0x1000 * i + 0x40 * j, 16, 8, 0⟩
def Reg.RNG_PRBSERR_COUNT (i : Nat) (j : Nat) : Fld := ⟨0x30410 + 0x1000 * i + 0x40 * j, 0, 32, 0⟩
def Reg.RNG_LINJ_ONE (i : Nat) (j : Nat) : Fld := ⟨0x30414 + 0x1000 * i + 0x40 * j, 0, 1, 0⟩
def Reg.RNG_LINJ_RATE (i : Nat) (j : Nat) : Fld := ⟨0x30414 + 0x1000 * i + 0x40 * j, 1, 4, 0⟩
def Reg.RNG_BIPERR_COUNT (i : Nat) (j : Nat) : Fld := ⟨0x30418 + 0x1000 * i + 0x40 * j, 0, 32, 0⟩
def Reg.RNG_LTRN_REQS (i : Nat) (j : Nat) : Fld := ⟨0x3041c + 0x1000 * i + 0x40 * j, 0, 8, 0⟩
def Reg.RNG_LTRN_ATTEMPTS (i : Nat) (j : Nat) : Fld := ⟨0x3041c + 0x1000 * i + 0x40 * j, 8, 8, 0⟩
def Reg.RNG_BLKID_NUM : Fld := ⟨0x3ff00, 24, 8, 3⟩
def Reg.RNG_BLKID_REV : Fld := ⟨0x3ff00, 0, 16, Config.blockRev⟩
def Reg.RNG_LOCK_SET : Fld := ⟨0x3ff04, 0, 1, 0⟩
def Reg.RNG_SCRATCH_VALUE : Fld := ⟨0x3ff08, 0, 32, 0⟩

/-- The registers of block RNG. -/
def rowsRNG : List RegRow := [  { base := 0x30000, s1 := 0x1000, n1 := 2, s2 := 0x0, n2 := 1, fields := fun i _ => [(Reg.RNG_PCFG_EN i, .rw), (Reg.RNG_PCFG_FEC i, .rw), (Reg.RNG_PCFG_FALLBACK_EN i, .rw), (Reg.RNG_PCFG_PRBS_MODE i, .rw), (Reg.RNG_PCFG_LPBK i, .rw), (Reg.RNG_PCFG_TRAIN_TMO i, .rw), (Reg.RNG_PCFG_FAULT_HOLD i, .rw)] },
  { base := 0x30004, s1 := 0x1000, n1 := 2, s2 := 0x0, n2 := 1, fields := fun i _ => [(Reg.RNG_PSTAT_STATE i, .ro), (Reg.RNG_PSTAT_UP i, .ro), (Reg.RNG_PSTAT_RATE i, .ro), (Reg.RNG_PSTAT_FEC_ON i, .ro), (Reg.RNG_PSTAT_LANE_REV i, .ro), (Reg.RNG_PSTAT_RF_RX i, .ro), (Reg.RNG_PSTAT_LF i, .ro), (Reg.RNG_PSTAT_CAUSE i, .ro), (Reg.RNG_PSTAT_SKEW i, .ro), (Reg.RNG_PSTAT_FAILS i, .ro)] },
  { base := 0x30008, s1 := 0x1000, n1 := 2, s2 := 0x0, n2 := 1, fields := fun i _ => [(Reg.RNG_PEVT_UP i, .w1c), (Reg.RNG_PEVT_DOWN i, .w1c), (Reg.RNG_PEVT_RF i, .w1c), (Reg.RNG_PEVT_LOS i, .w1c), (Reg.RNG_PEVT_LOL i, .w1c), (Reg.RNG_PEVT_BLOCK i, .w1c), (Reg.RNG_PEVT_HIBER i, .w1c), (Reg.RNG_PEVT_AM i, .w1c), (Reg.RNG_PEVT_TRAIN_FAIL i, .w1c), (Reg.RNG_PEVT_FALLBACK i, .w1c), (Reg.RNG_PEVT_MISWIRE i, .w1c), (Reg.RNG_PEVT_FEC i, .w1c), (Reg.RNG_PEVT_PROTO i, .w1c), (Reg.RNG_PEVT_BIP i, .w1c)] },
  { base := 0x3000c, s1 := 0x1000, n1 := 2, s2 := 0x0, n2 := 1, fields := fun i _ => [(Reg.RNG_PCMD_RETRAIN i, .wo)] },
  { base := 0x30010, s1 := 0x1000, n1 := 2, s2 := 0x0, n2 := 1, fields := fun i _ => [(Reg.RNG_NEIGH_HUB i, .ro), (Reg.RNG_NEIGH_PORT i, .ro), (Reg.RNG_NEIGH_PVER i, .ro), (Reg.RNG_NEIGH_FEC i, .ro)] },
  { base := 0x30020, s1 := 0x1000, n1 := 2, s2 := 0x0, n2 := 1, fields := fun i _ => [(Reg.RNG_RXFRM_COUNT i, .rc)] },
  { base := 0x30024, s1 := 0x1000, n1 := 2, s2 := 0x0, n2 := 1, fields := fun i _ => [(Reg.RNG_RXHCRC_COUNT i, .rc)] },
  { base := 0x30028, s1 := 0x1000, n1 := 2, s2 := 0x0, n2 := 1, fields := fun i _ => [(Reg.RNG_RXCRC_COUNT i, .rc)] },
  { base := 0x3002c, s1 := 0x1000, n1 := 2, s2 := 0x0, n2 := 1, fields := fun i _ => [(Reg.RNG_RXSTOMP_COUNT i, .rc)] },
  { base := 0x30030, s1 := 0x1000, n1 := 2, s2 := 0x0, n2 := 1, fields := fun i _ => [(Reg.RNG_RXTRUNC_COUNT i, .rc)] },
  { base := 0x30034, s1 := 0x1000, n1 := 2, s2 := 0x0, n2 := 1, fields := fun i _ => [(Reg.RNG_RXBAD_COUNT i, .rc)] },
  { base := 0x30038, s1 := 0x1000, n1 := 2, s2 := 0x0, n2 := 1, fields := fun i _ => [(Reg.RNG_HOPSEXP_COUNT i, .rc)] },
  { base := 0x3003c, s1 := 0x1000, n1 := 2, s2 := 0x0, n2 := 1, fields := fun i _ => [(Reg.RNG_TXFRM_COUNT i, .rc)] },
  { base := 0x30040, s1 := 0x1000, n1 := 2, s2 := 0x0, n2 := 1, fields := fun i _ => [(Reg.RNG_TXSTOMP_COUNT i, .rc)] },
  { base := 0x30044, s1 := 0x1000, n1 := 2, s2 := 0x0, n2 := 1, fields := fun i _ => [(Reg.RNG_DOWNCNT_COUNT i, .rc)] },
  { base := 0x30048, s1 := 0x1000, n1 := 2, s2 := 0x0, n2 := 1, fields := fun i _ => [(Reg.RNG_FECCORR_COUNT i, .rc)] },
  { base := 0x3004c, s1 := 0x1000, n1 := 2, s2 := 0x0, n2 := 1, fields := fun i _ => [(Reg.RNG_FECUNC_COUNT i, .rc)] },
  { base := 0x30050, s1 := 0x1000, n1 := 2, s2 := 0x0, n2 := 1, fields := fun i _ => [(Reg.RNG_INJ_HCRC i, .wo), (Reg.RNG_INJ_CRC i, .wo), (Reg.RNG_INJ_SYNC i, .wo), (Reg.RNG_INJ_FORCE_LF i, .rw)] },
  { base := 0x30400, s1 := 0x1000, n1 := 2, s2 := 0x40, n2 := 2, fields := fun i j => [(Reg.RNG_LCFG_POL i j, .rw), (Reg.RNG_LCFG_TAPMAN i j, .rw), (Reg.RNG_LCFG_PRBS i j, .rw), (Reg.RNG_LCFG_CHK i j, .rw)] },
  { base := 0x30404, s1 := 0x1000, n1 := 2, s2 := 0x40, n2 := 2, fields := fun i j => [(Reg.RNG_LTAP_PRE i j, .ro), (Reg.RNG_LTAP_MAIN i j, .ro), (Reg.RNG_LTAP_POST i j, .ro)] },
  { base := 0x30408, s1 := 0x1000, n1 := 2, s2 := 0x40, n2 := 2, fields := fun i j => [(Reg.RNG_LTAPM_PRE i j, .rw), (Reg.RNG_LTAPM_MAIN i j, .rw), (Reg.RNG_LTAPM_POST i j, .rw)] },
  { base := 0x3040c, s1 := 0x1000, n1 := 2, s2 := 0x40, n2 := 2, fields := fun i j => [(Reg.RNG_LSTAT_SIGNAL i j, .ro), (Reg.RNG_LSTAT_CDR i j, .ro), (Reg.RNG_LSTAT_BLOCK i j, .ro), (Reg.RNG_LSTAT_AM i j, .ro), (Reg.RNG_LSTAT_POLINV i j, .ro), (Reg.RNG_LSTAT_LOGICAL i j, .ro), (Reg.RNG_LSTAT_PRBSLOCK i j, .ro), (Reg.RNG_LSTAT_DONE i j, .ro), (Reg.RNG_LSTAT_EYE_H i j, .ro), (Reg.RNG_LSTAT_EYE_V i j, .ro)] },
  { base := 0x30410, s1 := 0x1000, n1 := 2, s2 := 0x40, n2 := 2, fields := fun i j => [(Reg.RNG_PRBSERR_COUNT i j, .rc)] },
  { base := 0x30414, s1 := 0x1000, n1 := 2, s2 := 0x40, n2 := 2, fields := fun i j => [(Reg.RNG_LINJ_ONE i j, .wo), (Reg.RNG_LINJ_RATE i j, .rw)] },
  { base := 0x30418, s1 := 0x1000, n1 := 2, s2 := 0x40, n2 := 2, fields := fun i j => [(Reg.RNG_BIPERR_COUNT i j, .rc)] },
  { base := 0x3041c, s1 := 0x1000, n1 := 2, s2 := 0x40, n2 := 2, fields := fun i j => [(Reg.RNG_LTRN_REQS i j, .ro), (Reg.RNG_LTRN_ATTEMPTS i j, .ro)] },
  { base := 0x3ff00, s1 := 0x0, n1 := 1, s2 := 0x0, n2 := 1, fields := fun _ _ => [(Reg.RNG_BLKID_NUM, .ro), (Reg.RNG_BLKID_REV, .ro)] },
  { base := 0x3ff04, s1 := 0x0, n1 := 1, s2 := 0x0, n2 := 1, fields := fun _ _ => [(Reg.RNG_LOCK_SET, .rwl)] },
  { base := 0x3ff08, s1 := 0x0, n1 := 1, s2 := 0x0, n2 := 1, fields := fun _ _ => [(Reg.RNG_SCRATCH_VALUE, .rw)] }]

/-! ### SPU (R55, R134) -/

def Reg.SPU_CFG_EN (i : Nat) : Fld := ⟨0x60000 + 0x1000 * i, 0, 1, 0⟩
def Reg.SPU_CFG_RATE (i : Nat) : Fld := ⟨0x60000 + 0x1000 * i, 1, 1, 1⟩
def Reg.SPU_CFG_FEC (i : Nat) : Fld := ⟨0x60000 + 0x1000 * i, 2, 1, 0⟩
def Reg.SPU_CFG_PRBS_MODE (i : Nat) : Fld := ⟨0x60000 + 0x1000 * i, 3, 1, 0⟩
def Reg.SPU_CFG_PRBS (i : Nat) : Fld := ⟨0x60000 + 0x1000 * i, 4, 3, 0⟩
def Reg.SPU_CFG_CHK (i : Nat) : Fld := ⟨0x60000 + 0x1000 * i, 7, 1, 0⟩
def Reg.SPU_CFG_TC (i : Nat) : Fld := ⟨0x60000 + 0x1000 * i, 8, 3, 1⟩
def Reg.SPU_CFG_MAXLEN (i : Nat) : Fld := ⟨0x60000 + 0x1000 * i, 16, 14, 0x2600⟩
def Reg.SPU_TUN_DST_HUB (i : Nat) : Fld := ⟨0x60004 + 0x1000 * i, 0, 7, 0⟩
def Reg.SPU_TUN_DST_EP (i : Nat) : Fld := ⟨0x60004 + 0x1000 * i, 8, 10, 0x1a8⟩
def Reg.SPU_TUN_STREAM (i : Nat) : Fld := ⟨0x60004 + 0x1000 * i, 20, 12, 0⟩
def Reg.SPU_STAT_UP (i : Nat) : Fld := ⟨0x60008 + 0x1000 * i, 0, 1, 0⟩
def Reg.SPU_STAT_BLOCK (i : Nat) : Fld := ⟨0x60008 + 0x1000 * i, 1, 1, 0⟩
def Reg.SPU_STAT_HIBER (i : Nat) : Fld := ⟨0x60008 + 0x1000 * i, 2, 1, 0⟩
def Reg.SPU_STAT_LF (i : Nat) : Fld := ⟨0x60008 + 0x1000 * i, 3, 1, 0⟩
def Reg.SPU_STAT_RF (i : Nat) : Fld := ⟨0x60008 + 0x1000 * i, 4, 1, 0⟩
def Reg.SPU_STAT_FECLOCK (i : Nat) : Fld := ⟨0x60008 + 0x1000 * i, 5, 1, 0⟩
def Reg.SPU_STAT_PRBSLOCK (i : Nat) : Fld := ⟨0x60008 + 0x1000 * i, 6, 1, 0⟩
def Reg.SPU_EVT_UP (i : Nat) : Fld := ⟨0x6000c + 0x1000 * i, 0, 1, 0⟩
def Reg.SPU_EVT_DOWN (i : Nat) : Fld := ⟨0x6000c + 0x1000 * i, 1, 1, 0⟩
def Reg.SPU_RXOK_COUNT (i : Nat) : Fld := ⟨0x60010 + 0x1000 * i, 0, 32, 0⟩
def Reg.SPU_RXFCS_COUNT (i : Nat) : Fld := ⟨0x60014 + 0x1000 * i, 0, 32, 0⟩
def Reg.SPU_RXSHORT_COUNT (i : Nat) : Fld := ⟨0x60018 + 0x1000 * i, 0, 32, 0⟩
def Reg.SPU_RXLONG_COUNT (i : Nat) : Fld := ⟨0x6001c + 0x1000 * i, 0, 32, 0⟩
def Reg.SPU_RXDROP_COUNT (i : Nat) : Fld := ⟨0x60020 + 0x1000 * i, 0, 32, 0⟩
def Reg.SPU_RXCTL_COUNT (i : Nat) : Fld := ⟨0x60024 + 0x1000 * i, 0, 32, 0⟩
def Reg.SPU_TXOK_COUNT (i : Nat) : Fld := ⟨0x60028 + 0x1000 * i, 0, 32, 0⟩
def Reg.SPU_TXDROP_COUNT (i : Nat) : Fld := ⟨0x6002c + 0x1000 * i, 0, 32, 0⟩
def Reg.SPU_FECCORR_COUNT (i : Nat) : Fld := ⟨0x60030 + 0x1000 * i, 0, 32, 0⟩
def Reg.SPU_FECUNC_COUNT (i : Nat) : Fld := ⟨0x60034 + 0x1000 * i, 0, 32, 0⟩
def Reg.SPU_PRBSERR_COUNT (i : Nat) : Fld := ⟨0x60038 + 0x1000 * i, 0, 32, 0⟩
def Reg.SPU_INJ_ONE (i : Nat) : Fld := ⟨0x6003c + 0x1000 * i, 0, 1, 0⟩
def Reg.SPU_INJ_RATE (i : Nat) : Fld := ⟨0x6003c + 0x1000 * i, 1, 4, 0⟩
def Reg.SPU_INJ_FCS (i : Nat) : Fld := ⟨0x6003c + 0x1000 * i, 5, 1, 0⟩
def Reg.SPU_TAP_PRE (i : Nat) : Fld := ⟨0x60040 + 0x1000 * i, 0, 4, 4⟩
def Reg.SPU_TAP_MAIN (i : Nat) : Fld := ⟨0x60040 + 0x1000 * i, 8, 6, 0x2f⟩
def Reg.SPU_TAP_POST (i : Nat) : Fld := ⟨0x60040 + 0x1000 * i, 16, 5, 0xc⟩
def Reg.SPU_BLKID_NUM : Fld := ⟨0x6ff00, 24, 8, 6⟩
def Reg.SPU_BLKID_REV : Fld := ⟨0x6ff00, 0, 16, Config.blockRev⟩
def Reg.SPU_LOCK_SET : Fld := ⟨0x6ff04, 0, 1, 0⟩
def Reg.SPU_SCRATCH_VALUE : Fld := ⟨0x6ff08, 0, 32, 0⟩

/-- The registers of block SPU. -/
def rowsSPU : List RegRow := [  { base := 0x60000, s1 := 0x1000, n1 := 4, s2 := 0x0, n2 := 1, fields := fun i _ => [(Reg.SPU_CFG_EN i, .rw), (Reg.SPU_CFG_RATE i, .rw), (Reg.SPU_CFG_FEC i, .rw), (Reg.SPU_CFG_PRBS_MODE i, .rw), (Reg.SPU_CFG_PRBS i, .rw), (Reg.SPU_CFG_CHK i, .rw), (Reg.SPU_CFG_TC i, .rw), (Reg.SPU_CFG_MAXLEN i, .rw)] },
  { base := 0x60004, s1 := 0x1000, n1 := 4, s2 := 0x0, n2 := 1, fields := fun i _ => [(Reg.SPU_TUN_DST_HUB i, .rw), (Reg.SPU_TUN_DST_EP i, .rw), (Reg.SPU_TUN_STREAM i, .rw)] },
  { base := 0x60008, s1 := 0x1000, n1 := 4, s2 := 0x0, n2 := 1, fields := fun i _ => [(Reg.SPU_STAT_UP i, .ro), (Reg.SPU_STAT_BLOCK i, .ro), (Reg.SPU_STAT_HIBER i, .ro), (Reg.SPU_STAT_LF i, .ro), (Reg.SPU_STAT_RF i, .ro), (Reg.SPU_STAT_FECLOCK i, .ro), (Reg.SPU_STAT_PRBSLOCK i, .ro)] },
  { base := 0x6000c, s1 := 0x1000, n1 := 4, s2 := 0x0, n2 := 1, fields := fun i _ => [(Reg.SPU_EVT_UP i, .w1c), (Reg.SPU_EVT_DOWN i, .w1c)] },
  { base := 0x60010, s1 := 0x1000, n1 := 4, s2 := 0x0, n2 := 1, fields := fun i _ => [(Reg.SPU_RXOK_COUNT i, .rc)] },
  { base := 0x60014, s1 := 0x1000, n1 := 4, s2 := 0x0, n2 := 1, fields := fun i _ => [(Reg.SPU_RXFCS_COUNT i, .rc)] },
  { base := 0x60018, s1 := 0x1000, n1 := 4, s2 := 0x0, n2 := 1, fields := fun i _ => [(Reg.SPU_RXSHORT_COUNT i, .rc)] },
  { base := 0x6001c, s1 := 0x1000, n1 := 4, s2 := 0x0, n2 := 1, fields := fun i _ => [(Reg.SPU_RXLONG_COUNT i, .rc)] },
  { base := 0x60020, s1 := 0x1000, n1 := 4, s2 := 0x0, n2 := 1, fields := fun i _ => [(Reg.SPU_RXDROP_COUNT i, .rc)] },
  { base := 0x60024, s1 := 0x1000, n1 := 4, s2 := 0x0, n2 := 1, fields := fun i _ => [(Reg.SPU_RXCTL_COUNT i, .rc)] },
  { base := 0x60028, s1 := 0x1000, n1 := 4, s2 := 0x0, n2 := 1, fields := fun i _ => [(Reg.SPU_TXOK_COUNT i, .rc)] },
  { base := 0x6002c, s1 := 0x1000, n1 := 4, s2 := 0x0, n2 := 1, fields := fun i _ => [(Reg.SPU_TXDROP_COUNT i, .rc)] },
  { base := 0x60030, s1 := 0x1000, n1 := 4, s2 := 0x0, n2 := 1, fields := fun i _ => [(Reg.SPU_FECCORR_COUNT i, .rc)] },
  { base := 0x60034, s1 := 0x1000, n1 := 4, s2 := 0x0, n2 := 1, fields := fun i _ => [(Reg.SPU_FECUNC_COUNT i, .rc)] },
  { base := 0x60038, s1 := 0x1000, n1 := 4, s2 := 0x0, n2 := 1, fields := fun i _ => [(Reg.SPU_PRBSERR_COUNT i, .rc)] },
  { base := 0x6003c, s1 := 0x1000, n1 := 4, s2 := 0x0, n2 := 1, fields := fun i _ => [(Reg.SPU_INJ_ONE i, .wo), (Reg.SPU_INJ_RATE i, .rw), (Reg.SPU_INJ_FCS i, .wo)] },
  { base := 0x60040, s1 := 0x1000, n1 := 4, s2 := 0x0, n2 := 1, fields := fun i _ => [(Reg.SPU_TAP_PRE i, .rw), (Reg.SPU_TAP_MAIN i, .rw), (Reg.SPU_TAP_POST i, .rw)] },
  { base := 0x6ff00, s1 := 0x0, n1 := 1, s2 := 0x0, n2 := 1, fields := fun _ _ => [(Reg.SPU_BLKID_NUM, .ro), (Reg.SPU_BLKID_REV, .ro)] },
  { base := 0x6ff04, s1 := 0x0, n1 := 1, s2 := 0x0, n2 := 1, fields := fun _ _ => [(Reg.SPU_LOCK_SET, .rwl)] },
  { base := 0x6ff08, s1 := 0x0, n1 := 1, s2 := 0x0, n2 := 1, fields := fun _ _ => [(Reg.SPU_SCRATCH_VALUE, .rw)] }]

/-! ### RED (R55, R163) -/

def Reg.RED_STCFG_AGE_MS : Fld := ⟨0x40000, 0, 14, 0x64⟩
def Reg.RED_STSTAT_USED : Fld := ⟨0x40004, 0, 12, 0⟩
def Reg.RED_STSTAT_FULL : Fld := ⟨0x40004, 12, 1, 0⟩
def Reg.RED_STEVT_TBL_FULL : Fld := ⟨0x40008, 0, 1, 0⟩
def Reg.RED_STEVT_OLD : Fld := ⟨0x40008, 1, 1, 0⟩
def Reg.RED_DUPDISC_COUNT : Fld := ⟨0x40010, 0, 32, 0⟩
def Reg.RED_OLDDISC_COUNT : Fld := ⟨0x40014, 0, 32, 0⟩
def Reg.RED_UNTRK_COUNT : Fld := ⟨0x40018, 0, 32, 0⟩
def Reg.RED_DUPHW_COUNT : Fld := ⟨0x4001c, 0, 32, 0⟩
def Reg.RED_WINA_COUNT : Fld := ⟨0x40020, 0, 32, 0⟩
def Reg.RED_WINB_COUNT : Fld := ⟨0x40024, 0, 32, 0⟩
def Reg.RED_SRCREM_COUNT : Fld := ⟨0x40028, 0, 32, 0⟩
def Reg.RED_NOPATH_COUNT : Fld := ⟨0x4002c, 0, 32, 0⟩
def Reg.RED_STFIND_SRC_HUB : Fld := ⟨0x40040, 0, 7, 0⟩
def Reg.RED_STFIND_STREAM : Fld := ⟨0x40040, 8, 12, 0⟩
def Reg.RED_STFIND_GO : Fld := ⟨0x40040, 31, 1, 0⟩
def Reg.RED_STFOUND_INDEX : Fld := ⟨0x40044, 0, 12, 0⟩
def Reg.RED_STFOUND_HIT : Fld := ⟨0x40044, 12, 1, 0⟩
def Reg.RED_RING_STATE : Fld := ⟨0x40080, 0, 2, 3⟩
def Reg.RED_RING_SINGLE : Fld := ⟨0x40080, 2, 1, 0⟩
def Reg.RED_RING_E_UP : Fld := ⟨0x40080, 3, 1, 0⟩
def Reg.RED_RING_W_UP : Fld := ⟨0x40080, 4, 1, 0⟩
def Reg.RED_RING_BREAK_HUB : Fld := ⟨0x40080, 8, 7, 0x7f⟩
def Reg.RED_RING_CHAINS : Fld := ⟨0x40080, 16, 8, 0⟩
def Reg.RED_RING_MEMBERS : Fld := ⟨0x40080, 24, 8, 0⟩
def Reg.RED_WCL_WCL_NS : Fld := ⟨0x40084, 0, 24, 0⟩
def Reg.RED_WCL_HOPS : Fld := ⟨0x40084, 24, 7, 0⟩
def Reg.RED_CABLE_NS : Fld := ⟨0x40088, 0, 8, 0x32⟩
def Reg.RED_RINGEVT_CHANGED : Fld := ⟨0x4008c, 0, 1, 0⟩
def Reg.RED_RINGEVT_SPLIT : Fld := ⟨0x4008c, 1, 1, 0⟩
def Reg.RED_LEADCFG_PRIO : Fld := ⟨0x40100, 0, 8, 0⟩
def Reg.RED_LEADCFG_CAND : Fld := ⟨0x40100, 8, 1, 0⟩
def Reg.RED_LEADCFG_HPER : Fld := ⟨0x40100, 12, 4, 6⟩
def Reg.RED_STEPTOL_NS : Fld := ⟨0x40104, 0, 16, 0x64⟩
def Reg.RED_LEADSTAT_STATE : Fld := ⟨0x40108, 0, 3, 0⟩
def Reg.RED_LEADSTAT_READY : Fld := ⟨0x40108, 3, 1, 0⟩
def Reg.RED_LEADSTAT_LEAD_HUB : Fld := ⟨0x40108, 8, 7, 0x7f⟩
def Reg.RED_LEADSTAT_LEAD_PRIO : Fld := ⟨0x40108, 16, 8, 0⟩
def Reg.RED_TERM_TERM : Fld := ⟨0x4010c, 0, 32, 0⟩
def Reg.RED_LEADCMD_HANDOVER : Fld := ⟨0x40110, 0, 1, 0⟩
def Reg.RED_LEADCMD_TARGET : Fld := ⟨0x40110, 8, 7, 0⟩
def Reg.RED_LEADEVT_CHANGED : Fld := ⟨0x40114, 0, 1, 0⟩
def Reg.RED_LEADEVT_TAKEOVER : Fld := ⟨0x40114, 1, 1, 0⟩
def Reg.RED_LEADEVT_OVERLAP : Fld := ⟨0x40114, 2, 1, 0⟩
def Reg.RED_LEADEVT_STEPDOWN : Fld := ⟨0x40114, 3, 1, 0⟩
def Reg.RED_LEADEVT_HANDOVER_REFUSED : Fld := ⟨0x40114, 4, 1, 0⟩
def Reg.RED_LEADEVT_OUT_OF_STEP : Fld := ⟨0x40114, 5, 1, 0⟩
def Reg.RED_LEADEVT_WCL_OVER : Fld := ⟨0x40114, 6, 1, 0⟩
def Reg.RED_LEADEVT_DUP_PRIO : Fld := ⟨0x40114, 7, 1, 0⟩
def Reg.RED_LEADEVT_LEAD_LOST : Fld := ⟨0x40114, 8, 1, 0⟩
def Reg.RED_STEPERR_COUNT : Fld := ⟨0x40118, 0, 32, 0⟩
def Reg.RED_LOWSYNC_COUNT : Fld := ⟨0x4011c, 0, 32, 0⟩
def Reg.RED_HEALTH_HUB (i : Nat) : Fld := ⟨0x40200 + 0x10 * i, 0, 7, 0x7f⟩
def Reg.RED_HEALTH_VALID (i : Nat) : Fld := ⟨0x40200 + 0x10 * i, 7, 1, 0⟩
def Reg.RED_HEALTH_PRIO (i : Nat) : Fld := ⟨0x40200 + 0x10 * i, 8, 8, 0⟩
def Reg.RED_HEALTH_READY (i : Nat) : Fld := ⟨0x40200 + 0x10 * i, 16, 1, 0⟩
def Reg.RED_HEALTH_PLAN_MATCH (i : Nat) : Fld := ⟨0x40200 + 0x10 * i, 17, 1, 0⟩
def Reg.RED_HEALTH_SINGLE (i : Nat) : Fld := ⟨0x40200 + 0x10 * i, 18, 1, 0⟩
def Reg.RED_HOFF_MAX_OFF (i : Nat) : Fld := ⟨0x40204 + 0x10 * i, 0, 16, 0⟩
def Reg.RED_HOFF_MISS (i : Nat) : Fld := ⟨0x40204 + 0x10 * i, 16, 16, 0⟩
def Reg.RED_HCYC_CYCLE (i : Nat) : Fld := ⟨0x40208 + 0x10 * i, 0, 32, 0⟩
def Reg.RED_STE_VALID (i : Nat) : Fld := ⟨0x43000 + 0x10 * i, 0, 1, 0⟩
def Reg.RED_STE_SRC_HUB (i : Nat) : Fld := ⟨0x43000 + 0x10 * i, 1, 7, 0⟩
def Reg.RED_STE_STREAM (i : Nat) : Fld := ⟨0x43000 + 0x10 * i, 8, 12, 0⟩
def Reg.RED_STE_LASTPATH (i : Nat) : Fld := ⟨0x43000 + 0x10 * i, 20, 1, 0⟩
def Reg.RED_STHI_HIGH (i : Nat) : Fld := ⟨0x43004 + 0x10 * i, 0, 16, 0⟩
def Reg.RED_STHI_IDLE_MS (i : Nat) : Fld := ⟨0x43004 + 0x10 * i, 16, 16, 0⟩
def Reg.RED_STWIN_WINDOW (i : Nat) : Fld := ⟨0x43008 + 0x10 * i, 0, 64, 0⟩
def Reg.RED_BLKID_NUM : Fld := ⟨0x4ff00, 24, 8, 4⟩
def Reg.RED_BLKID_REV : Fld := ⟨0x4ff00, 0, 16, Config.blockRev⟩
def Reg.RED_LOCK_SET : Fld := ⟨0x4ff04, 0, 1, 0⟩
def Reg.RED_SCRATCH_VALUE : Fld := ⟨0x4ff08, 0, 32, 0⟩

/-- The registers of block RED. -/
def rowsRED : List RegRow := [  { base := 0x40000, s1 := 0x0, n1 := 1, s2 := 0x0, n2 := 1, fields := fun _ _ => [(Reg.RED_STCFG_AGE_MS, .rw)] },
  { base := 0x40004, s1 := 0x0, n1 := 1, s2 := 0x0, n2 := 1, fields := fun _ _ => [(Reg.RED_STSTAT_USED, .ro), (Reg.RED_STSTAT_FULL, .ro)] },
  { base := 0x40008, s1 := 0x0, n1 := 1, s2 := 0x0, n2 := 1, fields := fun _ _ => [(Reg.RED_STEVT_TBL_FULL, .w1c), (Reg.RED_STEVT_OLD, .w1c)] },
  { base := 0x40010, s1 := 0x0, n1 := 1, s2 := 0x0, n2 := 1, fields := fun _ _ => [(Reg.RED_DUPDISC_COUNT, .rc)] },
  { base := 0x40014, s1 := 0x0, n1 := 1, s2 := 0x0, n2 := 1, fields := fun _ _ => [(Reg.RED_OLDDISC_COUNT, .rc)] },
  { base := 0x40018, s1 := 0x0, n1 := 1, s2 := 0x0, n2 := 1, fields := fun _ _ => [(Reg.RED_UNTRK_COUNT, .rc)] },
  { base := 0x4001c, s1 := 0x0, n1 := 1, s2 := 0x0, n2 := 1, fields := fun _ _ => [(Reg.RED_DUPHW_COUNT, .rc)] },
  { base := 0x40020, s1 := 0x0, n1 := 1, s2 := 0x0, n2 := 1, fields := fun _ _ => [(Reg.RED_WINA_COUNT, .rc)] },
  { base := 0x40024, s1 := 0x0, n1 := 1, s2 := 0x0, n2 := 1, fields := fun _ _ => [(Reg.RED_WINB_COUNT, .rc)] },
  { base := 0x40028, s1 := 0x0, n1 := 1, s2 := 0x0, n2 := 1, fields := fun _ _ => [(Reg.RED_SRCREM_COUNT, .rc)] },
  { base := 0x4002c, s1 := 0x0, n1 := 1, s2 := 0x0, n2 := 1, fields := fun _ _ => [(Reg.RED_NOPATH_COUNT, .rc)] },
  { base := 0x40040, s1 := 0x0, n1 := 1, s2 := 0x0, n2 := 1, fields := fun _ _ => [(Reg.RED_STFIND_SRC_HUB, .rw), (Reg.RED_STFIND_STREAM, .rw), (Reg.RED_STFIND_GO, .wo)] },
  { base := 0x40044, s1 := 0x0, n1 := 1, s2 := 0x0, n2 := 1, fields := fun _ _ => [(Reg.RED_STFOUND_INDEX, .ro), (Reg.RED_STFOUND_HIT, .ro)] },
  { base := 0x40080, s1 := 0x0, n1 := 1, s2 := 0x0, n2 := 1, fields := fun _ _ => [(Reg.RED_RING_STATE, .ro), (Reg.RED_RING_SINGLE, .ro), (Reg.RED_RING_E_UP, .ro), (Reg.RED_RING_W_UP, .ro), (Reg.RED_RING_BREAK_HUB, .ro), (Reg.RED_RING_CHAINS, .ro), (Reg.RED_RING_MEMBERS, .ro)] },
  { base := 0x40084, s1 := 0x0, n1 := 1, s2 := 0x0, n2 := 1, fields := fun _ _ => [(Reg.RED_WCL_WCL_NS, .ro), (Reg.RED_WCL_HOPS, .ro)] },
  { base := 0x40088, s1 := 0x0, n1 := 1, s2 := 0x0, n2 := 1, fields := fun _ _ => [(Reg.RED_CABLE_NS, .rw)] },
  { base := 0x4008c, s1 := 0x0, n1 := 1, s2 := 0x0, n2 := 1, fields := fun _ _ => [(Reg.RED_RINGEVT_CHANGED, .w1c), (Reg.RED_RINGEVT_SPLIT, .w1c)] },
  { base := 0x40100, s1 := 0x0, n1 := 1, s2 := 0x0, n2 := 1, fields := fun _ _ => [(Reg.RED_LEADCFG_PRIO, .rw), (Reg.RED_LEADCFG_CAND, .rw), (Reg.RED_LEADCFG_HPER, .rw)] },
  { base := 0x40104, s1 := 0x0, n1 := 1, s2 := 0x0, n2 := 1, fields := fun _ _ => [(Reg.RED_STEPTOL_NS, .rw)] },
  { base := 0x40108, s1 := 0x0, n1 := 1, s2 := 0x0, n2 := 1, fields := fun _ _ => [(Reg.RED_LEADSTAT_STATE, .ro), (Reg.RED_LEADSTAT_READY, .ro), (Reg.RED_LEADSTAT_LEAD_HUB, .ro), (Reg.RED_LEADSTAT_LEAD_PRIO, .ro)] },
  { base := 0x4010c, s1 := 0x0, n1 := 1, s2 := 0x0, n2 := 1, fields := fun _ _ => [(Reg.RED_TERM_TERM, .ro)] },
  { base := 0x40110, s1 := 0x0, n1 := 1, s2 := 0x0, n2 := 1, fields := fun _ _ => [(Reg.RED_LEADCMD_HANDOVER, .wo), (Reg.RED_LEADCMD_TARGET, .wo)] },
  { base := 0x40114, s1 := 0x0, n1 := 1, s2 := 0x0, n2 := 1, fields := fun _ _ => [(Reg.RED_LEADEVT_CHANGED, .w1c), (Reg.RED_LEADEVT_TAKEOVER, .w1c), (Reg.RED_LEADEVT_OVERLAP, .w1c), (Reg.RED_LEADEVT_STEPDOWN, .w1c), (Reg.RED_LEADEVT_HANDOVER_REFUSED, .w1c), (Reg.RED_LEADEVT_OUT_OF_STEP, .w1c), (Reg.RED_LEADEVT_WCL_OVER, .w1c), (Reg.RED_LEADEVT_DUP_PRIO, .w1c), (Reg.RED_LEADEVT_LEAD_LOST, .w1c)] },
  { base := 0x40118, s1 := 0x0, n1 := 1, s2 := 0x0, n2 := 1, fields := fun _ _ => [(Reg.RED_STEPERR_COUNT, .rc)] },
  { base := 0x4011c, s1 := 0x0, n1 := 1, s2 := 0x0, n2 := 1, fields := fun _ _ => [(Reg.RED_LOWSYNC_COUNT, .rc)] },
  { base := 0x40200, s1 := 0x10, n1 := 8, s2 := 0x0, n2 := 1, fields := fun i _ => [(Reg.RED_HEALTH_HUB i, .ro), (Reg.RED_HEALTH_VALID i, .ro), (Reg.RED_HEALTH_PRIO i, .ro), (Reg.RED_HEALTH_READY i, .ro), (Reg.RED_HEALTH_PLAN_MATCH i, .ro), (Reg.RED_HEALTH_SINGLE i, .ro)] },
  { base := 0x40204, s1 := 0x10, n1 := 8, s2 := 0x0, n2 := 1, fields := fun i _ => [(Reg.RED_HOFF_MAX_OFF i, .ro), (Reg.RED_HOFF_MISS i, .ro)] },
  { base := 0x40208, s1 := 0x10, n1 := 8, s2 := 0x0, n2 := 1, fields := fun i _ => [(Reg.RED_HCYC_CYCLE i, .ro)] },
  { base := 0x43000, s1 := 0x10, n1 := 3072, s2 := 0x0, n2 := 1, fields := fun i _ => [(Reg.RED_STE_VALID i, .ro), (Reg.RED_STE_SRC_HUB i, .ro), (Reg.RED_STE_STREAM i, .ro), (Reg.RED_STE_LASTPATH i, .ro)] },
  { base := 0x43004, s1 := 0x10, n1 := 3072, s2 := 0x0, n2 := 1, fields := fun i _ => [(Reg.RED_STHI_HIGH i, .ro), (Reg.RED_STHI_IDLE_MS i, .ro)] },
  { base := 0x43008, s1 := 0x10, n1 := 3072, s2 := 0x0, n2 := 1, fields := fun i _ => [(Reg.RED_STWIN_WINDOW i, .ro)] },
  { base := 0x4ff00, s1 := 0x0, n1 := 1, s2 := 0x0, n2 := 1, fields := fun _ _ => [(Reg.RED_BLKID_NUM, .ro), (Reg.RED_BLKID_REV, .ro)] },
  { base := 0x4ff04, s1 := 0x0, n1 := 1, s2 := 0x0, n2 := 1, fields := fun _ _ => [(Reg.RED_LOCK_SET, .rwl)] },
  { base := 0x4ff08, s1 := 0x0, n1 := 1, s2 := 0x0, n2 := 1, fields := fun _ _ => [(Reg.RED_SCRATCH_VALUE, .rw)] }]

/-! ### SWC (R55, R190) -/

def Reg.SWC_BUFCFG_RSP_RSV : Fld := ⟨0x50000, 0, 12, 0x200⟩
def Reg.SWC_BUFSTAT_FREE : Fld := ⟨0x50004, 0, 16, 0x8000⟩
def Reg.SWC_BUFSTAT_POOLFREE : Fld := ⟨0x50004, 16, 16, 0⟩
def Reg.SWC_POOLWM_HWM : Fld := ⟨0x50008, 0, 16, 0x4000⟩
def Reg.SWC_POOLWM_HOLDOFF : Fld := ⟨0x50008, 16, 16, 0xa⟩
def Reg.SWC_POOLXING_COUNT : Fld := ⟨0x5000c, 0, 16, 0⟩
def Reg.SWC_POOLPEAK_PEAK : Fld := ⟨0x50010, 0, 16, 0⟩
def Reg.SWC_FLOOR_CELLS (i : Nat) : Fld := ⟨0x50020 + 4 * i, 0, 16, swcFloor i⟩
def Reg.SWC_MCRCFG_TMO_US : Fld := ⟨0x50040, 0, 20, 0x3e8⟩
def Reg.SWC_RSQCFG_TMO : Fld := ⟨0x50060, 0, 8, 0xa⟩
def Reg.SWC_RSQCFG_STRIKES : Fld := ⟨0x50060, 8, 4, 4⟩
def Reg.SWC_PLANE_EN : Fld := ⟨0x50064, 0, 4, 0xf⟩
def Reg.SWC_PLANE_RETIRED : Fld := ⟨0x50064, 4, 4, 0⟩
def Reg.SWC_RATE_HS : Fld := ⟨0x50068, 0, 16, 0⟩
def Reg.SWC_RATE_CAP_GBPS : Fld := ⟨0x50068, 16, 16, 0⟩
def Reg.SWC_RATECFG_FLOOR : Fld := ⟨0x5006c, 0, 16, 0x140⟩
def Reg.SWC_EVT_RATE_LOW : Fld := ⟨0x50070, 0, 1, 0⟩
def Reg.SWC_EVT_PLANE_RETIRED : Fld := ⟨0x50070, 1, 1, 0⟩
def Reg.SWC_EVT_CFG_REFUSED : Fld := ⟨0x50070, 2, 1, 0⟩
def Reg.SWC_EVT_POOL_WM : Fld := ⟨0x50070, 3, 1, 0⟩
def Reg.SWC_EVT_CYA_REFUSED : Fld := ⟨0x50070, 4, 1, 0⟩
def Reg.SWC_EVT_PLAN_ACTIVE : Fld := ⟨0x50070, 5, 1, 0⟩
def Reg.SWC_EVT_OVER_RATE : Fld := ⟨0x50070, 6, 1, 0⟩
def Reg.SWC_HOLD_US (i : Nat) : Fld := ⟨0x50080 + 4 * i, 0, 20, 0x7d0⟩
def Reg.SWC_INDROP_COUNT (i : Nat) : Fld := ⟨0x500a8 + 4 * i, 0, 32, 0⟩
def Reg.SWC_INTRUNC_COUNT (i : Nat) : Fld := ⟨0x500c0 + 4 * i, 0, 32, 0⟩
def Reg.SWC_MIRCFG_EN : Fld := ⟨0x500e0, 0, 1, 0⟩
def Reg.SWC_MIRCFG_DEST : Fld := ⟨0x500e0, 1, 1, 0⟩
def Reg.SWC_MIRCFG_TC : Fld := ⟨0x500e0, 4, 3, 0⟩
def Reg.SWC_MIRCFG_TCMASK : Fld := ⟨0x500e0, 8, 8, 0⟩
def Reg.SWC_MIRCFG_PORTS : Fld := ⟨0x500e0, 16, 10, 0⟩
def Reg.SWC_MIRN_N : Fld := ⟨0x500e4, 0, 16, 0x400⟩
def Reg.SWC_MIRCNT_COUNT : Fld := ⟨0x500e8, 0, 32, 0⟩
def Reg.SWC_MIRDROP_COUNT : Fld := ⟨0x500ec, 0, 32, 0⟩
def Reg.SWC_PLANCFG_M : Fld := ⟨0x50100, 0, 7, 0⟩
def Reg.SWC_PLANCFG_K : Fld := ⟨0x50100, 8, 2, 0⟩
def Reg.SWC_PLANOFS_NS : Fld := ⟨0x50104, 0, 23, 0x1388⟩
def Reg.SWC_PLANCRC_CRC : Fld := ⟨0x50108, 0, 32, 0⟩
def Reg.SWC_PLANACT_CYCLE : Fld := ⟨0x5010c, 0, 32, 0⟩
def Reg.SWC_PLANCMD_ADMIT : Fld := ⟨0x50110, 0, 1, 0⟩
def Reg.SWC_CYASTAT_STATE : Fld := ⟨0x50114, 0, 2, 0⟩
def Reg.SWC_CYASTAT_REFUSE : Fld := ⟨0x50114, 4, 4, 0⟩
def Reg.SWC_APLANCRC_CRC : Fld := ⟨0x50118, 0, 32, 0⟩
def Reg.SWC_CYALOAD_BYTES : Fld := ⟨0x5011c, 0, 20, 0⟩
def Reg.SWC_CYABUDGET_BYTES : Fld := ⟨0x50120, 0, 26, 0⟩
def Reg.SWC_CYASPAN_NS : Fld := ⟨0x50124, 0, 24, 0⟩
def Reg.SWC_CYCRSV_RSV : Fld := ⟨0x50128, 0, 16, 0⟩
def Reg.SWC_LAUNCH_NS : Fld := ⟨0x50130, 0, 24, 0⟩
def Reg.SWC_CYCMISM_COUNT : Fld := ⟨0x50134, 0, 32, 0⟩
def Reg.SWC_INSTALE_STALE : Fld := ⟨0x50138, 0, 16, 0⟩
def Reg.SWC_INSTALE_NONE : Fld := ⟨0x50138, 16, 16, 0⟩
def Reg.SWC_RSQLOST_COUNT (i : Nat) : Fld := ⟨0x50140 + 4 * i, 0, 32, 0⟩
def Reg.SWC_PLANI_IN_LEN (i : Nat) : Fld := ⟨0x50400 + 8 * i, 0, 13, 0⟩
def Reg.SWC_PLANO_OUT_LEN (i : Nat) : Fld := ⟨0x50404 + 8 * i, 0, 13, 0⟩
def Reg.SWC_PLANO_OUT_SRC (i : Nat) : Fld := ⟨0x50404 + 8 * i, 16, 7, 0⟩
def Reg.SWC_APLANI_IN_LEN (i : Nat) : Fld := ⟨0x50800 + 8 * i, 0, 13, 0⟩
def Reg.SWC_APLANO_OUT_LEN (i : Nat) : Fld := ⟨0x50804 + 8 * i, 0, 13, 0⟩
def Reg.SWC_APLANO_OUT_SRC (i : Nat) : Fld := ⟨0x50804 + 8 * i, 16, 7, 0⟩
def Reg.SWC_QCFG_MIN (i : Nat) : Fld := ⟨0x51000 + 0x40 * i, 0, 12, 0x40⟩
def Reg.SWC_QCFG_WEIGHT (i : Nat) : Fld := ⟨0x51000 + 0x40 * i, 12, 4, 1⟩
def Reg.SWC_QCFG_MAX (i : Nat) : Fld := ⟨0x51000 + 0x40 * i, 16, 16, 0x2000⟩
def Reg.SWC_QWM_HWM (i : Nat) : Fld := ⟨0x51004 + 0x40 * i, 0, 16, 0x800⟩
def Reg.SWC_QWM_HOLDOFF (i : Nat) : Fld := ⟨0x51004 + 0x40 * i, 16, 16, 0xa⟩
def Reg.SWC_QSTAT_DEPTH (i : Nat) : Fld := ⟨0x51008 + 0x40 * i, 0, 16, 0⟩
def Reg.SWC_QSTAT_STATE (i : Nat) : Fld := ⟨0x51008 + 0x40 * i, 16, 2, 0⟩
def Reg.SWC_QXING_COUNT (i : Nat) : Fld := ⟨0x5100c + 0x40 * i, 0, 16, 0⟩
def Reg.SWC_QPEAK_PEAK (i : Nat) : Fld := ⟨0x51010 + 0x40 * i, 0, 16, 0⟩
def Reg.SWC_QEVT_WM (i : Nat) : Fld := ⟨0x51014 + 0x40 * i, 0, 1, 0⟩
def Reg.SWC_QDROP_COUNT (i : Nat) : Fld := ⟨0x51018 + 0x40 * i, 0, 32, 0⟩
def Reg.SWC_QFLUSH_COUNT (i : Nat) : Fld := ⟨0x5101c + 0x40 * i, 0, 32, 0⟩
def Reg.SWC_QRESID_COUNT (i : Nat) : Fld := ⟨0x51020 + 0x40 * i, 0, 32, 0⟩
def Reg.SWC_QSTALE_COUNT (i : Nat) : Fld := ⟨0x51024 + 0x40 * i, 0, 32, 0⟩
def Reg.SWC_QDOWNDROP_COUNT (i : Nat) : Fld := ⟨0x51028 + 0x40 * i, 0, 32, 0⟩
def Reg.SWC_QTXFRM_COUNT (i : Nat) : Fld := ⟨0x5102c + 0x40 * i, 0, 32, 0⟩
def Reg.SWC_BLKID_NUM : Fld := ⟨0x5ff00, 24, 8, 5⟩
def Reg.SWC_BLKID_REV : Fld := ⟨0x5ff00, 0, 16, Config.blockRev⟩
def Reg.SWC_LOCK_SET : Fld := ⟨0x5ff04, 0, 1, 0⟩
def Reg.SWC_SCRATCH_VALUE : Fld := ⟨0x5ff08, 0, 32, 0⟩

/-- The registers of block SWC. -/
def rowsSWC : List RegRow := [  { base := 0x50000, s1 := 0x0, n1 := 1, s2 := 0x0, n2 := 1, fields := fun _ _ => [(Reg.SWC_BUFCFG_RSP_RSV, .rw)] },
  { base := 0x50004, s1 := 0x0, n1 := 1, s2 := 0x0, n2 := 1, fields := fun _ _ => [(Reg.SWC_BUFSTAT_FREE, .ro), (Reg.SWC_BUFSTAT_POOLFREE, .ro)] },
  { base := 0x50008, s1 := 0x0, n1 := 1, s2 := 0x0, n2 := 1, fields := fun _ _ => [(Reg.SWC_POOLWM_HWM, .rw), (Reg.SWC_POOLWM_HOLDOFF, .rw)] },
  { base := 0x5000c, s1 := 0x0, n1 := 1, s2 := 0x0, n2 := 1, fields := fun _ _ => [(Reg.SWC_POOLXING_COUNT, .rc)] },
  { base := 0x50010, s1 := 0x0, n1 := 1, s2 := 0x0, n2 := 1, fields := fun _ _ => [(Reg.SWC_POOLPEAK_PEAK, .rc)] },
  { base := 0x50020, s1 := 0x4, n1 := 8, s2 := 0x0, n2 := 1, fields := fun i _ => [(Reg.SWC_FLOOR_CELLS i, .rw)] },
  { base := 0x50040, s1 := 0x0, n1 := 1, s2 := 0x0, n2 := 1, fields := fun _ _ => [(Reg.SWC_MCRCFG_TMO_US, .rw)] },
  { base := 0x50060, s1 := 0x0, n1 := 1, s2 := 0x0, n2 := 1, fields := fun _ _ => [(Reg.SWC_RSQCFG_TMO, .rw), (Reg.SWC_RSQCFG_STRIKES, .rw)] },
  { base := 0x50064, s1 := 0x0, n1 := 1, s2 := 0x0, n2 := 1, fields := fun _ _ => [(Reg.SWC_PLANE_EN, .rw), (Reg.SWC_PLANE_RETIRED, .ro)] },
  { base := 0x50068, s1 := 0x0, n1 := 1, s2 := 0x0, n2 := 1, fields := fun _ _ => [(Reg.SWC_RATE_HS, .ro), (Reg.SWC_RATE_CAP_GBPS, .ro)] },
  { base := 0x5006c, s1 := 0x0, n1 := 1, s2 := 0x0, n2 := 1, fields := fun _ _ => [(Reg.SWC_RATECFG_FLOOR, .rw)] },
  { base := 0x50070, s1 := 0x0, n1 := 1, s2 := 0x0, n2 := 1, fields := fun _ _ => [(Reg.SWC_EVT_RATE_LOW, .w1c), (Reg.SWC_EVT_PLANE_RETIRED, .w1c), (Reg.SWC_EVT_CFG_REFUSED, .w1c), (Reg.SWC_EVT_POOL_WM, .w1c), (Reg.SWC_EVT_CYA_REFUSED, .w1c), (Reg.SWC_EVT_PLAN_ACTIVE, .w1c), (Reg.SWC_EVT_OVER_RATE, .w1c)] },
  { base := 0x50080, s1 := 0x4, n1 := 10, s2 := 0x0, n2 := 1, fields := fun i _ => [(Reg.SWC_HOLD_US i, .rw)] },
  { base := 0x500a8, s1 := 0x4, n1 := 6, s2 := 0x0, n2 := 1, fields := fun i _ => [(Reg.SWC_INDROP_COUNT i, .rc)] },
  { base := 0x500c0, s1 := 0x4, n1 := 6, s2 := 0x0, n2 := 1, fields := fun i _ => [(Reg.SWC_INTRUNC_COUNT i, .rc)] },
  { base := 0x500e0, s1 := 0x0, n1 := 1, s2 := 0x0, n2 := 1, fields := fun _ _ => [(Reg.SWC_MIRCFG_EN, .rw), (Reg.SWC_MIRCFG_DEST, .rw), (Reg.SWC_MIRCFG_TC, .rw), (Reg.SWC_MIRCFG_TCMASK, .rw), (Reg.SWC_MIRCFG_PORTS, .rw)] },
  { base := 0x500e4, s1 := 0x0, n1 := 1, s2 := 0x0, n2 := 1, fields := fun _ _ => [(Reg.SWC_MIRN_N, .rw)] },
  { base := 0x500e8, s1 := 0x0, n1 := 1, s2 := 0x0, n2 := 1, fields := fun _ _ => [(Reg.SWC_MIRCNT_COUNT, .rc)] },
  { base := 0x500ec, s1 := 0x0, n1 := 1, s2 := 0x0, n2 := 1, fields := fun _ _ => [(Reg.SWC_MIRDROP_COUNT, .rc)] },
  { base := 0x50100, s1 := 0x0, n1 := 1, s2 := 0x0, n2 := 1, fields := fun _ _ => [(Reg.SWC_PLANCFG_M, .rw), (Reg.SWC_PLANCFG_K, .rw)] },
  { base := 0x50104, s1 := 0x0, n1 := 1, s2 := 0x0, n2 := 1, fields := fun _ _ => [(Reg.SWC_PLANOFS_NS, .rw)] },
  { base := 0x50108, s1 := 0x0, n1 := 1, s2 := 0x0, n2 := 1, fields := fun _ _ => [(Reg.SWC_PLANCRC_CRC, .rw)] },
  { base := 0x5010c, s1 := 0x0, n1 := 1, s2 := 0x0, n2 := 1, fields := fun _ _ => [(Reg.SWC_PLANACT_CYCLE, .rw)] },
  { base := 0x50110, s1 := 0x0, n1 := 1, s2 := 0x0, n2 := 1, fields := fun _ _ => [(Reg.SWC_PLANCMD_ADMIT, .wo)] },
  { base := 0x50114, s1 := 0x0, n1 := 1, s2 := 0x0, n2 := 1, fields := fun _ _ => [(Reg.SWC_CYASTAT_STATE, .ro), (Reg.SWC_CYASTAT_REFUSE, .ro)] },
  { base := 0x50118, s1 := 0x0, n1 := 1, s2 := 0x0, n2 := 1, fields := fun _ _ => [(Reg.SWC_APLANCRC_CRC, .ro)] },
  { base := 0x5011c, s1 := 0x0, n1 := 1, s2 := 0x0, n2 := 1, fields := fun _ _ => [(Reg.SWC_CYALOAD_BYTES, .ro)] },
  { base := 0x50120, s1 := 0x0, n1 := 1, s2 := 0x0, n2 := 1, fields := fun _ _ => [(Reg.SWC_CYABUDGET_BYTES, .ro)] },
  { base := 0x50124, s1 := 0x0, n1 := 1, s2 := 0x0, n2 := 1, fields := fun _ _ => [(Reg.SWC_CYASPAN_NS, .ro)] },
  { base := 0x50128, s1 := 0x0, n1 := 1, s2 := 0x0, n2 := 1, fields := fun _ _ => [(Reg.SWC_CYCRSV_RSV, .ro)] },
  { base := 0x50130, s1 := 0x0, n1 := 1, s2 := 0x0, n2 := 1, fields := fun _ _ => [(Reg.SWC_LAUNCH_NS, .ro)] },
  { base := 0x50134, s1 := 0x0, n1 := 1, s2 := 0x0, n2 := 1, fields := fun _ _ => [(Reg.SWC_CYCMISM_COUNT, .rc)] },
  { base := 0x50138, s1 := 0x0, n1 := 1, s2 := 0x0, n2 := 1, fields := fun _ _ => [(Reg.SWC_INSTALE_STALE, .rc), (Reg.SWC_INSTALE_NONE, .rc)] },
  { base := 0x50140, s1 := 0x4, n1 := 10, s2 := 0x0, n2 := 1, fields := fun i _ => [(Reg.SWC_RSQLOST_COUNT i, .rc)] },
  { base := 0x50400, s1 := 0x8, n1 := 120, s2 := 0x0, n2 := 1, fields := fun i _ => [(Reg.SWC_PLANI_IN_LEN i, .rw)] },
  { base := 0x50404, s1 := 0x8, n1 := 120, s2 := 0x0, n2 := 1, fields := fun i _ => [(Reg.SWC_PLANO_OUT_LEN i, .rw), (Reg.SWC_PLANO_OUT_SRC i, .rw)] },
  { base := 0x50800, s1 := 0x8, n1 := 120, s2 := 0x0, n2 := 1, fields := fun i _ => [(Reg.SWC_APLANI_IN_LEN i, .ro)] },
  { base := 0x50804, s1 := 0x8, n1 := 120, s2 := 0x0, n2 := 1, fields := fun i _ => [(Reg.SWC_APLANO_OUT_LEN i, .ro), (Reg.SWC_APLANO_OUT_SRC i, .ro)] },
  { base := 0x51000, s1 := 0x40, n1 := 80, s2 := 0x0, n2 := 1, fields := fun i _ => [(Reg.SWC_QCFG_MIN i, .rw), (Reg.SWC_QCFG_WEIGHT i, .rw), (Reg.SWC_QCFG_MAX i, .rw)] },
  { base := 0x51004, s1 := 0x40, n1 := 80, s2 := 0x0, n2 := 1, fields := fun i _ => [(Reg.SWC_QWM_HWM i, .rw), (Reg.SWC_QWM_HOLDOFF i, .rw)] },
  { base := 0x51008, s1 := 0x40, n1 := 80, s2 := 0x0, n2 := 1, fields := fun i _ => [(Reg.SWC_QSTAT_DEPTH i, .ro), (Reg.SWC_QSTAT_STATE i, .ro)] },
  { base := 0x5100c, s1 := 0x40, n1 := 80, s2 := 0x0, n2 := 1, fields := fun i _ => [(Reg.SWC_QXING_COUNT i, .rc)] },
  { base := 0x51010, s1 := 0x40, n1 := 80, s2 := 0x0, n2 := 1, fields := fun i _ => [(Reg.SWC_QPEAK_PEAK i, .rc)] },
  { base := 0x51014, s1 := 0x40, n1 := 80, s2 := 0x0, n2 := 1, fields := fun i _ => [(Reg.SWC_QEVT_WM i, .w1c)] },
  { base := 0x51018, s1 := 0x40, n1 := 80, s2 := 0x0, n2 := 1, fields := fun i _ => [(Reg.SWC_QDROP_COUNT i, .rc)] },
  { base := 0x5101c, s1 := 0x40, n1 := 80, s2 := 0x0, n2 := 1, fields := fun i _ => [(Reg.SWC_QFLUSH_COUNT i, .rc)] },
  { base := 0x51020, s1 := 0x40, n1 := 80, s2 := 0x0, n2 := 1, fields := fun i _ => [(Reg.SWC_QRESID_COUNT i, .rc)] },
  { base := 0x51024, s1 := 0x40, n1 := 80, s2 := 0x0, n2 := 1, fields := fun i _ => [(Reg.SWC_QSTALE_COUNT i, .rc)] },
  { base := 0x51028, s1 := 0x40, n1 := 80, s2 := 0x0, n2 := 1, fields := fun i _ => [(Reg.SWC_QDOWNDROP_COUNT i, .rc)] },
  { base := 0x5102c, s1 := 0x40, n1 := 80, s2 := 0x0, n2 := 1, fields := fun i _ => [(Reg.SWC_QTXFRM_COUNT i, .rc)] },
  { base := 0x5ff00, s1 := 0x0, n1 := 1, s2 := 0x0, n2 := 1, fields := fun _ _ => [(Reg.SWC_BLKID_NUM, .ro), (Reg.SWC_BLKID_REV, .ro)] },
  { base := 0x5ff04, s1 := 0x0, n1 := 1, s2 := 0x0, n2 := 1, fields := fun _ _ => [(Reg.SWC_LOCK_SET, .rwl)] },
  { base := 0x5ff08, s1 := 0x0, n1 := 1, s2 := 0x0, n2 := 1, fields := fun _ _ => [(Reg.SWC_SCRATCH_VALUE, .rw)] }]

/-! ### BRG (R55, R228) -/

def Reg.BRG_CFG_RD_US : Fld := ⟨0x80000, 0, 12, 0x1f4⟩
def Reg.BRG_CFG_BAR4_US : Fld := ⟨0x80000, 12, 12, 0x1f4⟩
def Reg.BRG_RCFG_RETRIES : Fld := ⟨0x80004, 0, 5, 0x10⟩
def Reg.BRG_RCFG_PW_US : Fld := ⟨0x80004, 16, 16, 0x3e8⟩
def Reg.BRG_ACKCFG_ACK_US : Fld := ⟨0x80008, 0, 8, 4⟩
def Reg.BRG_STATUS_VEP_REFUSED : Fld := ⟨0x8000c, 0, 1, 0⟩
def Reg.BRG_STATUS_PW_FULL : Fld := ⟨0x8000c, 1, 1, 0⟩
def Reg.BRG_STATUS_ORD_FULL : Fld := ⟨0x8000c, 2, 1, 0⟩
def Reg.BRG_PWOUT_COUNT : Fld := ⟨0x80010, 0, 10, 0⟩
def Reg.BRG_NPOUT_COUNT : Fld := ⟨0x80014, 0, 10, 0⟩
def Reg.BRG_RETRYRX_COUNT : Fld := ⟨0x80020, 0, 32, 0⟩
def Reg.BRG_RETRYTX_COUNT : Fld := ⟨0x80024, 0, 32, 0⟩
def Reg.BRG_TMO_COUNT : Fld := ⟨0x80028, 0, 32, 0⟩
def Reg.BRG_LATERSP_COUNT : Fld := ⟨0x8002c, 0, 32, 0⟩
def Reg.BRG_DUPREQ_COUNT : Fld := ⟨0x80030, 0, 32, 0⟩
def Reg.BRG_PWFAIL_COUNT : Fld := ⟨0x80034, 0, 32, 0⟩
def Reg.BRG_NEARERR_COUNT : Fld := ⟨0x80038, 0, 32, 0⟩
def Reg.BRG_BCAST_COUNT : Fld := ⟨0x8003c, 0, 32, 0⟩
def Reg.BRG_WIN_EN (i : Nat) : Fld := ⟨0x81000 + 4 * i, 31, 1, 0⟩
def Reg.BRG_WIN_SWAP (i : Nat) : Fld := ⟨0x81000 + 4 * i, 30, 1, 0⟩
def Reg.BRG_WIN_WACK (i : Nat) : Fld := ⟨0x81000 + 4 * i, 29, 1, 0⟩
def Reg.BRG_WIN_WR_EN (i : Nat) : Fld := ⟨0x81000 + 4 * i, 28, 1, 0⟩
def Reg.BRG_WIN_RD_EN (i : Nat) : Fld := ⟨0x81000 + 4 * i, 27, 1, 0⟩
def Reg.BRG_WIN_HUB (i : Nat) : Fld := ⟨0x81000 + 4 * i, 20, 7, 0⟩
def Reg.BRG_WIN_EP (i : Nat) : Fld := ⟨0x81000 + 4 * i, 10, 10, 0⟩
def Reg.BRG_WIN_OFFS (i : Nat) : Fld := ⟨0x81000 + 4 * i, 0, 5, 0⟩
def Reg.BRG_VEP_EN (i : Nat) : Fld := ⟨0x82000 + 4 * i, 31, 1, 0⟩
def Reg.BRG_VEP_KIND (i : Nat) : Fld := ⟨0x82000 + 4 * i, 28, 3, 0⟩
def Reg.BRG_VEP_TARGET (i : Nat) : Fld := ⟨0x82000 + 4 * i, 14, 10, 0⟩
def Reg.BRG_VEP_SEL (i : Nat) : Fld := ⟨0x82000 + 4 * i, 0, 7, 0⟩
def Reg.BRG_BLKID_NUM : Fld := ⟨0x8ff00, 24, 8, 8⟩
def Reg.BRG_BLKID_REV : Fld := ⟨0x8ff00, 0, 16, Config.blockRev⟩
def Reg.BRG_LOCK_SET : Fld := ⟨0x8ff04, 0, 1, 0⟩
def Reg.BRG_SCRATCH_VALUE : Fld := ⟨0x8ff08, 0, 32, 0⟩

/-- The registers of block BRG. -/
def rowsBRG : List RegRow := [  { base := 0x80000, s1 := 0x0, n1 := 1, s2 := 0x0, n2 := 1, fields := fun _ _ => [(Reg.BRG_CFG_RD_US, .rw), (Reg.BRG_CFG_BAR4_US, .rw)] },
  { base := 0x80004, s1 := 0x0, n1 := 1, s2 := 0x0, n2 := 1, fields := fun _ _ => [(Reg.BRG_RCFG_RETRIES, .rw), (Reg.BRG_RCFG_PW_US, .rw)] },
  { base := 0x80008, s1 := 0x0, n1 := 1, s2 := 0x0, n2 := 1, fields := fun _ _ => [(Reg.BRG_ACKCFG_ACK_US, .rw)] },
  { base := 0x8000c, s1 := 0x0, n1 := 1, s2 := 0x0, n2 := 1, fields := fun _ _ => [(Reg.BRG_STATUS_VEP_REFUSED, .w1c), (Reg.BRG_STATUS_PW_FULL, .ro), (Reg.BRG_STATUS_ORD_FULL, .ro)] },
  { base := 0x80010, s1 := 0x0, n1 := 1, s2 := 0x0, n2 := 1, fields := fun _ _ => [(Reg.BRG_PWOUT_COUNT, .ro)] },
  { base := 0x80014, s1 := 0x0, n1 := 1, s2 := 0x0, n2 := 1, fields := fun _ _ => [(Reg.BRG_NPOUT_COUNT, .ro)] },
  { base := 0x80020, s1 := 0x0, n1 := 1, s2 := 0x0, n2 := 1, fields := fun _ _ => [(Reg.BRG_RETRYRX_COUNT, .rc)] },
  { base := 0x80024, s1 := 0x0, n1 := 1, s2 := 0x0, n2 := 1, fields := fun _ _ => [(Reg.BRG_RETRYTX_COUNT, .rc)] },
  { base := 0x80028, s1 := 0x0, n1 := 1, s2 := 0x0, n2 := 1, fields := fun _ _ => [(Reg.BRG_TMO_COUNT, .rc)] },
  { base := 0x8002c, s1 := 0x0, n1 := 1, s2 := 0x0, n2 := 1, fields := fun _ _ => [(Reg.BRG_LATERSP_COUNT, .rc)] },
  { base := 0x80030, s1 := 0x0, n1 := 1, s2 := 0x0, n2 := 1, fields := fun _ _ => [(Reg.BRG_DUPREQ_COUNT, .rc)] },
  { base := 0x80034, s1 := 0x0, n1 := 1, s2 := 0x0, n2 := 1, fields := fun _ _ => [(Reg.BRG_PWFAIL_COUNT, .rc)] },
  { base := 0x80038, s1 := 0x0, n1 := 1, s2 := 0x0, n2 := 1, fields := fun _ _ => [(Reg.BRG_NEARERR_COUNT, .rc)] },
  { base := 0x8003c, s1 := 0x0, n1 := 1, s2 := 0x0, n2 := 1, fields := fun _ _ => [(Reg.BRG_BCAST_COUNT, .rc)] },
  { base := 0x81000, s1 := 0x4, n1 := 256, s2 := 0x0, n2 := 1, fields := fun i _ => [(Reg.BRG_WIN_EN i, .rw), (Reg.BRG_WIN_SWAP i, .rw), (Reg.BRG_WIN_WACK i, .rw), (Reg.BRG_WIN_WR_EN i, .rw), (Reg.BRG_WIN_RD_EN i, .rw), (Reg.BRG_WIN_HUB i, .rw), (Reg.BRG_WIN_EP i, .rw), (Reg.BRG_WIN_OFFS i, .rw)] },
  { base := 0x82000, s1 := 0x4, n1 := 592, s2 := 0x0, n2 := 1, fields := fun i _ => [(Reg.BRG_VEP_EN i, .rw), (Reg.BRG_VEP_KIND i, .rw), (Reg.BRG_VEP_TARGET i, .rw), (Reg.BRG_VEP_SEL i, .rw)] },
  { base := 0x8ff00, s1 := 0x0, n1 := 1, s2 := 0x0, n2 := 1, fields := fun _ _ => [(Reg.BRG_BLKID_NUM, .ro), (Reg.BRG_BLKID_REV, .ro)] },
  { base := 0x8ff04, s1 := 0x0, n1 := 1, s2 := 0x0, n2 := 1, fields := fun _ _ => [(Reg.BRG_LOCK_SET, .rwl)] },
  { base := 0x8ff08, s1 := 0x0, n1 := 1, s2 := 0x0, n2 := 1, fields := fun _ _ => [(Reg.BRG_SCRATCH_VALUE, .rw)] }]

/-! ### BAR (R55, R229, R339) -/

def Reg.BAR_CFG_RSP_US : Fld := ⟨0xe0000, 0, 10, 0x14⟩
def Reg.BAR_STAT_UP : Fld := ⟨0xe0004, 0, 1, 0⟩
def Reg.BAR_STAT_CH_LOCK : Fld := ⟨0xe0004, 1, 8, 0⟩
def Reg.BAR_EVT_LOST : Fld := ⟨0xe0008, 0, 1, 0⟩
def Reg.BAR_EVT_UP : Fld := ⟨0xe0008, 1, 1, 0⟩
def Reg.BAR_EVT_UNDEF : Fld := ⟨0xe0008, 2, 1, 0⟩
def Reg.BAR_EVT_BACKOFF : Fld := ⟨0xe0008, 3, 1, 0⟩
def Reg.BAR_TXMSG_COUNT : Fld := ⟨0xe0010, 0, 32, 0⟩
def Reg.BAR_RXMSG_COUNT : Fld := ⟨0xe0014, 0, 32, 0⟩
def Reg.BAR_RXUNDEF_COUNT : Fld := ⟨0xe0018, 0, 32, 0⟩
def Reg.BAR_RXBAD_COUNT : Fld := ⟨0xe001c, 0, 32, 0⟩
def Reg.BAR_BACKOFF_COUNT : Fld := ⟨0xe0020, 0, 32, 0⟩
def Reg.BAR_TMO_COUNT : Fld := ⟨0xe0024, 0, 32, 0⟩
def Reg.BAR_LOSTCNT_COUNT : Fld := ⟨0xe0028, 0, 16, 0⟩
def Reg.BAR_CMD_FWAKE : Fld := ⟨0xe0030, 0, 1, 0⟩
def Reg.BAR_FSTAT_ASLEEP : Fld := ⟨0xe0034, 0, 1, 0⟩
def Reg.BAR_BLKID_NUM : Fld := ⟨0xeff00, 24, 8, 0xe⟩
def Reg.BAR_BLKID_REV : Fld := ⟨0xeff00, 0, 16, Config.blockRev⟩
def Reg.BAR_LOCK_SET : Fld := ⟨0xeff04, 0, 1, 0⟩
def Reg.BAR_SCRATCH_VALUE : Fld := ⟨0xeff08, 0, 32, 0⟩

/-- The registers of block BAR. -/
def rowsBAR : List RegRow := [  { base := 0xe0000, s1 := 0x0, n1 := 1, s2 := 0x0, n2 := 1, fields := fun _ _ => [(Reg.BAR_CFG_RSP_US, .rw)] },
  { base := 0xe0004, s1 := 0x0, n1 := 1, s2 := 0x0, n2 := 1, fields := fun _ _ => [(Reg.BAR_STAT_UP, .ro), (Reg.BAR_STAT_CH_LOCK, .ro)] },
  { base := 0xe0008, s1 := 0x0, n1 := 1, s2 := 0x0, n2 := 1, fields := fun _ _ => [(Reg.BAR_EVT_LOST, .w1c), (Reg.BAR_EVT_UP, .w1c), (Reg.BAR_EVT_UNDEF, .w1c), (Reg.BAR_EVT_BACKOFF, .w1c)] },
  { base := 0xe0010, s1 := 0x0, n1 := 1, s2 := 0x0, n2 := 1, fields := fun _ _ => [(Reg.BAR_TXMSG_COUNT, .rc)] },
  { base := 0xe0014, s1 := 0x0, n1 := 1, s2 := 0x0, n2 := 1, fields := fun _ _ => [(Reg.BAR_RXMSG_COUNT, .rc)] },
  { base := 0xe0018, s1 := 0x0, n1 := 1, s2 := 0x0, n2 := 1, fields := fun _ _ => [(Reg.BAR_RXUNDEF_COUNT, .rc)] },
  { base := 0xe001c, s1 := 0x0, n1 := 1, s2 := 0x0, n2 := 1, fields := fun _ _ => [(Reg.BAR_RXBAD_COUNT, .rc)] },
  { base := 0xe0020, s1 := 0x0, n1 := 1, s2 := 0x0, n2 := 1, fields := fun _ _ => [(Reg.BAR_BACKOFF_COUNT, .rc)] },
  { base := 0xe0024, s1 := 0x0, n1 := 1, s2 := 0x0, n2 := 1, fields := fun _ _ => [(Reg.BAR_TMO_COUNT, .rc)] },
  { base := 0xe0028, s1 := 0x0, n1 := 1, s2 := 0x0, n2 := 1, fields := fun _ _ => [(Reg.BAR_LOSTCNT_COUNT, .rc)] },
  { base := 0xe0030, s1 := 0x0, n1 := 1, s2 := 0x0, n2 := 1, fields := fun _ _ => [(Reg.BAR_CMD_FWAKE, .wo)] },
  { base := 0xe0034, s1 := 0x0, n1 := 1, s2 := 0x0, n2 := 1, fields := fun _ _ => [(Reg.BAR_FSTAT_ASLEEP, .ro)] },
  { base := 0xeff00, s1 := 0x0, n1 := 1, s2 := 0x0, n2 := 1, fields := fun _ _ => [(Reg.BAR_BLKID_NUM, .ro), (Reg.BAR_BLKID_REV, .ro)] },
  { base := 0xeff04, s1 := 0x0, n1 := 1, s2 := 0x0, n2 := 1, fields := fun _ _ => [(Reg.BAR_LOCK_SET, .rwl)] },
  { base := 0xeff08, s1 := 0x0, n1 := 1, s2 := 0x0, n2 := 1, fields := fun _ _ => [(Reg.BAR_SCRATCH_VALUE, .rw)] }]

/-! ### TIM (R55, R248) -/

def Reg.TIM_NOWFR_FRAC : Fld := ⟨0x70000, 0, 16, 0⟩
def Reg.TIM_NOWNS_NS : Fld := ⟨0x70004, 0, 30, 0⟩
def Reg.TIM_NOWSL_SEC : Fld := ⟨0x70008, 0, 32, 0⟩
def Reg.TIM_NOWSH_SEC : Fld := ⟨0x7000c, 0, 16, 0⟩
def Reg.TIM_INCFR_FRAC : Fld := ⟨0x70010, 0, 32, 0⟩
def Reg.TIM_INCINT_INT : Fld := ⟨0x70014, 0, 8, 2⟩
def Reg.TIM_JUMP_NS : Fld := ⟨0x70018, 0, 20, 0x3e8⟩
def Reg.TIM_STEPNS_NS : Fld := ⟨0x70020, 0, 32, 0⟩
def Reg.TIM_STEPFR_FRAC : Fld := ⟨0x70024, 0, 16, 0⟩
def Reg.TIM_SETNS_NS : Fld := ⟨0x70028, 0, 30, 0⟩
def Reg.TIM_SETSL_SEC : Fld := ⟨0x7002c, 0, 32, 0⟩
def Reg.TIM_SETSH_SEC : Fld := ⟨0x70030, 0, 16, 0⟩
def Reg.TIM_CMD_STEP : Fld := ⟨0x70034, 0, 1, 0⟩
def Reg.TIM_CMD_SET : Fld := ⟨0x70034, 1, 1, 0⟩
def Reg.TIM_CMD_FORCE : Fld := ⟨0x70034, 2, 1, 0⟩
def Reg.TIM_EVT_JUMP_REFUSED : Fld := ⟨0x70038, 0, 1, 0⟩
def Reg.TIM_EVT_STEPPED : Fld := ⟨0x70038, 1, 1, 0⟩
def Reg.TIM_EVT_INC_REFUSED : Fld := ⟨0x70038, 2, 1, 0⟩
def Reg.TIM_EVT_CFG_REFUSED : Fld := ⟨0x70038, 3, 1, 0⟩
def Reg.TIM_EVT_OFFS_NEW : Fld := ⟨0x70038, 4, 1, 0⟩
def Reg.TIM_EVT_CYCSKIP : Fld := ⟨0x70038, 5, 1, 0⟩
def Reg.TIM_CYCLE_NS : Fld := ⟨0x70040, 0, 23, 0⟩
def Reg.TIM_CYCLE_EN : Fld := ⟨0x70040, 31, 1, 0⟩
def Reg.TIM_EPNS_NS : Fld := ⟨0x70044, 0, 30, 0⟩
def Reg.TIM_EPSL_SEC : Fld := ⟨0x70048, 0, 32, 0⟩
def Reg.TIM_EPSH_SEC : Fld := ⟨0x7004c, 0, 16, 0⟩
def Reg.TIM_CYCNUM_N : Fld := ⟨0x70050, 0, 32, 0⟩
def Reg.TIM_CYCSKIP_COUNT : Fld := ⟨0x70054, 0, 32, 0⟩
def Reg.TIM_GUARD_NS : Fld := ⟨0x70060, 0, 16, 0x640⟩
def Reg.TIM_GUARD_EN : Fld := ⟨0x70060, 16, 1, 1⟩
def Reg.TIM_SYNCLATE_COUNT : Fld := ⟨0x70064, 0, 32, 0⟩
def Reg.TIM_LAUNCHJMP_COUNT : Fld := ⟨0x70068, 0, 32, 0⟩
def Reg.TIM_LAUNCHSLIP_COUNT : Fld := ⟨0x7006c, 0, 32, 0⟩
def Reg.TIM_OFFS_OFFS : Fld := ⟨0x70080, 0, 32, 0⟩
def Reg.TIM_OFFSTAT_VALID : Fld := ⟨0x70084, 0, 1, 0⟩
def Reg.TIM_OFFSTAT_SINGLE : Fld := ⟨0x70084, 1, 1, 0⟩
def Reg.TIM_OFFSTAT_LEAD : Fld := ⟨0x70084, 2, 1, 0⟩
def Reg.TIM_OFFSTAT_PDAV : Fld := ⟨0x70084, 3, 1, 0⟩
def Reg.TIM_OFFSTAT_PDBV : Fld := ⟨0x70084, 4, 1, 0⟩
def Reg.TIM_OFFSTAT_CYC : Fld := ⟨0x70084, 16, 16, 0⟩
def Reg.TIM_PDA_PD : Fld := ⟨0x70088, 0, 32, 0⟩
def Reg.TIM_PDB_PD : Fld := ⟨0x7008c, 0, 32, 0⟩
def Reg.TIM_RES_RES : Fld := ⟨0x70090, 0, 32, 0⟩
def Reg.TIM_LOOP_LOOP : Fld := ⟨0x70094, 0, 32, 0⟩
def Reg.TIM_PCORR_ING_BRD (i : Nat) : Fld := ⟨0x70100 + 4 * i, 0, 16, 0⟩
def Reg.TIM_PCORR_EGR_BRD (i : Nat) : Fld := ⟨0x70100 + 4 * i, 16, 16, 0⟩
def Reg.TIM_PTPCFG_EN (i : Nat) : Fld := ⟨0x70200 + 0x40 * i, 0, 1, 0⟩
def Reg.TIM_PTPCFG_ETH (i : Nat) : Fld := ⟨0x70200 + 0x40 * i, 1, 1, 1⟩
def Reg.TIM_PTPCFG_UDP4 (i : Nat) : Fld := ⟨0x70200 + 0x40 * i, 2, 1, 1⟩
def Reg.TIM_PTPCFG_TYPES (i : Nat) : Fld := ⟨0x70200 + 0x40 * i, 4, 4, 0xf⟩
def Reg.TIM_PTPSTAT_RXN (i : Nat) : Fld := ⟨0x70204 + 0x40 * i, 0, 5, 0⟩
def Reg.TIM_PTPSTAT_TXN (i : Nat) : Fld := ⟨0x70204 + 0x40 * i, 8, 5, 0⟩
def Reg.TIM_PTPSTAT_RXOVF (i : Nat) : Fld := ⟨0x70204 + 0x40 * i, 16, 1, 0⟩
def Reg.TIM_PTPSTAT_TXOVF (i : Nat) : Fld := ⟨0x70204 + 0x40 * i, 17, 1, 0⟩
def Reg.TIM_PTPRXID_ENTRY (i : Nat) : Fld := ⟨0x70210 + 0x40 * i, 0, 32, 0⟩
def Reg.TIM_PTPRXNS_ENTRY (i : Nat) : Fld := ⟨0x70214 + 0x40 * i, 0, 32, 0⟩
def Reg.TIM_PTPRXSL_ENTRY (i : Nat) : Fld := ⟨0x70218 + 0x40 * i, 0, 32, 0⟩
def Reg.TIM_PTPRXSH_ENTRY (i : Nat) : Fld := ⟨0x7021c + 0x40 * i, 0, 32, 0⟩
def Reg.TIM_PTPTXID_ENTRY (i : Nat) : Fld := ⟨0x70220 + 0x40 * i, 0, 32, 0⟩
def Reg.TIM_PTPTXNS_ENTRY (i : Nat) : Fld := ⟨0x70224 + 0x40 * i, 0, 32, 0⟩
def Reg.TIM_PTPTXSL_ENTRY (i : Nat) : Fld := ⟨0x70228 + 0x40 * i, 0, 32, 0⟩
def Reg.TIM_PTPTXSH_ENTRY (i : Nat) : Fld := ⟨0x7022c + 0x40 * i, 0, 32, 0⟩
def Reg.TIM_BLKID_NUM : Fld := ⟨0x7ff00, 24, 8, 7⟩
def Reg.TIM_BLKID_REV : Fld := ⟨0x7ff00, 0, 16, Config.blockRev⟩
def Reg.TIM_LOCK_SET : Fld := ⟨0x7ff04, 0, 1, 0⟩
def Reg.TIM_SCRATCH_VALUE : Fld := ⟨0x7ff08, 0, 32, 0⟩

/-- The registers of block TIM. -/
def rowsTIM : List RegRow := [  { base := 0x70000, s1 := 0x0, n1 := 1, s2 := 0x0, n2 := 1, fields := fun _ _ => [(Reg.TIM_NOWFR_FRAC, .ro)] },
  { base := 0x70004, s1 := 0x0, n1 := 1, s2 := 0x0, n2 := 1, fields := fun _ _ => [(Reg.TIM_NOWNS_NS, .ro)] },
  { base := 0x70008, s1 := 0x0, n1 := 1, s2 := 0x0, n2 := 1, fields := fun _ _ => [(Reg.TIM_NOWSL_SEC, .ro)] },
  { base := 0x7000c, s1 := 0x0, n1 := 1, s2 := 0x0, n2 := 1, fields := fun _ _ => [(Reg.TIM_NOWSH_SEC, .ro)] },
  { base := 0x70010, s1 := 0x0, n1 := 1, s2 := 0x0, n2 := 1, fields := fun _ _ => [(Reg.TIM_INCFR_FRAC, .rw)] },
  { base := 0x70014, s1 := 0x0, n1 := 1, s2 := 0x0, n2 := 1, fields := fun _ _ => [(Reg.TIM_INCINT_INT, .rw)] },
  { base := 0x70018, s1 := 0x0, n1 := 1, s2 := 0x0, n2 := 1, fields := fun _ _ => [(Reg.TIM_JUMP_NS, .rw)] },
  { base := 0x70020, s1 := 0x0, n1 := 1, s2 := 0x0, n2 := 1, fields := fun _ _ => [(Reg.TIM_STEPNS_NS, .rw)] },
  { base := 0x70024, s1 := 0x0, n1 := 1, s2 := 0x0, n2 := 1, fields := fun _ _ => [(Reg.TIM_STEPFR_FRAC, .rw)] },
  { base := 0x70028, s1 := 0x0, n1 := 1, s2 := 0x0, n2 := 1, fields := fun _ _ => [(Reg.TIM_SETNS_NS, .rw)] },
  { base := 0x7002c, s1 := 0x0, n1 := 1, s2 := 0x0, n2 := 1, fields := fun _ _ => [(Reg.TIM_SETSL_SEC, .rw)] },
  { base := 0x70030, s1 := 0x0, n1 := 1, s2 := 0x0, n2 := 1, fields := fun _ _ => [(Reg.TIM_SETSH_SEC, .rw)] },
  { base := 0x70034, s1 := 0x0, n1 := 1, s2 := 0x0, n2 := 1, fields := fun _ _ => [(Reg.TIM_CMD_STEP, .wo), (Reg.TIM_CMD_SET, .wo), (Reg.TIM_CMD_FORCE, .wo)] },
  { base := 0x70038, s1 := 0x0, n1 := 1, s2 := 0x0, n2 := 1, fields := fun _ _ => [(Reg.TIM_EVT_JUMP_REFUSED, .w1c), (Reg.TIM_EVT_STEPPED, .w1c), (Reg.TIM_EVT_INC_REFUSED, .w1c), (Reg.TIM_EVT_CFG_REFUSED, .w1c), (Reg.TIM_EVT_OFFS_NEW, .w1c), (Reg.TIM_EVT_CYCSKIP, .w1c)] },
  { base := 0x70040, s1 := 0x0, n1 := 1, s2 := 0x0, n2 := 1, fields := fun _ _ => [(Reg.TIM_CYCLE_NS, .rw), (Reg.TIM_CYCLE_EN, .rw)] },
  { base := 0x70044, s1 := 0x0, n1 := 1, s2 := 0x0, n2 := 1, fields := fun _ _ => [(Reg.TIM_EPNS_NS, .rw)] },
  { base := 0x70048, s1 := 0x0, n1 := 1, s2 := 0x0, n2 := 1, fields := fun _ _ => [(Reg.TIM_EPSL_SEC, .rw)] },
  { base := 0x7004c, s1 := 0x0, n1 := 1, s2 := 0x0, n2 := 1, fields := fun _ _ => [(Reg.TIM_EPSH_SEC, .rw)] },
  { base := 0x70050, s1 := 0x0, n1 := 1, s2 := 0x0, n2 := 1, fields := fun _ _ => [(Reg.TIM_CYCNUM_N, .ro)] },
  { base := 0x70054, s1 := 0x0, n1 := 1, s2 := 0x0, n2 := 1, fields := fun _ _ => [(Reg.TIM_CYCSKIP_COUNT, .rc)] },
  { base := 0x70060, s1 := 0x0, n1 := 1, s2 := 0x0, n2 := 1, fields := fun _ _ => [(Reg.TIM_GUARD_NS, .rw), (Reg.TIM_GUARD_EN, .rw)] },
  { base := 0x70064, s1 := 0x0, n1 := 1, s2 := 0x0, n2 := 1, fields := fun _ _ => [(Reg.TIM_SYNCLATE_COUNT, .rc)] },
  { base := 0x70068, s1 := 0x0, n1 := 1, s2 := 0x0, n2 := 1, fields := fun _ _ => [(Reg.TIM_LAUNCHJMP_COUNT, .rc)] },
  { base := 0x7006c, s1 := 0x0, n1 := 1, s2 := 0x0, n2 := 1, fields := fun _ _ => [(Reg.TIM_LAUNCHSLIP_COUNT, .rc)] },
  { base := 0x70080, s1 := 0x0, n1 := 1, s2 := 0x0, n2 := 1, fields := fun _ _ => [(Reg.TIM_OFFS_OFFS, .ro)] },
  { base := 0x70084, s1 := 0x0, n1 := 1, s2 := 0x0, n2 := 1, fields := fun _ _ => [(Reg.TIM_OFFSTAT_VALID, .ro), (Reg.TIM_OFFSTAT_SINGLE, .ro), (Reg.TIM_OFFSTAT_LEAD, .ro), (Reg.TIM_OFFSTAT_PDAV, .ro), (Reg.TIM_OFFSTAT_PDBV, .ro), (Reg.TIM_OFFSTAT_CYC, .ro)] },
  { base := 0x70088, s1 := 0x0, n1 := 1, s2 := 0x0, n2 := 1, fields := fun _ _ => [(Reg.TIM_PDA_PD, .ro)] },
  { base := 0x7008c, s1 := 0x0, n1 := 1, s2 := 0x0, n2 := 1, fields := fun _ _ => [(Reg.TIM_PDB_PD, .ro)] },
  { base := 0x70090, s1 := 0x0, n1 := 1, s2 := 0x0, n2 := 1, fields := fun _ _ => [(Reg.TIM_RES_RES, .ro)] },
  { base := 0x70094, s1 := 0x0, n1 := 1, s2 := 0x0, n2 := 1, fields := fun _ _ => [(Reg.TIM_LOOP_LOOP, .ro)] },
  { base := 0x70100, s1 := 0x4, n1 := 6, s2 := 0x0, n2 := 1, fields := fun i _ => [(Reg.TIM_PCORR_ING_BRD i, .rw), (Reg.TIM_PCORR_EGR_BRD i, .rw)] },
  { base := 0x70200, s1 := 0x40, n1 := 4, s2 := 0x0, n2 := 1, fields := fun i _ => [(Reg.TIM_PTPCFG_EN i, .rw), (Reg.TIM_PTPCFG_ETH i, .rw), (Reg.TIM_PTPCFG_UDP4 i, .rw), (Reg.TIM_PTPCFG_TYPES i, .rw)] },
  { base := 0x70204, s1 := 0x40, n1 := 4, s2 := 0x0, n2 := 1, fields := fun i _ => [(Reg.TIM_PTPSTAT_RXN i, .ro), (Reg.TIM_PTPSTAT_TXN i, .ro), (Reg.TIM_PTPSTAT_RXOVF i, .w1c), (Reg.TIM_PTPSTAT_TXOVF i, .w1c)] },
  { base := 0x70210, s1 := 0x40, n1 := 4, s2 := 0x0, n2 := 1, fields := fun i _ => [(Reg.TIM_PTPRXID_ENTRY i, .ro)] },
  { base := 0x70214, s1 := 0x40, n1 := 4, s2 := 0x0, n2 := 1, fields := fun i _ => [(Reg.TIM_PTPRXNS_ENTRY i, .ro)] },
  { base := 0x70218, s1 := 0x40, n1 := 4, s2 := 0x0, n2 := 1, fields := fun i _ => [(Reg.TIM_PTPRXSL_ENTRY i, .ro)] },
  { base := 0x7021c, s1 := 0x40, n1 := 4, s2 := 0x0, n2 := 1, fields := fun i _ => [(Reg.TIM_PTPRXSH_ENTRY i, .ro)] },
  { base := 0x70220, s1 := 0x40, n1 := 4, s2 := 0x0, n2 := 1, fields := fun i _ => [(Reg.TIM_PTPTXID_ENTRY i, .ro)] },
  { base := 0x70224, s1 := 0x40, n1 := 4, s2 := 0x0, n2 := 1, fields := fun i _ => [(Reg.TIM_PTPTXNS_ENTRY i, .ro)] },
  { base := 0x70228, s1 := 0x40, n1 := 4, s2 := 0x0, n2 := 1, fields := fun i _ => [(Reg.TIM_PTPTXSL_ENTRY i, .ro)] },
  { base := 0x7022c, s1 := 0x40, n1 := 4, s2 := 0x0, n2 := 1, fields := fun i _ => [(Reg.TIM_PTPTXSH_ENTRY i, .ro)] },
  { base := 0x7ff00, s1 := 0x0, n1 := 1, s2 := 0x0, n2 := 1, fields := fun _ _ => [(Reg.TIM_BLKID_NUM, .ro), (Reg.TIM_BLKID_REV, .ro)] },
  { base := 0x7ff04, s1 := 0x0, n1 := 1, s2 := 0x0, n2 := 1, fields := fun _ _ => [(Reg.TIM_LOCK_SET, .rwl)] },
  { base := 0x7ff08, s1 := 0x0, n1 := 1, s2 := 0x0, n2 := 1, fields := fun _ _ => [(Reg.TIM_SCRATCH_VALUE, .rw)] }]

/-! ### MEM (R55, R370) -/

def Reg.MEM_CFG_SCRUB_MS : Fld := ⟨0x90000, 0, 16, 0x3e8⟩
def Reg.MEM_CFG_CE_WIN_MS : Fld := ⟨0x90000, 16, 16, 0x2710⟩
def Reg.MEM_EVT_CFG_REFUSED : Fld := ⟨0x90008, 0, 1, 0⟩
def Reg.MEM_EVT_REMAP_FULL : Fld := ⟨0x90008, 1, 1, 0⟩
def Reg.MEM_EVT_UE : Fld := ⟨0x90008, 2, 1, 0⟩
def Reg.MEM_CMD_FLUSH : Fld := ⟨0x9000c, 0, 1, 0⟩
def Reg.MEM_CETOT_COUNT : Fld := ⟨0x90010, 0, 32, 0⟩
def Reg.MEM_UETOT_COUNT : Fld := ⟨0x90014, 0, 32, 0⟩
def Reg.MEM_ICFG_SCRUB_EN (i : Nat) : Fld := ⟨0x91000 + 0x40 * i, 0, 1, 1⟩
def Reg.MEM_ICFG_CE_THR (i : Nat) : Fld := ⟨0x91000 + 0x40 * i, 4, 4, 2⟩
def Reg.MEM_ISTAT_REMAP_USED (i : Nat) : Fld := ⟨0x91004 + 0x40 * i, 0, 4, 0⟩
def Reg.MEM_ISTAT_REMAP_FULL (i : Nat) : Fld := ⟨0x91004 + 0x40 * i, 4, 1, 0⟩
def Reg.MEM_ISTAT_SCRUB_SLOW (i : Nat) : Fld := ⟨0x91004 + 0x40 * i, 5, 1, 0⟩
def Reg.MEM_ISTAT_PRESENT (i : Nat) : Fld := ⟨0x91004 + 0x40 * i, 6, 1, memPresent i⟩
def Reg.MEM_ISTAT_CLASS (i : Nat) : Fld := ⟨0x91004 + 0x40 * i, 7, 1, memClass i⟩
def Reg.MEM_ISTAT_MERGE_USED (i : Nat) : Fld := ⟨0x91004 + 0x40 * i, 8, 4, 0⟩
def Reg.MEM_IEVT_CE (i : Nat) : Fld := ⟨0x91008 + 0x40 * i, 0, 1, 0⟩
def Reg.MEM_IEVT_UE (i : Nat) : Fld := ⟨0x91008 + 0x40 * i, 1, 1, 0⟩
def Reg.MEM_IEVT_HARD (i : Nat) : Fld := ⟨0x91008 + 0x40 * i, 2, 1, 0⟩
def Reg.MEM_IEVT_VOTE (i : Nat) : Fld := ⟨0x91008 + 0x40 * i, 3, 1, 0⟩
def Reg.MEM_IEVT_REMAPPED (i : Nat) : Fld := ⟨0x91008 + 0x40 * i, 4, 1, 0⟩
def Reg.MEM_IEVT_MERGE_UE (i : Nat) : Fld := ⟨0x91008 + 0x40 * i, 5, 1, 0⟩
def Reg.MEM_ICNT_CE (i : Nat) : Fld := ⟨0x9100c + 0x40 * i, 0, 16, 0⟩
def Reg.MEM_ICNT_UE (i : Nat) : Fld := ⟨0x9100c + 0x40 * i, 16, 16, 0⟩
def Reg.MEM_ILAST_ADDR (i : Nat) : Fld := ⟨0x91010 + 0x40 * i, 0, 17, 0⟩
def Reg.MEM_ILAST_UE (i : Nat) : Fld := ⟨0x91010 + 0x40 * i, 24, 1, 0⟩
def Reg.MEM_ILAST_INJ (i : Nat) : Fld := ⟨0x91010 + 0x40 * i, 25, 1, 0⟩
def Reg.MEM_ILAST_VALID (i : Nat) : Fld := ⟨0x91010 + 0x40 * i, 31, 1, 0⟩
def Reg.MEM_ISCRUB_POS (i : Nat) : Fld := ⟨0x91014 + 0x40 * i, 0, 17, 0⟩
def Reg.MEM_ISCRUB_PASSES (i : Nat) : Fld := ⟨0x91014 + 0x40 * i, 20, 12, 0⟩
def Reg.MEM_IINJ_ADDR (i : Nat) : Fld := ⟨0x91018 + 0x40 * i, 0, 17, 0⟩
def Reg.MEM_IINJ_ADDR_EN (i : Nat) : Fld := ⟨0x91018 + 0x40 * i, 17, 1, 0⟩
def Reg.MEM_IINJ_ARM (i : Nat) : Fld := ⟨0x91018 + 0x40 * i, 18, 1, 0⟩
def Reg.MEM_IINJ_REWRITE (i : Nat) : Fld := ⟨0x91018 + 0x40 * i, 19, 1, 0⟩
def Reg.MEM_IINJ_MASK (i : Nat) : Fld := ⟨0x91018 + 0x40 * i, 20, 10, 0⟩
def Reg.MEM_IINJREC_ADDR (i : Nat) : Fld := ⟨0x9101c + 0x40 * i, 0, 17, 0⟩
def Reg.MEM_IINJREC_VALID (i : Nat) : Fld := ⟨0x9101c + 0x40 * i, 31, 1, 0⟩
def Reg.MEM_IRMP_ADDR (i : Nat) (j : Nat) : Fld := ⟨0x91020 + 0x40 * i + 4 * j, 0, 17, 0⟩
def Reg.MEM_IRMP_POISON (i : Nat) (j : Nat) : Fld := ⟨0x91020 + 0x40 * i + 4 * j, 30, 1, 0⟩
def Reg.MEM_IRMP_EN (i : Nat) (j : Nat) : Fld := ⟨0x91020 + 0x40 * i + 4 * j, 31, 1, 0⟩
def Reg.MEM_BLKID_NUM : Fld := ⟨0x9ff00, 24, 8, 9⟩
def Reg.MEM_BLKID_REV : Fld := ⟨0x9ff00, 0, 16, Config.blockRev⟩
def Reg.MEM_LOCK_SET : Fld := ⟨0x9ff04, 0, 1, 0⟩
def Reg.MEM_SCRATCH_VALUE : Fld := ⟨0x9ff08, 0, 32, 0⟩

/-- The registers of block MEM. -/
def rowsMEM : List RegRow := [  { base := 0x90000, s1 := 0x0, n1 := 1, s2 := 0x0, n2 := 1, fields := fun _ _ => [(Reg.MEM_CFG_SCRUB_MS, .rw), (Reg.MEM_CFG_CE_WIN_MS, .rw)] },
  { base := 0x90008, s1 := 0x0, n1 := 1, s2 := 0x0, n2 := 1, fields := fun _ _ => [(Reg.MEM_EVT_CFG_REFUSED, .w1c), (Reg.MEM_EVT_REMAP_FULL, .w1c), (Reg.MEM_EVT_UE, .w1c)] },
  { base := 0x9000c, s1 := 0x0, n1 := 1, s2 := 0x0, n2 := 1, fields := fun _ _ => [(Reg.MEM_CMD_FLUSH, .wo)] },
  { base := 0x90010, s1 := 0x0, n1 := 1, s2 := 0x0, n2 := 1, fields := fun _ _ => [(Reg.MEM_CETOT_COUNT, .rc)] },
  { base := 0x90014, s1 := 0x0, n1 := 1, s2 := 0x0, n2 := 1, fields := fun _ _ => [(Reg.MEM_UETOT_COUNT, .rc)] },
  { base := 0x91000, s1 := 0x40, n1 := 256, s2 := 0x0, n2 := 1, fields := fun i _ => [(Reg.MEM_ICFG_SCRUB_EN i, .rw), (Reg.MEM_ICFG_CE_THR i, .rw)] },
  { base := 0x91004, s1 := 0x40, n1 := 256, s2 := 0x0, n2 := 1, fields := fun i _ => [(Reg.MEM_ISTAT_REMAP_USED i, .ro), (Reg.MEM_ISTAT_REMAP_FULL i, .ro), (Reg.MEM_ISTAT_SCRUB_SLOW i, .ro), (Reg.MEM_ISTAT_PRESENT i, .ro), (Reg.MEM_ISTAT_CLASS i, .ro), (Reg.MEM_ISTAT_MERGE_USED i, .ro)] },
  { base := 0x91008, s1 := 0x40, n1 := 256, s2 := 0x0, n2 := 1, fields := fun i _ => [(Reg.MEM_IEVT_CE i, .w1c), (Reg.MEM_IEVT_UE i, .w1c), (Reg.MEM_IEVT_HARD i, .w1c), (Reg.MEM_IEVT_VOTE i, .w1c), (Reg.MEM_IEVT_REMAPPED i, .w1c), (Reg.MEM_IEVT_MERGE_UE i, .w1c)] },
  { base := 0x9100c, s1 := 0x40, n1 := 256, s2 := 0x0, n2 := 1, fields := fun i _ => [(Reg.MEM_ICNT_CE i, .rc), (Reg.MEM_ICNT_UE i, .rc)] },
  { base := 0x91010, s1 := 0x40, n1 := 256, s2 := 0x0, n2 := 1, fields := fun i _ => [(Reg.MEM_ILAST_ADDR i, .ro), (Reg.MEM_ILAST_UE i, .ro), (Reg.MEM_ILAST_INJ i, .ro), (Reg.MEM_ILAST_VALID i, .ro)] },
  { base := 0x91014, s1 := 0x40, n1 := 256, s2 := 0x0, n2 := 1, fields := fun i _ => [(Reg.MEM_ISCRUB_POS i, .ro), (Reg.MEM_ISCRUB_PASSES i, .ro)] },
  { base := 0x91018, s1 := 0x40, n1 := 256, s2 := 0x0, n2 := 1, fields := fun i _ => [(Reg.MEM_IINJ_ADDR i, .rw), (Reg.MEM_IINJ_ADDR_EN i, .rw), (Reg.MEM_IINJ_ARM i, .rw), (Reg.MEM_IINJ_REWRITE i, .wo), (Reg.MEM_IINJ_MASK i, .rw)] },
  { base := 0x9101c, s1 := 0x40, n1 := 256, s2 := 0x0, n2 := 1, fields := fun i _ => [(Reg.MEM_IINJREC_ADDR i, .ro), (Reg.MEM_IINJREC_VALID i, .ro)] },
  { base := 0x91020, s1 := 0x40, n1 := 256, s2 := 0x4, n2 := 8, fields := fun i j => [(Reg.MEM_IRMP_ADDR i j, .rw), (Reg.MEM_IRMP_POISON i j, .ro), (Reg.MEM_IRMP_EN i j, .rw)] },
  { base := 0x9ff00, s1 := 0x0, n1 := 1, s2 := 0x0, n2 := 1, fields := fun _ _ => [(Reg.MEM_BLKID_NUM, .ro), (Reg.MEM_BLKID_REV, .ro)] },
  { base := 0x9ff04, s1 := 0x0, n1 := 1, s2 := 0x0, n2 := 1, fields := fun _ _ => [(Reg.MEM_LOCK_SET, .rwl)] },
  { base := 0x9ff08, s1 := 0x0, n1 := 1, s2 := 0x0, n2 := 1, fields := fun _ _ => [(Reg.MEM_SCRATCH_VALUE, .rw)] }]

/-! ### FLT (R55, R390) -/

def Reg.FLT_CFG_MODE : Fld := ⟨0xa0000, 0, 1, 0⟩
def Reg.FLT_CFG_FEC_CE : Fld := ⟨0xa0000, 1, 1, 0⟩
def Reg.FLT_CFG_FLE_US : Fld := ⟨0xa0000, 16, 16, 0xc8⟩
def Reg.FLT_TIM_SHADOW_US : Fld := ⟨0xa0004, 0, 16, 0xa⟩
def Reg.FLT_TIM_REPEAT_MS : Fld := ⟨0xa0004, 16, 16, 0x3e8⟩
def Reg.FLT_STAT_ANY : Fld := ⟨0xa0008, 0, 1, 0⟩
def Reg.FLT_STAT_PIN : Fld := ⟨0xa0008, 1, 1, 0⟩
def Reg.FLT_STAT_GRAVE : Fld := ⟨0xa0008, 2, 1, 0⟩
def Reg.FLT_STAT_NMI_LOST : Fld := ⟨0xa0008, 3, 1, 0⟩
def Reg.FLT_STAT_CLR_REFUSED : Fld := ⟨0xa0008, 4, 1, 0⟩
def Reg.FLT_STAT_CFG_REFUSED : Fld := ⟨0xa0008, 5, 1, 0⟩
def Reg.FLT_SHOPEN_DOM : Fld := ⟨0xa0010, 0, 64, 0⟩
def Reg.FLT_BRST_DOM : Fld := ⟨0xa0018, 0, 6, 0⟩
def Reg.FLT_BRST_GO : Fld := ⟨0xa0018, 31, 1, 0⟩
def Reg.FLT_GRAVE_SOURCE : Fld := ⟨0xa0020, 0, 10, 0⟩
def Reg.FLT_GRAVE_KIND : Fld := ⟨0xa0020, 10, 6, 0⟩
def Reg.FLT_GRAVE_VALID : Fld := ⟨0xa0020, 31, 1, 0⟩
def Reg.FLT_GRAVET_TIME : Fld := ⟨0xa0028, 0, 64, 0⟩
def Reg.FLT_LASTRST_SOURCE : Fld := ⟨0xa0030, 0, 10, 0⟩
def Reg.FLT_LASTRST_KIND : Fld := ⟨0xa0030, 10, 6, 0⟩
def Reg.FLT_LASTRST_VALID : Fld := ⟨0xa0030, 31, 1, 0⟩
def Reg.FLT_FECSTAT_VALID : Fld := ⟨0xa0040, 0, 1, 0⟩
def Reg.FLT_FECSTAT_CLR : Fld := ⟨0xa0040, 1, 1, 0⟩
def Reg.FLT_FECSTAT_LATER : Fld := ⟨0xa0040, 16, 16, 0⟩
def Reg.FLT_CONSEQTOT_COUNT : Fld := ⟨0xa0044, 0, 32, 0⟩
def Reg.FLT_NMILOST_COUNT : Fld := ⟨0xa0048, 0, 32, 0⟩
def Reg.FLT_LOGSTAT_HEAD : Fld := ⟨0xa004c, 0, 6, 0⟩
def Reg.FLT_LOGSTAT_WRAPS : Fld := ⟨0xa004c, 16, 16, 0⟩
def Reg.FLT_INJ_SOURCE : Fld := ⟨0xa0060, 0, 10, 0⟩
def Reg.FLT_INJ_KIND : Fld := ⟨0xa0060, 10, 6, 0⟩
def Reg.FLT_INJ_REACT : Fld := ⟨0xa0060, 16, 1, 0⟩
def Reg.FLT_INJ_GO : Fld := ⟨0xa0060, 31, 1, 0⟩
def Reg.FLT_FEC_F_w (i : Nat) : Fld := ⟨0xa0080 + 4 * i, 0, 32, 0⟩
def Reg.FLT_LOG_F_w (i : Nat) (j : Nat) : Fld := ⟨0xa0400 + 0x20 * i + 4 * j, 0, 32, 0⟩
def Reg.FLT_DEP_DOM (i : Nat) : Fld := ⟨0xa0c00 + 8 * i, 0, 64, fltDep i⟩
def Reg.FLT_SCFG_EN (i : Nat) : Fld := ⟨0xa1000 + 0x10 * i, 0, 1, fltPresent i⟩
def Reg.FLT_SCFG_SEV (i : Nat) : Fld := ⟨0xa1000 + 0x10 * i, 1, 2, 1⟩
def Reg.FLT_SCFG_CLASS (i : Nat) : Fld := ⟨0xa1000 + 0x10 * i, 3, 2, 1⟩
def Reg.FLT_SCFG_REACT (i : Nat) : Fld := ⟨0xa1000 + 0x10 * i, 8, 5, 1⟩
def Reg.FLT_SCFG_DOM (i : Nat) : Fld := ⟨0xa1000 + 0x10 * i, 16, 6, fltDomain i⟩
def Reg.FLT_SCFG_PRESENT (i : Nat) : Fld := ⟨0xa1000 + 0x10 * i, 31, 1, fltPresent i⟩
def Reg.FLT_SLAD_REACT1 (i : Nat) : Fld := ⟨0xa1004 + 0x10 * i, 0, 5, 1⟩
def Reg.FLT_SLAD_REACT2 (i : Nat) : Fld := ⟨0xa1004 + 0x10 * i, 8, 5, 1⟩
def Reg.FLT_SSTAT_PEND (i : Nat) : Fld := ⟨0xa1008 + 0x10 * i, 0, 1, 0⟩
def Reg.FLT_SSTAT_ACTIVE (i : Nat) : Fld := ⟨0xa1008 + 0x10 * i, 1, 1, 0⟩
def Reg.FLT_SSTAT_ERRPIN (i : Nat) : Fld := ⟨0xa1008 + 0x10 * i, 2, 1, 0⟩
def Reg.FLT_SSTAT_GRAVE (i : Nat) : Fld := ⟨0xa1008 + 0x10 * i, 3, 1, 0⟩
def Reg.FLT_SSTAT_STEP (i : Nat) : Fld := ⟨0xa1008 + 0x10 * i, 4, 2, 0⟩
def Reg.FLT_SSTAT_LASTKIND (i : Nat) : Fld := ⟨0xa1008 + 0x10 * i, 8, 6, 0⟩
def Reg.FLT_SCNT_FAULTS (i : Nat) : Fld := ⟨0xa100c + 0x10 * i, 0, 16, 0⟩
def Reg.FLT_SCNT_CONSEQ (i : Nat) : Fld := ⟨0xa100c + 0x10 * i, 16, 16, 0⟩
def Reg.FLT_BLKID_NUM : Fld := ⟨0xaff00, 24, 8, 0xa⟩
def Reg.FLT_BLKID_REV : Fld := ⟨0xaff00, 0, 16, Config.blockRev⟩
def Reg.FLT_LOCK_SET : Fld := ⟨0xaff04, 0, 1, 0⟩
def Reg.FLT_SCRATCH_VALUE : Fld := ⟨0xaff08, 0, 32, 0⟩

/-- The registers of block FLT. -/
def rowsFLT : List RegRow := [  { base := 0xa0000, s1 := 0x0, n1 := 1, s2 := 0x0, n2 := 1, fields := fun _ _ => [(Reg.FLT_CFG_MODE, .rwl), (Reg.FLT_CFG_FEC_CE, .rw), (Reg.FLT_CFG_FLE_US, .rw)] },
  { base := 0xa0004, s1 := 0x0, n1 := 1, s2 := 0x0, n2 := 1, fields := fun _ _ => [(Reg.FLT_TIM_SHADOW_US, .rwl), (Reg.FLT_TIM_REPEAT_MS, .rwl)] },
  { base := 0xa0008, s1 := 0x0, n1 := 1, s2 := 0x0, n2 := 1, fields := fun _ _ => [(Reg.FLT_STAT_ANY, .ro), (Reg.FLT_STAT_PIN, .ro), (Reg.FLT_STAT_GRAVE, .ro), (Reg.FLT_STAT_NMI_LOST, .w1c), (Reg.FLT_STAT_CLR_REFUSED, .w1c), (Reg.FLT_STAT_CFG_REFUSED, .w1c)] },
  { base := 0xa0010, s1 := 0x0, n1 := 1, s2 := 0x0, n2 := 1, fields := fun _ _ => [(Reg.FLT_SHOPEN_DOM, .ro)] },
  { base := 0xa0018, s1 := 0x0, n1 := 1, s2 := 0x0, n2 := 1, fields := fun _ _ => [(Reg.FLT_BRST_DOM, .wo), (Reg.FLT_BRST_GO, .wo)] },
  { base := 0xa0020, s1 := 0x0, n1 := 1, s2 := 0x0, n2 := 1, fields := fun _ _ => [(Reg.FLT_GRAVE_SOURCE, .ro), (Reg.FLT_GRAVE_KIND, .ro), (Reg.FLT_GRAVE_VALID, .ro)] },
  { base := 0xa0028, s1 := 0x0, n1 := 1, s2 := 0x0, n2 := 1, fields := fun _ _ => [(Reg.FLT_GRAVET_TIME, .ro)] },
  { base := 0xa0030, s1 := 0x0, n1 := 1, s2 := 0x0, n2 := 1, fields := fun _ _ => [(Reg.FLT_LASTRST_SOURCE, .ro), (Reg.FLT_LASTRST_KIND, .ro), (Reg.FLT_LASTRST_VALID, .ro)] },
  { base := 0xa0040, s1 := 0x0, n1 := 1, s2 := 0x0, n2 := 1, fields := fun _ _ => [(Reg.FLT_FECSTAT_VALID, .ro), (Reg.FLT_FECSTAT_CLR, .wo), (Reg.FLT_FECSTAT_LATER, .ro)] },
  { base := 0xa0044, s1 := 0x0, n1 := 1, s2 := 0x0, n2 := 1, fields := fun _ _ => [(Reg.FLT_CONSEQTOT_COUNT, .rc)] },
  { base := 0xa0048, s1 := 0x0, n1 := 1, s2 := 0x0, n2 := 1, fields := fun _ _ => [(Reg.FLT_NMILOST_COUNT, .rc)] },
  { base := 0xa004c, s1 := 0x0, n1 := 1, s2 := 0x0, n2 := 1, fields := fun _ _ => [(Reg.FLT_LOGSTAT_HEAD, .ro), (Reg.FLT_LOGSTAT_WRAPS, .ro)] },
  { base := 0xa0060, s1 := 0x0, n1 := 1, s2 := 0x0, n2 := 1, fields := fun _ _ => [(Reg.FLT_INJ_SOURCE, .wo), (Reg.FLT_INJ_KIND, .wo), (Reg.FLT_INJ_REACT, .wo), (Reg.FLT_INJ_GO, .wo)] },
  { base := 0xa0080, s1 := 0x4, n1 := 8, s2 := 0x0, n2 := 1, fields := fun i _ => [(Reg.FLT_FEC_F_w i, .ro)] },
  { base := 0xa0400, s1 := 0x20, n1 := 64, s2 := 0x4, n2 := 8, fields := fun i j => [(Reg.FLT_LOG_F_w i j, .ro)] },
  { base := 0xa0c00, s1 := 0x8, n1 := 64, s2 := 0x0, n2 := 1, fields := fun i _ => [(Reg.FLT_DEP_DOM i, .rwl)] },
  { base := 0xa1000, s1 := 0x10, n1 := 768, s2 := 0x0, n2 := 1, fields := fun i _ => [(Reg.FLT_SCFG_EN i, .rwl), (Reg.FLT_SCFG_SEV i, .rwl), (Reg.FLT_SCFG_CLASS i, .rwl), (Reg.FLT_SCFG_REACT i, .rwl), (Reg.FLT_SCFG_DOM i, .ro), (Reg.FLT_SCFG_PRESENT i, .ro)] },
  { base := 0xa1004, s1 := 0x10, n1 := 768, s2 := 0x0, n2 := 1, fields := fun i _ => [(Reg.FLT_SLAD_REACT1 i, .rwl), (Reg.FLT_SLAD_REACT2 i, .rwl)] },
  { base := 0xa1008, s1 := 0x10, n1 := 768, s2 := 0x0, n2 := 1, fields := fun i _ => [(Reg.FLT_SSTAT_PEND i, .w1c), (Reg.FLT_SSTAT_ACTIVE i, .ro), (Reg.FLT_SSTAT_ERRPIN i, .ro), (Reg.FLT_SSTAT_GRAVE i, .ro), (Reg.FLT_SSTAT_STEP i, .ro), (Reg.FLT_SSTAT_LASTKIND i, .ro)] },
  { base := 0xa100c, s1 := 0x10, n1 := 768, s2 := 0x0, n2 := 1, fields := fun i _ => [(Reg.FLT_SCNT_FAULTS i, .rc), (Reg.FLT_SCNT_CONSEQ i, .rc)] },
  { base := 0xaff00, s1 := 0x0, n1 := 1, s2 := 0x0, n2 := 1, fields := fun _ _ => [(Reg.FLT_BLKID_NUM, .ro), (Reg.FLT_BLKID_REV, .ro)] },
  { base := 0xaff04, s1 := 0x0, n1 := 1, s2 := 0x0, n2 := 1, fields := fun _ _ => [(Reg.FLT_LOCK_SET, .rwl)] },
  { base := 0xaff08, s1 := 0x0, n1 := 1, s2 := 0x0, n2 := 1, fields := fun _ _ => [(Reg.FLT_SCRATCH_VALUE, .rw)] }]

/-! ### SPL (R55, R403) -/

def Reg.SPL_EVT_MOVED : Fld := ⟨0x10000, 0, 16, 0⟩
def Reg.SPL_ENGSEL_ENG (i : Nat) : Fld := ⟨0x10010 + 4 * i, 0, 32, 0⟩
def Reg.SPL_FCFG_EN (i : Nat) : Fld := ⟨0x10100 + 0x10 * i, 0, 1, 1⟩
def Reg.SPL_FCFG_MODE (i : Nat) : Fld := ⟨0x10100 + 0x10 * i, 1, 2, splMode i⟩
def Reg.SPL_FCFG_PEER (i : Nat) : Fld := ⟨0x10100 + 0x10 * i, 8, 7, 0x7f⟩
def Reg.SPL_FCFG_DL_US (i : Nat) : Fld := ⟨0x10100 + 0x10 * i, 16, 16, splDl i⟩
def Reg.SPL_FRATE_RATE (i : Nat) : Fld := ⟨0x10104 + 0x10 * i, 0, 18, splRate i⟩
def Reg.SPL_FRATE_BURST (i : Nat) : Fld := ⟨0x10104 + 0x10 * i, 18, 7, splBurst i⟩
def Reg.SPL_FSTAT_STATE (i : Nat) : Fld := ⟨0x10108 + 0x10 * i, 0, 2, 2⟩
def Reg.SPL_FSTAT_SERVED (i : Nat) : Fld := ⟨0x10108 + 0x10 * i, 2, 2, splMode i⟩
def Reg.SPL_FSTAT_PENDING_ENABLE (i : Nat) : Fld := ⟨0x10108 + 0x10 * i, 4, 1, 0⟩
def Reg.SPL_FSTAT_PENDING_MODE (i : Nat) : Fld := ⟨0x10108 + 0x10 * i, 5, 1, 0⟩
def Reg.SPL_FSTAT_HWSERVE (i : Nat) : Fld := ⟨0x10108 + 0x10 * i, 6, 1, 0⟩
def Reg.SPL_FSTAT_REFUSED (i : Nat) : Fld := ⟨0x10108 + 0x10 * i, 7, 1, 0⟩
def Reg.SPL_FSTAT_OUT (i : Nat) : Fld := ⟨0x10108 + 0x10 * i, 8, 7, 0⟩
def Reg.SPL_FCNT_REQ (i : Nat) : Fld := ⟨0x1010c + 0x10 * i, 0, 16, 0⟩
def Reg.SPL_FCNT_DEFAULTED (i : Nat) : Fld := ⟨0x1010c + 0x10 * i, 16, 16, 0⟩
def Reg.SPL_BLKID_NUM : Fld := ⟨0x1ff00, 24, 8, 1⟩
def Reg.SPL_BLKID_REV : Fld := ⟨0x1ff00, 0, 16, Config.blockRev⟩
def Reg.SPL_LOCK_SET : Fld := ⟨0x1ff04, 0, 1, 0⟩
def Reg.SPL_SCRATCH_VALUE : Fld := ⟨0x1ff08, 0, 32, 0⟩

/-- The registers of block SPL. -/
def rowsSPL : List RegRow := [  { base := 0x10000, s1 := 0x0, n1 := 1, s2 := 0x0, n2 := 1, fields := fun _ _ => [(Reg.SPL_EVT_MOVED, .w1c)] },
  { base := 0x10010, s1 := 0x4, n1 := 4, s2 := 0x0, n2 := 1, fields := fun i _ => [(Reg.SPL_ENGSEL_ENG i, .rw)] },
  { base := 0x10100, s1 := 0x10, n1 := 16, s2 := 0x0, n2 := 1, fields := fun i _ => [(Reg.SPL_FCFG_EN i, .rw), (Reg.SPL_FCFG_MODE i, .rw), (Reg.SPL_FCFG_PEER i, .rw), (Reg.SPL_FCFG_DL_US i, .rw)] },
  { base := 0x10104, s1 := 0x10, n1 := 16, s2 := 0x0, n2 := 1, fields := fun i _ => [(Reg.SPL_FRATE_RATE i, .rw), (Reg.SPL_FRATE_BURST i, .rw)] },
  { base := 0x10108, s1 := 0x10, n1 := 16, s2 := 0x0, n2 := 1, fields := fun i _ => [(Reg.SPL_FSTAT_STATE i, .ro), (Reg.SPL_FSTAT_SERVED i, .ro), (Reg.SPL_FSTAT_PENDING_ENABLE i, .ro), (Reg.SPL_FSTAT_PENDING_MODE i, .ro), (Reg.SPL_FSTAT_HWSERVE i, .ro), (Reg.SPL_FSTAT_REFUSED i, .w1c), (Reg.SPL_FSTAT_OUT i, .ro)] },
  { base := 0x1010c, s1 := 0x10, n1 := 16, s2 := 0x0, n2 := 1, fields := fun i _ => [(Reg.SPL_FCNT_REQ i, .rc), (Reg.SPL_FCNT_DEFAULTED i, .rc)] },
  { base := 0x1ff00, s1 := 0x0, n1 := 1, s2 := 0x0, n2 := 1, fields := fun _ _ => [(Reg.SPL_BLKID_NUM, .ro), (Reg.SPL_BLKID_REV, .ro)] },
  { base := 0x1ff04, s1 := 0x0, n1 := 1, s2 := 0x0, n2 := 1, fields := fun _ _ => [(Reg.SPL_LOCK_SET, .rwl)] },
  { base := 0x1ff08, s1 := 0x0, n1 := 1, s2 := 0x0, n2 := 1, fields := fun _ _ => [(Reg.SPL_SCRATCH_VALUE, .rw)] }]

/-! ### FWU (R55, R420) -/

def Reg.FWU_CFG_CONFIRM_S : Fld := ⟨0xc0000, 0, 12, 0x78⟩
def Reg.FWU_CFG_F_MS : Fld := ⟨0xc0000, 16, 12, 0x64⟩
def Reg.FWU_CMD_OP : Fld := ⟨0xc0004, 0, 4, 0⟩
def Reg.FWU_CMD_SLOT : Fld := ⟨0xc0004, 4, 4, 0⟩
def Reg.FWU_STAT_STATE : Fld := ⟨0xc0008, 0, 3, 0⟩
def Reg.FWU_STAT_BUSY : Fld := ⟨0xc0008, 3, 1, 0⟩
def Reg.FWU_STAT_SLOT : Fld := ⟨0xc0008, 4, 4, 0⟩
def Reg.FWU_STAT_ERR : Fld := ⟨0xc0008, 8, 8, 0⟩
def Reg.FWU_STAT_MOTION : Fld := ⟨0xc0008, 16, 1, 1⟩
def Reg.FWU_STAT_HOLDUP_LOW : Fld := ⟨0xc0008, 17, 1, 0⟩
def Reg.FWU_STAT_OWNER_LOCK : Fld := ⟨0xc0008, 18, 1, 0⟩
def Reg.FWU_STAT_TRIAL : Fld := ⟨0xc0008, 19, 1, 0⟩
def Reg.FWU_STAT_NOREC : Fld := ⟨0xc0008, 20, 1, 0⟩
def Reg.FWU_EVT_REFUSED : Fld := ⟨0xc000c, 0, 1, 0⟩
def Reg.FWU_EVT_CHECK_FAIL : Fld := ⟨0xc000c, 1, 1, 0⟩
def Reg.FWU_EVT_STAGED : Fld := ⟨0xc000c, 2, 1, 0⟩
def Reg.FWU_EVT_ACTIVATED : Fld := ⟨0xc000c, 3, 1, 0⟩
def Reg.FWU_EVT_CONFIRMED : Fld := ⟨0xc000c, 4, 1, 0⟩
def Reg.FWU_EVT_FALLBACK : Fld := ⟨0xc000c, 5, 1, 0⟩
def Reg.FWU_CHOFF_OFFSET : Fld := ⟨0xc0010, 0, 23, 0⟩
def Reg.FWU_CHLEN_LEN : Fld := ⟨0xc0014, 0, 15, 0⟩
def Reg.FWU_BOOT_ACT : Fld := ⟨0xc0018, 0, 3, 0⟩
def Reg.FWU_BOOT_SEQ : Fld := ⟨0xc0018, 16, 16, 0⟩
def Reg.FWU_VERM_VERSION : Fld := ⟨0xc001c, 0, 32, 0⟩
def Reg.FWU_VERF_VERSION : Fld := ⟨0xc0020, 0, 32, 0⟩
def Reg.FWU_MINRB_MINRB : Fld := ⟨0xc0024, 0, 32, 0⟩
def Reg.FWU_OWNER_LOCK : Fld := ⟨0xc0028, 0, 1, 0⟩
def Reg.FWU_OWNER_HUB : Fld := ⟨0xc0028, 8, 7, 0x7f⟩
def Reg.FWU_MOTCFG_RING : Fld := ⟨0xc002c, 0, 1, 1⟩
def Reg.FWU_RINGMOT_VAL : Fld := ⟨0xc0030, 0, 1, 1⟩
def Reg.FWU_KEYREV_REV : Fld := ⟨0xc0034, 0, 4, 0⟩
def Reg.FWU_FALLBACKS_COUNT : Fld := ⟨0xc0038, 0, 16, 0⟩
def Reg.FWU_BUF_DATA (i : Nat) : Fld := ⟨0xc8000 + 4 * i, 0, 32, 0⟩
def Reg.FWU_BLKID_NUM : Fld := ⟨0xcff00, 24, 8, 0xc⟩
def Reg.FWU_BLKID_REV : Fld := ⟨0xcff00, 0, 16, Config.blockRev⟩
def Reg.FWU_LOCK_SET : Fld := ⟨0xcff04, 0, 1, 0⟩
def Reg.FWU_SCRATCH_VALUE : Fld := ⟨0xcff08, 0, 32, 0⟩

/-- The registers of block FWU. -/
def rowsFWU : List RegRow := [  { base := 0xc0000, s1 := 0x0, n1 := 1, s2 := 0x0, n2 := 1, fields := fun _ _ => [(Reg.FWU_CFG_CONFIRM_S, .rw), (Reg.FWU_CFG_F_MS, .rw)] },
  { base := 0xc0004, s1 := 0x0, n1 := 1, s2 := 0x0, n2 := 1, fields := fun _ _ => [(Reg.FWU_CMD_OP, .wo), (Reg.FWU_CMD_SLOT, .wo)] },
  { base := 0xc0008, s1 := 0x0, n1 := 1, s2 := 0x0, n2 := 1, fields := fun _ _ => [(Reg.FWU_STAT_STATE, .ro), (Reg.FWU_STAT_BUSY, .ro), (Reg.FWU_STAT_SLOT, .ro), (Reg.FWU_STAT_ERR, .ro), (Reg.FWU_STAT_MOTION, .ro), (Reg.FWU_STAT_HOLDUP_LOW, .ro), (Reg.FWU_STAT_OWNER_LOCK, .ro), (Reg.FWU_STAT_TRIAL, .ro), (Reg.FWU_STAT_NOREC, .ro)] },
  { base := 0xc000c, s1 := 0x0, n1 := 1, s2 := 0x0, n2 := 1, fields := fun _ _ => [(Reg.FWU_EVT_REFUSED, .w1c), (Reg.FWU_EVT_CHECK_FAIL, .w1c), (Reg.FWU_EVT_STAGED, .w1c), (Reg.FWU_EVT_ACTIVATED, .w1c), (Reg.FWU_EVT_CONFIRMED, .w1c), (Reg.FWU_EVT_FALLBACK, .w1c)] },
  { base := 0xc0010, s1 := 0x0, n1 := 1, s2 := 0x0, n2 := 1, fields := fun _ _ => [(Reg.FWU_CHOFF_OFFSET, .rw)] },
  { base := 0xc0014, s1 := 0x0, n1 := 1, s2 := 0x0, n2 := 1, fields := fun _ _ => [(Reg.FWU_CHLEN_LEN, .rw)] },
  { base := 0xc0018, s1 := 0x0, n1 := 1, s2 := 0x0, n2 := 1, fields := fun _ _ => [(Reg.FWU_BOOT_ACT, .ro), (Reg.FWU_BOOT_SEQ, .ro)] },
  { base := 0xc001c, s1 := 0x0, n1 := 1, s2 := 0x0, n2 := 1, fields := fun _ _ => [(Reg.FWU_VERM_VERSION, .ro)] },
  { base := 0xc0020, s1 := 0x0, n1 := 1, s2 := 0x0, n2 := 1, fields := fun _ _ => [(Reg.FWU_VERF_VERSION, .ro)] },
  { base := 0xc0024, s1 := 0x0, n1 := 1, s2 := 0x0, n2 := 1, fields := fun _ _ => [(Reg.FWU_MINRB_MINRB, .ro)] },
  { base := 0xc0028, s1 := 0x0, n1 := 1, s2 := 0x0, n2 := 1, fields := fun _ _ => [(Reg.FWU_OWNER_LOCK, .rw), (Reg.FWU_OWNER_HUB, .rw)] },
  { base := 0xc002c, s1 := 0x0, n1 := 1, s2 := 0x0, n2 := 1, fields := fun _ _ => [(Reg.FWU_MOTCFG_RING, .rw)] },
  { base := 0xc0030, s1 := 0x0, n1 := 1, s2 := 0x0, n2 := 1, fields := fun _ _ => [(Reg.FWU_RINGMOT_VAL, .ro)] },
  { base := 0xc0034, s1 := 0x0, n1 := 1, s2 := 0x0, n2 := 1, fields := fun _ _ => [(Reg.FWU_KEYREV_REV, .ro)] },
  { base := 0xc0038, s1 := 0x0, n1 := 1, s2 := 0x0, n2 := 1, fields := fun _ _ => [(Reg.FWU_FALLBACKS_COUNT, .rc)] },
  { base := 0xc8000, s1 := 0x4, n1 := 4096, s2 := 0x0, n2 := 1, fields := fun i _ => [(Reg.FWU_BUF_DATA i, .rw)] },
  { base := 0xcff00, s1 := 0x0, n1 := 1, s2 := 0x0, n2 := 1, fields := fun _ _ => [(Reg.FWU_BLKID_NUM, .ro), (Reg.FWU_BLKID_REV, .ro)] },
  { base := 0xcff04, s1 := 0x0, n1 := 1, s2 := 0x0, n2 := 1, fields := fun _ _ => [(Reg.FWU_LOCK_SET, .rwl)] },
  { base := 0xcff08, s1 := 0x0, n1 := 1, s2 := 0x0, n2 := 1, fields := fun _ _ => [(Reg.FWU_SCRATCH_VALUE, .rw)] }]

/-! ### AGE (R55, R430) -/

def Reg.AGE_CFG_PER_S : Fld := ⟨0xb0000, 0, 16, 0x3c⟩
def Reg.AGE_CFG_WIN_D : Fld := ⟨0xb0000, 16, 8, 0x5a⟩
def Reg.AGE_CFG_EST_H : Fld := ⟨0xb0000, 24, 8, 0x18⟩
def Reg.AGE_SAVE_SAVE_H : Fld := ⟨0xb0004, 0, 8, 0x18⟩
def Reg.AGE_CMD_SAVE : Fld := ⟨0xb0008, 0, 1, 0⟩
def Reg.AGE_THR_WATCH_MO : Fld := ⟨0xb000c, 0, 16, 0x3c⟩
def Reg.AGE_THR_REPLACE_MO : Fld := ⟨0xb000c, 16, 16, 0xc⟩
def Reg.AGE_EVT_STATE : Fld := ⟨0xb0010, 0, 1, 0⟩
def Reg.AGE_EVT_WARN : Fld := ⟨0xb0010, 1, 1, 0⟩
def Reg.AGE_EVT_MON : Fld := ⟨0xb0010, 2, 1, 0⟩
def Reg.AGE_EVT_SET : Fld := ⟨0xb0010, 3, 1, 0⟩
def Reg.AGE_EVT_RECORD_LOST : Fld := ⟨0xb0010, 4, 1, 0⟩
def Reg.AGE_MEVT_WARN : Fld := ⟨0xb0014, 0, 30, 0⟩
def Reg.AGE_POH_HOURS : Fld := ⟨0xb0018, 0, 32, 0⟩
def Reg.AGE_TAVG_TJ : Fld := ⟨0xb001c, 0, 16, 0⟩
def Reg.AGE_EST_MONTHS (i : Nat) : Fld := ⟨0xb0020 + 8 * i, 0, 16, 0xffff⟩
def Reg.AGE_EST_BAND (i : Nat) : Fld := ⟨0xb0020 + 8 * i, 16, 16, 0⟩
def Reg.AGE_GST_STATE (i : Nat) : Fld := ⟨0xb0024 + 8 * i, 0, 2, 0⟩
def Reg.AGE_GST_FW (i : Nat) : Fld := ⟨0xb0024 + 8 * i, 2, 1, 0⟩
def Reg.AGE_GST_NOFIT (i : Nat) : Fld := ⟨0xb0024 + 8 * i, 3, 1, 1⟩
def Reg.AGE_GST_MON (i : Nat) : Fld := ⟨0xb0024 + 8 * i, 8, 5, 0x1f⟩
def Reg.AGE_FLCFG_LIMIT : Fld := ⟨0xb0040, 0, 32, 0x186a0⟩
def Reg.AGE_FLERASE_COUNT : Fld := ⟨0xb0044, 0, 32, 0⟩
def Reg.AGE_FEEDLIM_LIMIT (i : Nat) : Fld := ⟨0xb0050 + 4 * i, 0, 32, 0xc350⟩
def Reg.AGE_FTCYC_COUNT (i : Nat) : Fld := ⟨0xb0060 + 4 * i, 0, 32, 0⟩
def Reg.AGE_MCFG_EN (i : Nat) : Fld := ⟨0xb0100 + 0x10 * i, 0, 1, 1⟩
def Reg.AGE_MCFG_GROUP (i : Nat) : Fld := ⟨0xb0100 + 0x10 * i, 1, 1, ageGroup i⟩
def Reg.AGE_MCFG_WARN (i : Nat) : Fld := ⟨0xb0100 + 0x10 * i, 16, 16, 0x1f40⟩
def Reg.AGE_MVAL_WEAR (i : Nat) : Fld := ⟨0xb0104 + 0x10 * i, 0, 16, 0⟩
def Reg.AGE_MVAL_RAW (i : Nat) : Fld := ⟨0xb0104 + 0x10 * i, 16, 16, 0⟩
def Reg.AGE_MEST_MONTHS (i : Nat) : Fld := ⟨0xb0108 + 0x10 * i, 0, 16, 0xffff⟩
def Reg.AGE_MEST_BAND (i : Nat) : Fld := ⟨0xb0108 + 0x10 * i, 16, 16, 0⟩
def Reg.AGE_BLKID_NUM : Fld := ⟨0xbff00, 24, 8, 0xb⟩
def Reg.AGE_BLKID_REV : Fld := ⟨0xbff00, 0, 16, Config.blockRev⟩
def Reg.AGE_LOCK_SET : Fld := ⟨0xbff04, 0, 1, 0⟩
def Reg.AGE_SCRATCH_VALUE : Fld := ⟨0xbff08, 0, 32, 0⟩

/-- The registers of block AGE. -/
def rowsAGE : List RegRow := [  { base := 0xb0000, s1 := 0x0, n1 := 1, s2 := 0x0, n2 := 1, fields := fun _ _ => [(Reg.AGE_CFG_PER_S, .rw), (Reg.AGE_CFG_WIN_D, .rw), (Reg.AGE_CFG_EST_H, .rw)] },
  { base := 0xb0004, s1 := 0x0, n1 := 1, s2 := 0x0, n2 := 1, fields := fun _ _ => [(Reg.AGE_SAVE_SAVE_H, .rw)] },
  { base := 0xb0008, s1 := 0x0, n1 := 1, s2 := 0x0, n2 := 1, fields := fun _ _ => [(Reg.AGE_CMD_SAVE, .wo)] },
  { base := 0xb000c, s1 := 0x0, n1 := 1, s2 := 0x0, n2 := 1, fields := fun _ _ => [(Reg.AGE_THR_WATCH_MO, .rw), (Reg.AGE_THR_REPLACE_MO, .rw)] },
  { base := 0xb0010, s1 := 0x0, n1 := 1, s2 := 0x0, n2 := 1, fields := fun _ _ => [(Reg.AGE_EVT_STATE, .w1c), (Reg.AGE_EVT_WARN, .w1c), (Reg.AGE_EVT_MON, .w1c), (Reg.AGE_EVT_SET, .w1c), (Reg.AGE_EVT_RECORD_LOST, .w1c)] },
  { base := 0xb0014, s1 := 0x0, n1 := 1, s2 := 0x0, n2 := 1, fields := fun _ _ => [(Reg.AGE_MEVT_WARN, .w1c)] },
  { base := 0xb0018, s1 := 0x0, n1 := 1, s2 := 0x0, n2 := 1, fields := fun _ _ => [(Reg.AGE_POH_HOURS, .ro)] },
  { base := 0xb001c, s1 := 0x0, n1 := 1, s2 := 0x0, n2 := 1, fields := fun _ _ => [(Reg.AGE_TAVG_TJ, .ro)] },
  { base := 0xb0020, s1 := 0x8, n1 := 2, s2 := 0x0, n2 := 1, fields := fun i _ => [(Reg.AGE_EST_MONTHS i, .ro), (Reg.AGE_EST_BAND i, .ro)] },
  { base := 0xb0024, s1 := 0x8, n1 := 2, s2 := 0x0, n2 := 1, fields := fun i _ => [(Reg.AGE_GST_STATE i, .ro), (Reg.AGE_GST_FW i, .ro), (Reg.AGE_GST_NOFIT i, .ro), (Reg.AGE_GST_MON i, .ro)] },
  { base := 0xb0040, s1 := 0x0, n1 := 1, s2 := 0x0, n2 := 1, fields := fun _ _ => [(Reg.AGE_FLCFG_LIMIT, .rw)] },
  { base := 0xb0044, s1 := 0x0, n1 := 1, s2 := 0x0, n2 := 1, fields := fun _ _ => [(Reg.AGE_FLERASE_COUNT, .ro)] },
  { base := 0xb0050, s1 := 0x4, n1 := 4, s2 := 0x0, n2 := 1, fields := fun i _ => [(Reg.AGE_FEEDLIM_LIMIT i, .rw)] },
  { base := 0xb0060, s1 := 0x4, n1 := 4, s2 := 0x0, n2 := 1, fields := fun i _ => [(Reg.AGE_FTCYC_COUNT i, .ro)] },
  { base := 0xb0100, s1 := 0x10, n1 := 30, s2 := 0x0, n2 := 1, fields := fun i _ => [(Reg.AGE_MCFG_EN i, .rw), (Reg.AGE_MCFG_GROUP i, .ro), (Reg.AGE_MCFG_WARN i, .rw)] },
  { base := 0xb0104, s1 := 0x10, n1 := 30, s2 := 0x0, n2 := 1, fields := fun i _ => [(Reg.AGE_MVAL_WEAR i, .ro), (Reg.AGE_MVAL_RAW i, .ro)] },
  { base := 0xb0108, s1 := 0x10, n1 := 30, s2 := 0x0, n2 := 1, fields := fun i _ => [(Reg.AGE_MEST_MONTHS i, .ro), (Reg.AGE_MEST_BAND i, .ro)] },
  { base := 0xbff00, s1 := 0x0, n1 := 1, s2 := 0x0, n2 := 1, fields := fun _ _ => [(Reg.AGE_BLKID_NUM, .ro), (Reg.AGE_BLKID_REV, .ro)] },
  { base := 0xbff04, s1 := 0x0, n1 := 1, s2 := 0x0, n2 := 1, fields := fun _ _ => [(Reg.AGE_LOCK_SET, .rwl)] },
  { base := 0xbff08, s1 := 0x0, n1 := 1, s2 := 0x0, n2 := 1, fields := fun _ _ => [(Reg.AGE_SCRATCH_VALUE, .rw)] }]

/-! ### GLB (R55, R450) -/

def Reg.GLB_IDENT_VARIANT : Fld := ⟨0x0, 0, 4, Config.variant⟩
def Reg.GLB_IDENT_PART : Fld := ⟨0x0, 16, 16, 0x7260⟩
def Reg.GLB_STATUS_ROLE : Fld := ⟨0x4, 0, 1, 1⟩
def Reg.GLB_STATUS_BOOT : Fld := ⟨0x4, 1, 2, 0⟩
def Reg.GLB_STATUS_FIELD : Fld := ⟨0x4, 3, 2, 0⟩
def Reg.GLB_HUBNUM_NUM : Fld := ⟨0x8, 0, 7, 0x7f⟩
def Reg.GLB_HUBNUM_STRAP : Fld := ⟨0x8, 8, 7, 0x7f⟩
def Reg.GLB_HUBREQ_NUM : Fld := ⟨0xc, 0, 7, 0x7f⟩
def Reg.GLB_JOIN_STATE : Fld := ⟨0x10, 0, 3, 0⟩
def Reg.GLB_EVT_NUMBERED : Fld := ⟨0x14, 0, 1, 0⟩
def Reg.GLB_EVT_DUP_NUM : Fld := ⟨0x14, 1, 1, 0⟩
def Reg.GLB_EVT_BAD_STRAP : Fld := ⟨0x14, 2, 1, 0⟩
def Reg.GLB_RSTCAUSE_CAUSE : Fld := ⟨0x18, 0, 5, 1⟩
def Reg.GLB_RST_GO : Fld := ⟨0x1c, 0, 1, 0⟩
def Reg.GLB_RST_FIELD : Fld := ⟨0x1c, 1, 1, 0⟩
def Reg.GLB_RST_KEY : Fld := ⟨0x1c, 16, 16, 0⟩
def Reg.GLB_CTL_READY : Fld := ⟨0x20, 0, 1, 0⟩
def Reg.GLB_UID_UID : Fld := ⟨0x28, 0, 64, Config.uid⟩
def Reg.GLB_MEMBER_HUB (i : Nat) : Fld := ⟨0x40 + 4 * i, 0, 32, 0⟩
def Reg.GLB_BLKID_NUM : Fld := ⟨0xff00, 24, 8, 0⟩
def Reg.GLB_BLKID_REV : Fld := ⟨0xff00, 0, 16, Config.blockRev⟩
def Reg.GLB_LOCK_SET : Fld := ⟨0xff04, 0, 1, 0⟩
def Reg.GLB_SCRATCH_VALUE : Fld := ⟨0xff08, 0, 32, 0⟩

/-- The registers of block GLB. -/
def rowsGLB : List RegRow := [  { base := 0x0, s1 := 0x0, n1 := 1, s2 := 0x0, n2 := 1, fields := fun _ _ => [(Reg.GLB_IDENT_VARIANT, .ro), (Reg.GLB_IDENT_PART, .ro)] },
  { base := 0x4, s1 := 0x0, n1 := 1, s2 := 0x0, n2 := 1, fields := fun _ _ => [(Reg.GLB_STATUS_ROLE, .ro), (Reg.GLB_STATUS_BOOT, .ro), (Reg.GLB_STATUS_FIELD, .ro)] },
  { base := 0x8, s1 := 0x0, n1 := 1, s2 := 0x0, n2 := 1, fields := fun _ _ => [(Reg.GLB_HUBNUM_NUM, .ro), (Reg.GLB_HUBNUM_STRAP, .ro)] },
  { base := 0xc, s1 := 0x0, n1 := 1, s2 := 0x0, n2 := 1, fields := fun _ _ => [(Reg.GLB_HUBREQ_NUM, .rw)] },
  { base := 0x10, s1 := 0x0, n1 := 1, s2 := 0x0, n2 := 1, fields := fun _ _ => [(Reg.GLB_JOIN_STATE, .ro)] },
  { base := 0x14, s1 := 0x0, n1 := 1, s2 := 0x0, n2 := 1, fields := fun _ _ => [(Reg.GLB_EVT_NUMBERED, .w1c), (Reg.GLB_EVT_DUP_NUM, .w1c), (Reg.GLB_EVT_BAD_STRAP, .w1c)] },
  { base := 0x18, s1 := 0x0, n1 := 1, s2 := 0x0, n2 := 1, fields := fun _ _ => [(Reg.GLB_RSTCAUSE_CAUSE, .ro)] },
  { base := 0x1c, s1 := 0x0, n1 := 1, s2 := 0x0, n2 := 1, fields := fun _ _ => [(Reg.GLB_RST_GO, .wo), (Reg.GLB_RST_FIELD, .wo), (Reg.GLB_RST_KEY, .wo)] },
  { base := 0x20, s1 := 0x0, n1 := 1, s2 := 0x0, n2 := 1, fields := fun _ _ => [(Reg.GLB_CTL_READY, .rw)] },
  { base := 0x28, s1 := 0x0, n1 := 1, s2 := 0x0, n2 := 1, fields := fun _ _ => [(Reg.GLB_UID_UID, .ro)] },
  { base := 0x40, s1 := 0x4, n1 := 4, s2 := 0x0, n2 := 1, fields := fun i _ => [(Reg.GLB_MEMBER_HUB i, .ro)] },
  { base := 0xff00, s1 := 0x0, n1 := 1, s2 := 0x0, n2 := 1, fields := fun _ _ => [(Reg.GLB_BLKID_NUM, .ro), (Reg.GLB_BLKID_REV, .ro)] },
  { base := 0xff04, s1 := 0x0, n1 := 1, s2 := 0x0, n2 := 1, fields := fun _ _ => [(Reg.GLB_LOCK_SET, .rwl)] },
  { base := 0xff08, s1 := 0x0, n1 := 1, s2 := 0x0, n2 := 1, fields := fun _ _ => [(Reg.GLB_SCRATCH_VALUE, .rw)] }]

/-! ### PWM (R55, R451) -/

def Reg.PWM_REST_REQ : Fld := ⟨0xd0000, 0, 1, 0⟩
def Reg.PWM_REST_STATE : Fld := ⟨0xd0000, 1, 2, 0⟩
def Reg.PWM_REST_REFUSE : Fld := ⟨0xd0000, 4, 4, 0⟩
def Reg.PWM_SUPSTAT_INRANGE : Fld := ⟨0xd0004, 0, 6, 0⟩
def Reg.PWM_RESTCNT_COUNT : Fld := ⟨0xd0008, 0, 32, 0⟩
def Reg.PWM_BLKID_NUM : Fld := ⟨0xdff00, 24, 8, 0xd⟩
def Reg.PWM_BLKID_REV : Fld := ⟨0xdff00, 0, 16, Config.blockRev⟩
def Reg.PWM_LOCK_SET : Fld := ⟨0xdff04, 0, 1, 0⟩
def Reg.PWM_SCRATCH_VALUE : Fld := ⟨0xdff08, 0, 32, 0⟩

/-- The registers of block PWM. -/
def rowsPWM : List RegRow := [  { base := 0xd0000, s1 := 0x0, n1 := 1, s2 := 0x0, n2 := 1, fields := fun _ _ => [(Reg.PWM_REST_REQ, .rw), (Reg.PWM_REST_STATE, .ro), (Reg.PWM_REST_REFUSE, .ro)] },
  { base := 0xd0004, s1 := 0x0, n1 := 1, s2 := 0x0, n2 := 1, fields := fun _ _ => [(Reg.PWM_SUPSTAT_INRANGE, .ro)] },
  { base := 0xd0008, s1 := 0x0, n1 := 1, s2 := 0x0, n2 := 1, fields := fun _ _ => [(Reg.PWM_RESTCNT_COUNT, .rc)] },
  { base := 0xdff00, s1 := 0x0, n1 := 1, s2 := 0x0, n2 := 1, fields := fun _ _ => [(Reg.PWM_BLKID_NUM, .ro), (Reg.PWM_BLKID_REV, .ro)] },
  { base := 0xdff04, s1 := 0x0, n1 := 1, s2 := 0x0, n2 := 1, fields := fun _ _ => [(Reg.PWM_LOCK_SET, .rwl)] },
  { base := 0xdff08, s1 := 0x0, n1 := 1, s2 := 0x0, n2 := 1, fields := fun _ _ => [(Reg.PWM_SCRATCH_VALUE, .rw)] }]

end Sys2Proof.Machine
end

