-- ==== Sys2Proof/Machine/RegMap.lean ====
section
/-! DEFINITION. The block regions of Table 2.10 (R54): first address, last address, the address of the block's LOCK
register, and the block's registers; and the register that an address names. -/
namespace Sys2Proof.Machine

/-- Table 2.10. -/
def blocks : List (Nat × Nat × Nat × List RegRow) := [
  (0x0, 0xffff, 0xff04, rowsGLB),
  (0x10000, 0x1ffff, 0x1ff04, rowsSPL),
  (0x20000, 0x2ffff, 0x2ff04, rowsPCI),
  (0x30000, 0x3ffff, 0x3ff04, rowsRNG),
  (0x40000, 0x4ffff, 0x4ff04, rowsRED),
  (0x50000, 0x5ffff, 0x5ff04, rowsSWC),
  (0x60000, 0x6ffff, 0x6ff04, rowsSPU),
  (0x70000, 0x7ffff, 0x7ff04, rowsTIM),
  (0x80000, 0x8ffff, 0x8ff04, rowsBRG),
  (0x90000, 0x9ffff, 0x9ff04, rowsMEM),
  (0xa0000, 0xaffff, 0xaff04, rowsFLT),
  (0xb0000, 0xbffff, 0xbff04, rowsAGE),
  (0xc0000, 0xcffff, 0xcff04, rowsFWU),
  (0xd0000, 0xdffff, 0xdff04, rowsPWM),
  (0xe0000, 0xeffff, 0xeff04, rowsBAR),
  (0x800000, 0x80ffff, 0x80ff04, rowsFGL),
  (0x810000, 0x83ffff, 0x83ff04, rowsMAR),
  (0x840000, 0x85ffff, 0x85ff04, rowsCAN),
  (0x860000, 0x87ffff, 0x87ff04, rowsFIO),
  (0x880000, 0x89ffff, 0x89ff04, rowsFED),
  (0x8a0000, 0x8bffff, 0x8bff04, rowsGRM),
  (0x8c0000, 0x8dffff, 0x8dff04, rowsFTM),
  (0x8e0000, 0x8fffff, 0x8fff04, rowsFFL)]

/-- The block that holds an address: its LOCK register's address and its registers. -/
def blockOf (bs : List (Nat × Nat × Nat × List RegRow)) (a : Nat) : Option (Nat × List RegRow) :=
  match bs with
  | [] => none
  | (lo, hi, lk, rows) :: r => if lo ≤ a && a ≤ hi then some (lk, rows) else blockOf r a

/-- The fields of the register at a BAR0 address; none where no register stands (R48). -/
def fieldsAt (a : Nat) : List (Fld × Acc) :=
  match blockOf blocks a with
  | some (_, rows) => rowsFind rows a
  | none => []

/-- The LOCK bit of the block that holds an address (R55). -/
def lockAt (a : Nat) : Fld :=
  match blockOf blocks a with
  | some (lk, _) => ⟨lk, 0, 1, 0⟩
  | none => ⟨0, 0, 1, 0⟩

/-- Whether the address is the low word of a 64-bit pair (R56). -/
def isPair (a : Nat) : Bool := (fieldsAt a).any fun f => f.1.width == 64

end Sys2Proof.Machine
end

