-- ==== Sys2Proof/Machine/Ops.lean ====
section
/-! DEFINITION. The named operations that commands of the host die share: its registers and counters, the time base's
units, host memory as the hub's DMA writes it, completion and event entries with their interrupts (R64 to R66, R85 to
R90), fault messages (R373), and the requests of the function split (R394 to R396). -/
namespace Sys2Proof.Machine

/-! ### Registers -/

/-- A field of an H-die register. -/
def HDie.rd (h : HDie) (F : Fld) : Nat := regGet h.regs F

/-- Set a field of an H-die register. -/
def HDie.wr (h : HDie) (F : Fld) (v : Nat) : HDie := { h with regs := regPut h.regs F v }

/-- Set a one-bit field, such as a W1C event bit (R10). -/
def HDie.raise (h : HDie) (F : Fld) : HDie := h.wr F 1

/-- Count `n` in a saturating counter (R56). -/
def HDie.bump (h : HDie) (F : Fld) (n : Nat := 1) : HDie := { h with regs := regBump h.regs F n }

/-- Whether a one-bit field is set. -/
def HDie.on (h : HDie) (F : Fld) : Bool := h.rd F != 0

/-- The larger of a field and `v`, kept in the field (SWC_QPEAK_q and its like). -/
def HDie.peak (h : HDie) (F : Fld) (v : Nat) : HDie := if h.rd F < v then h.wr F v else h

/-! ### Who the hub is -/

/-- The variant's number (R6). -/
def HDie.variant (h : HDie) : Nat := h.rd Reg.GLB_IDENT_VARIANT

/-- The hub is host-attached (R21). -/
def HDie.hostAttached (h : HDie) : Bool := !h.on Reg.GLB_STATUS_ROLE

/-- The number in GLB_HUBNUM.NUM (R38). -/
def HDie.hubNum (h : HDie) : Nat := h.rd Reg.GLB_HUBNUM_NUM

/-- The hub acts as numbered: NUM names a hub, and it is not in CONFLICT (R39, R446). -/
def HDie.numbered (h : HDie) : Bool := h.hubNum != 0x7F && h.rd Reg.GLB_JOIN_STATE != 4

/-- The number the hub acts under: 0x7F while it acts as unnumbered (R38, R39, R446). -/
def HDie.self (h : HDie) : Nat := if h.numbered then h.hubNum else 0x7F

/-- The management core is running (R33): started, not held in reset, and its clock not stopped in Rest (R29). -/
def HDie.coreRuns (h : HDie) : Bool := h.rd Reg.GLB_STATUS_BOOT == 2 && !h.boot.coreHeld && h.rd Reg.PWM_REST_STATE < 2

/-- The PCIe link is up (Table 6.1). -/
def HDie.pcieUp (h : HDie) : Bool := h.hostq.linkUp

/-! ### The barrier link's sending side (R16, R221, R224) -/

/-- A barrier message from its M0 type and tag and its other words. -/
def mkMsg (typ tag : Nat) (ws : List Nat) : BarMsg :=
  let w := fun (i : Nat) => BitVec.ofNat 32 (ws.getD i 0)
  { m0 := BitVec.ofNat 32 (typ + tag % 4096 * 2 ^ 20), m1 := w 0, m2 := w 1, m3 := w 2, m4 := w 3, m5 := w 4, m6 := w 5, m7 := w 6 }

/-- TYPE of a message (Table 8.9). -/
def mType (m : BarMsg) : Nat := m.m0.fld 0 8
/-- TAG of a message. -/
def mTag (m : BarMsg) : Nat := m.m0.fld 20 12

/-- The rank of a type (Tables 1.2 and 8.10). -/
def rankOf (t : Nat) : Nat :=
  if t ≤ 3 then 1 else if t == 0x10 then 2 else if t == 0x20 || t == 0x21 then 3 else if t == 0x30 || t == 0x31 then 4 else 5

/-- The credit class of a type: 0 RSP, 1 REQ, 2 CYC, 3 STREAM, 4 none (R224). -/
def classOf (t : Nat) : Nat :=
  if t == 0x10 then 0 else if t == 0x30 || t == 0x31 then 1 else if t == 0x20 || t == 0x21 then 2 else if t == 0x40 then 3 else 4

/-- A credit of a class is held: a response needs none, since its space was kept when the request was sent (R224). -/
def BarEnd.held (b : BarEnd) (c : Nat) : Bool := c == 0 || c == 4 || b.used.getD c 0 < b.granted.getD c 0

/-- An end may send a message: it holds a credit of its class, and for a request one of its eight slots for the response (R224). -/
def BarEnd.maySend (b : BarEnd) (m : BarMsg) : Bool :=
  b.held (classOf (mType m)) && (classOf (mType m) != 1 || b.slots.length < 8)

/-- The messages at the head of each rank that may be sent, by rank (R16). -/
def BarEnd.heads (b : BarEnd) : List BarMsg :=
  [1, 2, 3, 4, 5].filterMap fun r => (b.tx.find? fun m => rankOf (mType m) == r).filter b.maySend

/-- The message that has the next slot (R16): of the lowest rank, but for a rank that 60 slots have passed by, so that each of the five ranks has one slot in
every 64. -/
def BarEnd.next (b : BarEnd) : Option BarMsg :=
  match b.heads.find? fun m => 60 ≤ b.skips.getD (rankOf (mType m)) 0 with
  | some m => some m
  | none => b.heads.head?

/-- A message leaves: its credit and its response slot are taken, and the ranks that wait count the slot. -/
def BarEnd.sent (b : BarEnd) (m : BarMsg) : BarEnd :=
  let k := rankOf (mType m)
  let c := classOf (mType m)
  { b with
    tx := dropFirst (fun x => rankOf (mType x) == k) b.tx
    used := b.used.set c (b.used.getD c 0 + 1)
    skips := (upto 6).map fun r => if r != k && b.tx.any (fun x => rankOf (mType x) == r) then min 60 (b.skips.getD r 0 + 1) else 0
    slots := if c == 1 then mTag m :: b.slots else b.slots }

/-- Send what credits allow, a message a slot: what was sent, and the end that is left. -/
def sendSlots : Nat → BarEnd → List BarMsg × BarEnd
  | 0, b => ([], b)
  | n + 1, b =>
    match b.next with
    | none => ([], b)
    | some m =>
      let r := sendSlots n (b.sent m)
      (m :: r.1, r.2)

/-- Every message that may be sent now leaves, in the order of R16. -/
def BarEnd.sendAll (b : BarEnd) : List BarMsg × BarEnd := sendSlots b.tx.length b

/-- The space of a message of type t is free again, and its credit is given back (R224). -/
def BarEnd.freed (b : BarEnd) (t : Nat) : BarEnd :=
  let c := classOf t
  if c == 4 then b else { b with given := b.given.set c (b.given.getD c 0 + 1) }

/-- The slot of a response is free again (R224). -/
def BarEnd.answered (b : BarEnd) (tag : Nat) : BarEnd := { b with slots := b.slots.erase tag }

/-- The H-die's barrier transmitter sends while the link is up, counting in BAR_TXMSG; a field die that is not there to hear it takes
nothing. -/
def carryH (s : State) : State :=
  if s.h.brg.bar.tx.isEmpty || regGet s.h.regs Reg.BAR_STAT_UP == 0 then s
  else
    let r := s.h.brg.bar.sendAll
    { s with h.brg.bar := r.2, h.regs := regBump s.h.regs Reg.BAR_TXMSG_COUNT r.1.length, link.toF := s.link.toF ++ r.1 }

/-- The dies hear each other: the barrier link is up at both ends. -/
def State.linked (s : State) : Bool := s.f.linkUp && regGet s.h.regs Reg.BAR_STAT_UP == 1

/-- The F-die's barrier transmitter sends while its end of the link is up. -/
def carryF (s : State) : State :=
  if s.f.bar.tx.isEmpty || !s.f.linkUp then s
  else
    let r := s.f.bar.sendAll
    { s with f.bar := r.2, link.toH := s.link.toH ++ r.1 }

/-- A command of the field die: the host die is not touched (R14, R15). -/
def onF (f : FDie → FDie) (s : State) : Host.Outcome State Fault Refusal := .next (carryF { s with f := f s.f })

/-- A message for the field die waits at the H-die's barrier transmitter. -/
def HDie.toField (h : HDie) (m : BarMsg) : HDie := { h with brg.bar.tx := h.brg.bar.tx ++ [m] }

/-- A message for the host die waits at the F-die's barrier transmitter. -/
def FDie.toHost (f : FDie) (m : BarMsg) : FDie := { f with bar.tx := f.bar.tx ++ [m] }

/-- Up to 24 bytes as the words M2 to M7, the first byte in M2 [7:0]. -/
def msgWords (bs : List Byte) : List Nat := (upto 6).map fun i => leNat (slice bs (4 * i) 4)

/-- The data bytes of a message from word M2 on. -/
def msgBytes (m : BarMsg) (n : Nat) : List Byte :=
  (leBytes 4 m.m2.toNat ++ leBytes 4 m.m3.toNat ++ leBytes 4 m.m4.toNat ++ leBytes 4 m.m5.toNat ++ leBytes 4 m.m6.toNat
    ++ leBytes 4 m.m7.toNat).take n

/-- An image of cycle n as CYC messages of a type: 24 bytes each, the last with LAST (R471). -/
def cycMsgs (typ n : Nat) : Nat → Nat → List Byte → List BarMsg
  | 0, _, _ => []
  | k + 1, off, bs =>
    if bs.isEmpty then []
    else
      let here := bs.take 24
      let rest := bs.drop 24
      mkMsg typ (n % 4096) ((off + here.length * 2 ^ 13 + b2n rest.isEmpty * 2 ^ 31) :: msgWords here)
        :: cycMsgs typ n k (off + here.length) rest

/-- An image of cycle n as CYC messages. -/
def imageMsgs (typ n : Nat) (bs : List Byte) : List BarMsg := cycMsgs typ n bs.length 0 bs

/-! ### Time: units of 2^-32 ns (R230, R231) -/

/-- One nanosecond. -/
def nsT : Nat := 2 ^ 32

/-- `n` nanoseconds. -/
def ofNs (n : Nat) : Nat := 2 ^ 32 * n

/-- `n` microseconds. -/
def ofUs (n : Nat) : Nat := 1000 * 2 ^ 32 * n

/-- `n` milliseconds. -/
def ofMs (n : Nat) : Nat := 1000000 * 2 ^ 32 * n

/-- One second. -/
def secT : Nat := 1000000000 * 2 ^ 32

/-- SEC of a time (R230). -/
def timeSec (t : Nat) : Nat := t / secT % 2 ^ 48

/-- NS of a time (R230). -/
def timeNs (t : Nat) : Nat := t / 2 ^ 32 % 1000000000

/-- FRAC of a time, 16 bits shown (R230, R231). -/
def timeFrac (t : Nat) : Nat := t / 2 ^ 16 % 2 ^ 16

/-- The time that SEC, NS and FRAC spell. -/
def mkTime (sec ns frac : Nat) : Nat := secT * sec + 2 ^ 32 * ns + 2 ^ 16 * frac

/-- A time in the layout of TIME in Table 3.6: nanoseconds in [29:0], seconds [31:0] in [63:32]. -/
def timeWord (t : Nat) : Nat := timeNs t + 2 ^ 32 * (timeSec t % 2 ^ 32)

/-- A time difference in 2^-8 ns. -/
def in8 (t : Nat) : Nat := t / 2 ^ 24

/-- The H-die's time base is moved forward to an instant that a command names; never backward (log 9). -/
def HDie.advance (h : HDie) (t : Nat) : HDie := { h with tb.now := max h.tb.now t }

/-- FWU_STAT.MOTION (R412). -/
def HDie.showMotion (h : HDie) : HDie := h.wr Reg.FWU_STAT_MOTION (b2n (h.upd.motLow || h.on Reg.FWU_RINGMOT_VAL))

/-- FWU_RINGMOT.VAL takes a value (R413). -/
def HDie.ringMotion (h : HDie) (v : Nat) : HDie := (h.wr Reg.FWU_RINGMOT_VAL v).showMotion

/-! ### Host memory, as the hub has written it -/

/-- Place one byte, keeping addresses strictly rising. -/
def cellPut : List Host.Cell → Nat → Byte → List Host.Cell
  | [], a, b => [(a, b)]
  | (x, c) :: r, a, b => if a < x then (a, b) :: (x, c) :: r else if a = x then (a, b) :: r else (x, c) :: cellPut r a b

/-- Place consecutive bytes. -/
def cellsPut (m : List Host.Cell) (a : Nat) : List Byte → List Host.Cell
  | [] => m
  | b :: bs => cellsPut (cellPut m a b) (a + 1) bs

/-- What the hub last wrote at a host address; none where it has written nothing. -/
def cellGet : List Host.Cell → Nat → Option Byte
  | [], _ => none
  | (x, c) :: r, a => if x = a then some c else cellGet r a

/-- The form of the host memory record: addresses strictly rising. -/
def Memory.wf : List Host.Cell → Bool
  | [] => true
  | [_] => true
  | (a, _) :: (b, c) :: r => a < b && Memory.wf ((b, c) :: r)

/-- The hub writes bytes to host memory by DMA. -/
def HDie.dma (h : HDie) (a : Nat) (bs : List Byte) : HDie :=
  { h with hostq.hostMem := cellsPut h.hostq.hostMem a bs }

/-! ### Completion and event queues -/

/-- The context of completion queue `q`, or of the event queue as 64; a queue not listed has nothing unsignalled. -/
def HDie.cq (h : HDie) (q : Nat) : CqCtx :=
  (h.hostq.cqs.find? fun c => c.q == q).getD { q := q, head := 0, unsig := 0, since := 0 }

/-- Replace the context of a completion queue. -/
def HDie.setCq (h : HDie) (c : CqCtx) : HDie :=
  { h with hostq.cqs := c :: h.hostq.cqs.filter fun d => d.q != c.q }

/-- The registers of completion queue `q`, or of the event queue as 64: EN, LOG2SIZE, VEC, IEN, MOD.COUNT, MOD.TIMER,
TAIL, PHASE, ARMED, HALT, stall count, base. -/
structure CqRegs where
  en : Fld
  log2 : Fld
  vec : Fld
  ien : Fld
  cnt : Fld
  timer : Fld
  tail : Fld
  phase : Fld
  armed : Fld
  halt : Fld
  stall : Fld
  base : Fld

/-- The register names of a completion queue (Table 3.15). -/
def cqRegs (q : Nat) : CqRegs :=
  if q = 64 then
    ⟨Reg.PCI_EQCFG_EN, Reg.PCI_EQCFG_LOG2SIZE, Reg.PCI_EQCFG_VEC, Reg.PCI_EQCFG_IEN, Reg.PCI_EQMOD_COUNT,
      Reg.PCI_EQMOD_TIMER, Reg.PCI_EQSTAT_TAIL, Reg.PCI_EQSTAT_PHASE, Reg.PCI_EQSTAT_ARMED, Reg.PCI_EQSTAT_HALT,
      Reg.PCI_EQSTALL_COUNT, Reg.PCI_EQBASE_ADDR⟩
  else
    ⟨Reg.PCI_CQCFG_EN q, Reg.PCI_CQCFG_LOG2SIZE q, Reg.PCI_CQCFG_VEC q, Reg.PCI_CQCFG_IEN q, Reg.PCI_CQMOD_COUNT q,
      Reg.PCI_CQMOD_TIMER q, Reg.PCI_CQSTAT_TAIL q, Reg.PCI_CQSTAT_PHASE q, Reg.PCI_CQSTAT_ARMED q,
      Reg.PCI_CQSTAT_HALT q, Reg.PCI_CQSTALL_COUNT q, Reg.PCI_CQBASE_ADDR q⟩

/-- Entries of a completion or event queue (R58). -/
def HDie.cqSize (h : HDie) (q : Nat) : Nat := 2 ^ h.rd (cqRegs q).log2

/-- Unreleased entries of a queue: at most size − 1 (R64). -/
def HDie.cqFull (h : HDie) (q : Nat) : Bool :=
  let n := h.cqSize q
  (h.rd (cqRegs q).tail + n - (h.cq q).head) % n + 1 == n

/-- Signal an MSI-X vector (R89): a masked vector sets its pending bit instead. -/
def HDie.signal (h : HDie) (v : Nat) : HDie :=
  if h.hostq.msixOpen.contains v then { h with hostq.msixSent := h.hostq.msixSent ++ [v] }
  else { h with hostq.msixPend := if h.hostq.msixPend.contains v then h.hostq.msixPend else v :: h.hostq.msixPend }

/-- Signal the queue's vector and disarm it (R89, R90): a queue with IEN 0 signals nothing. -/
def HDie.fire (h : HDie) (q : Nat) : HDie :=
  let r := cqRegs q
  if h.on r.ien then
    let h1 := (h.signal (h.rd r.vec)).wr r.armed 0
    h1.setCq { h1.cq q with unsig := 0 }
  else h

/-- An armed queue signals once its unsignalled entries reach MOD.COUNT, or at once when TIMER is 0 (R90). -/
def HDie.moderate (h : HDie) (q : Nat) : HDie :=
  let r := cqRegs q
  let c := h.cq q
  if h.on r.armed && c.unsig != 0 && (h.rd r.timer == 0 || h.rd r.cnt ≤ c.unsig) then h.fire q else h

/-- Write one entry at the queue's tail, its phase bit in the last bit of its last byte, advance the tail, and moderate the
interrupt (R64, R85, R90). The queue has room. -/
def HDie.writeEntry (h : HDie) (q : Nat) (size : Nat) (entry : List Byte) : HDie :=
  let r := cqRegs q
  let n := h.cqSize q
  let t := h.rd r.tail
  let p := h.rd r.phase
  let body := leNat entry + p * 2 ^ (8 * size - 1)
  let h1 := h.dma (h.rd r.base + size * t) (leBytes size body)
  let t1 := (t + 1) % n
  let h2 := (h1.wr r.tail t1).wr r.phase (if t1 = 0 then 1 - p else p)
  let c := h2.cq q
  (h2.setCq { c with unsig := c.unsig + 1, since := if c.unsig = 0 then h2.tb.now else c.since }).moderate q

/-- The 32 bytes of an event entry, phase 0 (Table 3.12). -/
def evBytes (e : Ev) : List Byte :=
  leBytes 4 (e.kind + e.func % 16 * 256 + b2n e.ha * 4096 + min e.count 0xFFFF * 65536)
    ++ leBytes 4 e.cookie ++ leBytes 8 (timeWord e.time) ++ leBytes 8 e.detail0 ++ leBytes 8 (e.detail1 % 2 ^ 32)

/-- Whether the event queue can take an entry now. -/
def HDie.eqReady (h : HDie) : Bool :=
  h.on Reg.PCI_EQCFG_EN && !h.on Reg.PCI_EQSTAT_HALT && h.pcieUp && !h.cqFull 64

/-- Mark the request whose HA_REQUEST entry is being written as posted (R66). -/
def markPosted (rs : List HaReq) (e : Ev) : List HaReq :=
  rs.map fun (r : HaReq) => if e.kind == 1 && r.func == e.func && r.cookie == e.cookie then { r with posted := true } else r

/-- Post waiting events, oldest first, while the event queue has room (R66, R87). -/
def drainEvents : Nat → HDie → HDie
  | 0, h => h
  | n + 1, h =>
    match h.hostq.events with
    | [] => h
    | e :: r =>
      if h.eqReady then
        drainEvents n ({ h with hostq.events := r,
                                spl.reqs := markPosted h.spl.reqs e }.writeEntry 64 32 (evBytes e))
      else h

/-- Drain every waiting event that has room. -/
def HDie.drain (h : HDie) : HDie := drainEvents h.hostq.events.length h

/-- DETAIL0 of a merged entry: of the first event; of watermark notices the crossings add up, the peak is the larger, the depth the last (R182; log 154). -/
def mergeDetail (x e : Ev) : Nat :=
  if e.kind != 4 then x.detail0
  else min (x.detail0 % 2 ^ 16 + e.detail0 % 2 ^ 16) 0xFFFF + max (fieldOf x.detail0 16 16) (fieldOf e.detail0 16 16) * 2 ^ 16
    + fieldOf e.detail0 32 16 * 2 ^ 32

/-- Add an event to those waiting: events of the same source and kind merge, HA_REQUEST entries never (R66). -/
def mergeEv (es : List Ev) (e : Ev) : List Ev :=
  if e.kind != 1 && es.any (fun x => x.kind == e.kind && x.origin == e.origin) then
    mapFirst (fun x => x.kind == e.kind && x.origin == e.origin) (fun x => { x with count := min (x.count + e.count) 0xFFFF, detail0 := mergeDetail x e }) es
  else es ++ [e]

/-- Post an event (R66, R87): of a masked kind it is discarded at its source; while the queue has no free entry it stays
pending, and the stall is counted. -/
def HDie.post (h : HDie) (e : Ev) : HDie :=
  if e.kind != 1 && (h.rd Reg.PCI_EQMASK_KINDS >>> (e.kind - 2)) % 2 == 0 then h
  else
    let h0 := if h.on Reg.PCI_EQCFG_EN && !h.on Reg.PCI_EQSTAT_HALT && h.cqFull 64 then h.bump Reg.PCI_EQSTALL_COUNT else h
    ({ h0 with hostq.events := mergeEv h0.hostq.events e }).drain

/-- An event of a kind with its details, from source `origin`, at the present time. -/
def HDie.event (h : HDie) (kind origin detail0 detail1 : Nat) : HDie :=
  h.post { kind := kind, func := 0, ha := false, origin := origin, count := 1, cookie := 0, time := h.tb.now,
           detail0 := detail0, detail1 := detail1 }

/-- A QUEUE_ERROR event (Table 3.13): type 0 SQ, 1 CQ, 2 EQ. -/
def HDie.queueError (h : HDie) (typ q cause value : Nat) : HDie :=
  h.event 8 (typ * 64 + q) (q % 64 + typ * 64 + cause * 256 + value % 65536 * 65536) 0

/-! ### Faults -/

/-- A detector's fault message without an access (Table 16.3: MASTER 0xFF, ACCESS 0xF). -/
def plainFault (source kind detail time : Nat) : FaultMsg :=
  { source := source, kind := kind, master := 0xFF, access := 0xF, conseq := false, injected := false, react := true,
    addrValid := false, addr := 0, time := time, detail := detail }

/-- An H-die detector reports a fault: the message waits at the collector (R373, R375). -/
def HDie.report (h : HDie) (m : FaultMsg) : HDie := { h with flt.inbox := h.flt.inbox ++ [m] }

/-- A fault without an access, detected now. -/
def HDie.fault (h : HDie) (source kind detail : Nat) : HDie := h.report (plainFault source kind detail (timeWord h.tb.now))

/-- A fault of the ring bridge source (14) with an access (R204, R202, Table 16.4). -/
def HDie.bridgeFault (h : HDie) (kind master access addr status peer rnum time : Nat) : HDie :=
  h.report { source := 14, kind := kind, master := master, access := access, conseq := false, injected := false, react := true,
             addrValid := true, addr := addr, time := timeWord time, detail := status + peer * 2 ^ 16 + rnum * 2 ^ 32 }

/-! ### The function split -/

/-- A hub is present: its latest PATH_STATE is not too old (R151). -/
def HDie.present (h : HDie) (n : Nat) : Bool := h.red.paths.any fun p => p.hub == n && !p.absent

/-- Function f is ON, and its place is there to answer it: its mode now, 0 HW, 1 HA-core, 2 HA-host (R33, R397, R400, R401). -/
def HDie.modeOf (h : HDie) (f : Nat) : Nat :=
  let mode := h.rd (Reg.SPL_FCFG_MODE f)
  let peer := h.rd (Reg.SPL_FCFG_PEER f)
  if 16 ≤ f || h.rd (Reg.SPL_FSTAT_STATE f) != 2 || h.on (Reg.SPL_FSTAT_HWSERVE f) then 0
  else if mode == 1 && peer != 0x7F && !h.present peer then 0
  else mode

/-- Requests of function f outstanding (R396). -/
def HDie.outstanding (h : HDie) (f : Nat) : Nat := (h.spl.reqs.filter fun r => r.func == f).length

/-- What the bucket of function f holds now, fractions of a token kept, in units of a token over the 2^-32 ns of a second (R396). A bucket never used is
full. -/
def HDie.bucket (h : HDie) (f : Nat) : Nat :=
  let full := min 64 (max 1 (h.rd (Reg.SPL_FRATE_BURST f))) * secT
  match h.spl.buckets.find? fun b => b.1 == f with
  | none => full
  | some (_, t, at_) => min full (t + (h.tb.now - at_) * min 200000 (max 1 (h.rd (Reg.SPL_FRATE_RATE f))))

/-- The whole tokens in the bucket of function f now (R396). -/
def HDie.tokens (h : HDie) (f : Nat) : Nat := h.bucket f / secT

/-- The next cookie of function f that names no outstanding request (R394). -/
def freshCookie (h : HDie) (f : Nat) : Nat → Nat → Nat
  | 0, c => c
  | n + 1, c => if h.spl.reqs.any fun r => r.func == f && r.cookie == c then freshCookie h f n ((c + 1) % 2 ^ 32) else c

/-- Whether function f may issue a request now: in HA mode, under 64 outstanding, and a token in its bucket (R396). -/
def HDie.mayAsk (h : HDie) (f : Nat) : Bool :=
  h.modeOf f != 0 && h.outstanding f < 64 && h.tokens f != 0

/-- Issue a request of function f about `ctx` (R394): a new COOKIE, a token spent, and the entry to the event queue in
HA-host mode, to the management core in HA-core mode, or to the peer's core by an EVENT frame (R397). -/
def HDie.ask (h : HDie) (f detail0 detail1 ctx : Nat) : HDie :=
  let c := freshCookie h f 64 (aget h.spl.cookies f 0)
  let mode := h.modeOf f
  let e : Ev := { kind := 1, func := f, ha := f != 10, origin := f, count := 1, cookie := c, time := h.tb.now,
                  detail0 := detail0, detail1 := detail1 }
  let r : HaReq := { func := f, cookie := c, detail0 := detail0, detail1 := detail1, ctx := ctx, time := h.tb.now,
                     place := mode, posted := false }
  let h1 := { h with spl.cookies := aput h.spl.cookies f ((c + 1) % 2 ^ 32),
                     spl.buckets := (f, h.bucket f - secT, h.tb.now) :: h.spl.buckets.filter (fun b => b.1 != f),
                     spl.reqs := if f == 10 then h.spl.reqs else h.spl.reqs ++ [r] }
  let h2 := (h1.bump (Reg.SPL_FCNT_REQ f)).wr (Reg.SPL_FSTAT_OUT f) ((h1.spl.reqs.filter fun x => x.func == f).length)
  if mode == 2 then h2.post e
  else if h2.rd (Reg.SPL_FCFG_PEER f) != 0x7F then
    { h2 with spl.peerOut := h2.spl.peerOut ++ [(h2.rd (Reg.SPL_FCFG_PEER f), e)] }
  else { h2 with spl.coreIn := h2.spl.coreIn ++ [e] }

/-- Remove an outstanding request, keeping SPL_FSTAT_f.OUT (R395). -/
def HDie.dropReq (h : HDie) (f cookie : Nat) : HDie :=
  let h1 := { h with spl.reqs := h.spl.reqs.filter fun r => !(r.func == f && r.cookie == cookie),
                     hostq.events := h.hostq.events.filter fun e => !(e.kind == 1 && e.func == f && e.cookie == cookie) }
  h1.wr (Reg.SPL_FSTAT_OUT f) (h1.outstanding f)

/-- The requests of function f about `ctx` meet the event that is their deadline (Table 17.1): each takes its default, which is counted (R395). -/
def HDie.lapse (h : HDie) (f ctx : Nat) : HDie :=
  (h.spl.reqs.filter fun r => r.func == f && r.ctx == ctx).foldl (fun g r => (g.dropReq f r.cookie).bump (Reg.SPL_FCNT_DEFAULTED f)) h

/-- Withdraw every outstanding request of function f (R400, R401): each is counted, and is decided as in HW. -/
def HDie.withdraw (h : HDie) (f : Nat) : HDie :=
  let mine := h.spl.reqs.filter fun r => r.func == f
  let h1 := mine.foldl (fun g r => (g.dropReq f r.cookie).bump (Reg.SPL_FCNT_DEFAULTED f)) h
  { h1 with spl.owed := h1.spl.owed ++ mine }

/-- The place of function f is gone (R33, R397): the core does not run, or has not confirmed its health; a peer is absent; or the PCIe link is
down. -/
def HDie.placeGone (h : HDie) (f : Nat) : Bool :=
  let peer := h.rd (Reg.SPL_FCFG_PEER f)
  match h.rd (Reg.SPL_FCFG_MODE f) with
  | 1 => if peer == 0x7F then !(h.coreRuns && h.boot.coreOk) else !h.present peer
  | 2 => !h.pcieUp
  | _ => false

/-- The place of function f is there again: for the host, once the event queue is enabled too (R33). -/
def HDie.placeBack (h : HDie) (f : Nat) : Bool :=
  !h.placeGone f && (h.rd (Reg.SPL_FCFG_MODE f) != 2 || h.on Reg.PCI_EQCFG_EN)

/-- FUNCTION_HW_SERVE (R401) of function f: an ON function whose place is gone is served in HW, its requests withdrawn; when the place returns, its
requests resume with a full bucket. -/
def HDie.serve (h : HDie) (f : Nat) : HDie :=
  if h.rd (Reg.SPL_FSTAT_STATE f) != 2 then h
  else if h.on (Reg.SPL_FSTAT_HWSERVE f) then
    if h.placeBack f then
      { (h.wr (Reg.SPL_FSTAT_HWSERVE f) 0).wr (Reg.SPL_FSTAT_SERVED f) (h.rd (Reg.SPL_FCFG_MODE f)) with
        spl.buckets := h.spl.buckets.filter fun b => b.1 != f }
    else h
  else if h.placeGone f then ((h.withdraw f).wr (Reg.SPL_FSTAT_HWSERVE f) 1).wr (Reg.SPL_FSTAT_SERVED f) 0
  else h

/-- Every function is served where it can be (R33, R401). -/
def HDie.serveAll (h : HDie) : HDie := (upto 16).foldl (fun g f => g.serve f) h

end Sys2Proof.Machine
end

