-- ==== Sys2Proof/Machine/Mem.lean ====
section
/-! DEFINITION. Stored-data integrity (chapter 15) as either die applies it to its memory instances: checked reads (R359, R360), valid-bit votes
(R361), the merge buffer (R362, R363), scrubbing (R364), remapping (R365, R367) and injection (R368). The words themselves stand in the
structures that use them; an instance keeps which of them have wrong check bits. -/
namespace Sys2Proof.Machine

/-- A fault of a memory instance, before its die reports it. -/
structure MemFault where
  inst   : Nat
  kind   : Nat
  addr   : Nat
  master : Nat
  access : Nat
  inj    : Bool

/-- A remap candidate (R367). `cause`: 0 HARD, 1 threshold. -/
structure MemCand where
  inst  : Nat
  addr  : Nat
  cause : Nat

/-! ### Ranges of addresses, rising and apart -/

/-- The addresses of a list of ranges with those of [a, b). -/
def rangeAdd (a b : Nat) : List (Nat × Nat) → List (Nat × Nat)
  | [] => [(a, b)]
  | (x, y) :: r => if b < x then (a, b) :: (x, y) :: r else if y < a then (x, y) :: rangeAdd a b r else rangeAdd (min a x) (max b y) r

/-- Whether an address lies in one of the ranges. -/
def rangeHas (l : List (Nat × Nat)) (a : Nat) : Bool := l.any fun e => decide (e.1 ≤ a) && decide (a < e.2)

/-- The first address from `a` on in one of the ranges. -/
def rangeNext (l : List (Nat × Nat)) (a : Nat) : Option Nat := (l.find? fun e => decide (a < e.2)).map fun e => max a e.1

/-- How many addresses the ranges hold. -/
def rangeCount (l : List (Nat × Nat)) : Nat := (l.map fun e => e.2 - e.1).sum

/-! ### An instance at work -/

/-- The memory instances of a die at work: its registers and contexts, the time and CE_WIN_MS, the master of the access that they serve (0xFF: the
hub itself), and what is to be counted, reported and decided. -/
structure Mem where
  master  : Nat
  regs    : Regs
  ctxs    : List MemCtx
  now     : Nat
  win     : Nat
  ces     : Nat
  ues     : Nat
  refused : Bool
  faults  : List MemFault
  cands   : List MemCand

/-- A field of a memory register. -/
def Mem.rd (m : Mem) (F : Fld) : Nat := regGet m.regs F

/-- Set a field of a memory register. -/
def Mem.wr (m : Mem) (F : Fld) (v : Nat) : Mem := { m with regs := regPut m.regs F v }

/-- Count in a saturating counter. -/
def Mem.bump (m : Mem) (F : Fld) : Mem := { m with regs := regBump m.regs F 1 }

/-- The context of instance i; one not listed holds nothing. -/
def Mem.ctx (m : Mem) (i : Nat) : MemCtx :=
  (m.ctxs.find? fun c => c.inst == i).getD
    { inst := i, valid := [], merge := [], bad := [], stuck := [], ces := [], asked := [], period := none }

/-- Replace the context of an instance; MERGE_USED shows its entries. -/
def Mem.setCtx (m : Mem) (c : MemCtx) : Mem :=
  ({ m with ctxs := c :: m.ctxs.filter fun d => d.inst != c.inst }).wr (Reg.MEM_ISTAT_MERGE_USED c.inst) c.merge.length

/-- Check bits of an instance: class B 10, class T 8 (R358). -/
def checkBits (i : Nat) : Nat := if memClass i = 1 then 10 else 8

/-- The poison pattern of an instance: more than one check bit is wrong (R363, R365). -/
def poison (i : Nat) : Nat := 2 ^ checkBits i - 1

/-- Bits set in a number of ten bits. -/
def ones10 (v : Nat) : Nat := ((upto 10).map fun k => fieldOf v k 1).sum

/-- Whether the error at an address was injected (R368). -/
def Mem.injected (m : Mem) (i a : Nat) : Bool := m.rd (Reg.MEM_IINJREC_VALID i) != 0 && m.rd (Reg.MEM_IINJREC_ADDR i) == a

/-- Report a fault of instance i. -/
def Mem.fault (m : Mem) (i kind a access : Nat) : Mem :=
  { m with faults := m.faults ++ [{ inst := i, kind := kind, addr := a, master := m.master, access := access, inj := m.injected i a }] }

/-- MEM_ILAST_i records an error. -/
def Mem.last (m : Mem) (i a : Nat) (ue : Bool) : Mem :=
  (((m.wr (Reg.MEM_ILAST_ADDR i) a).wr (Reg.MEM_ILAST_UE i) (b2n ue)).wr (Reg.MEM_ILAST_INJ i) (b2n (m.injected i a))).wr (Reg.MEM_ILAST_VALID i) 1

/-- A word becomes a remap candidate (R367), once: one that SCB is asked about is not asked about again (Table 15.4). -/
def Mem.candidate (m : Mem) (i a cause : Nat) : Mem :=
  if (m.ctx i).asked.contains a || m.cands.any (fun c => c.inst == i && c.addr == a) then m else { m with cands := m.cands ++ [{ inst := i, addr := a, cause := cause }] }

/-- A corrected error (R359): counted; its fault is not raised again within 1 ms at the address that MEM_ILAST_i holds. With CE_THR of them at
one address within CE_WIN_MS the word becomes a candidate (R367). -/
def Mem.corrected (m : Mem) (i a access : Nat) : Mem :=
  let c := m.ctx i
  let again := m.rd (Reg.MEM_ILAST_VALID i) == 1 && m.rd (Reg.MEM_ILAST_ADDR i) == a &&
    (match c.ces.find? fun e => e.1 == a with
      | some e => decide (m.now < e.2 + ofMs 1)
      | none => false)
  let m1 := ((({ m with ces := m.ces + 1 }.bump (Reg.MEM_ICNT_CE i)).wr (Reg.MEM_IEVT_CE i) 1).last i a false)
  let m2 := if again then m1 else m1.fault i 0x10 a access
  let ces := (a, m.now) :: c.ces.filter fun e => decide (m.now ≤ e.2 + ofMs (max 1 m.win))
  let m3 := m2.setCtx { m2.ctx i with ces := ces }
  if max 1 (m.rd (Reg.MEM_ICFG_CE_THR i)) ≤ (ces.filter fun e => e.1 == a).length then m3.candidate i a 1 else m3

/-- An uncorrectable error (R359). -/
def Mem.uncorrectable (m : Mem) (i a access : Nat) : Mem :=
  (((({ m with ues := m.ues + 1 }.bump (Reg.MEM_ICNT_UE i)).wr (Reg.MEM_IEVT_UE i) 1).last i a true).fault i 0x11 a access)

/-- Whether a merge entry holds a word. -/
def Mem.merging (m : Mem) (i a : Nat) : Bool := (m.ctx i).merge.any fun e => e.addr == a

/-- The word that holds the data of an address: the spare of an enabled remap entry, else the word itself (R365). -/
def Mem.word (m : Mem) (i a : Nat) : Nat :=
  if m.rd (Reg.MEM_ISTAT_REMAP_USED i) = 0 then a
  else match (upto 8).find? fun k => m.rd (Reg.MEM_IRMP_EN i k) == 1 && m.rd (Reg.MEM_IRMP_ADDR i k) == a with
    | some k => memWords i + k
    | none => a

/-- Whether the valid bit of an address is set (R361). The valid bit of a spare in use is that of its address. -/
def Mem.isValid (m : Mem) (i a : Nat) : Bool := rangeHas (m.ctx i).valid a

/-- The check bits of an address become wrong, those of a mask inverted; with none, right. -/
def Mem.setBad (m : Mem) (i a mask : Nat) : Mem :=
  let c := m.ctx i
  m.setCtx { c with bad := if mask = 0 then adel c.bad (m.word i a) else aput c.bad (m.word i a) mask }

/-- A corrected word has been written back and is read again (R360): one whose error persists is hard. `again`: a cell of it has just failed for good. -/
def Mem.reread (m : Mem) (i a access : Nat) (again : Bool) : Mem :=
  let c := m.ctx i
  let w := m.word i a
  if c.stuck.contains w then ((m.wr (Reg.MEM_IEVT_HARD i) 1).fault i 0x12 a access).candidate i a 0
  else if again then (((m.setCtx { c with stuck := w :: c.stuck }).wr (Reg.MEM_IEVT_HARD i) 1).fault i 0x12 a access).candidate i a 0
  else m

/-- A read is checked (R359 to R361): nothing is checked while the valid bit is clear. `found` is what upset the word since it was written, beside what State holds
of it (0 nothing, 1 one bit, 2 more); `vote`, that its three valid bits disagree, which counts as a corrected error; `again`, that the corrected word reads wrong
once more. The flag says that the word is uncorrectable. -/
def Mem.read (m : Mem) (i a access found : Nat) (again vote : Bool) : Mem × Bool :=
  if !m.isValid i a then (m, false)
  else
    let m0 := if vote then (m.corrected i a access).wr (Reg.MEM_IEVT_VOTE i) 1 else m
    let w := m0.word i a
    let n := min 2 (found + ones10 (aget (m0.ctx i).bad w 0) + b2n ((m0.ctx i).stuck.contains w))
    if n = 0 then (m0, false)
    else if n = 2 then ((if found = 0 then m0 else m0.setBad i a (poison i)).uncorrectable i a access, true)
    else
      let m1 := m0.corrected i a access
      if m1.merging i a then (if found = 0 then m1 else m1.setBad i a 1, false)
      else ((m1.setBad i a 0).reread i a access again, false)

/-- A word is written with inverted check bits, as ARM or REWRITE asks (R368). -/
def Mem.injectAt (m : Mem) (i a : Nat) : Mem :=
  ((m.setBad i a (m.rd (Reg.MEM_IINJ_MASK i) % 2 ^ checkBits i)).wr (Reg.MEM_IINJREC_ADDR i) a).wr (Reg.MEM_IINJREC_VALID i) 1

/-- The valid bits of `n` addresses from `a` on are set (R361). -/
def Mem.validate (m : Mem) (i a n : Nat) : Mem :=
  let c := m.ctx i
  if n = 0 || c.valid.any (fun e => decide (e.1 ≤ a) && decide (a + n ≤ e.2)) then m
  else { m with ctxs := { c with valid := rangeAdd a (a + n) c.valid } :: m.ctxs.filter fun d => d.inst != i }

/-- A whole word is written (R361, R362, R368): its valid bit is set; it discards a merge entry of the word, ends an injection there, and ends a poisoned spare
(R365). -/
def Mem.write (m : Mem) (i a : Nat) : Mem :=
  let c := m.ctx i
  let m1 := ((m.setCtx { c with merge := c.merge.filter fun e => e.addr != a }).setBad i a 0).validate i a 1
  let m2 := (upto 8).foldl
    (fun x k => if x.rd (Reg.MEM_IRMP_EN i k) == 1 && x.rd (Reg.MEM_IRMP_ADDR i k) == a then x.wr (Reg.MEM_IRMP_POISON i k) 0 else x) m1
  if m2.rd (Reg.MEM_IINJ_ARM i) == 1 && (m2.rd (Reg.MEM_IINJ_ADDR_EN i) == 0 || m2.rd (Reg.MEM_IINJ_ADDR i) == a) then
    (m2.wr (Reg.MEM_IINJ_ARM i) 0).injectAt i a
  else if m2.injected i a then m2.wr (Reg.MEM_IINJREC_VALID i) 0
  else m2

/-- Words `a` to `a` + `n` − 1 are read: uncorrectable where one of them is. -/
def Mem.reads (i access : Nat) : Nat → Nat → Mem → Mem × Bool
  | 0, _, m => (m, false)
  | n + 1, a, m =>
    let r := m.read i a access 0 false false
    let t := Mem.reads i access n (a + 1) r.1
    (t.1, r.2 || t.2)

/-- Nothing about an instance but its valid bits awaits an access: no wrong or failed word, no merge entry, no remapped word, no injection. -/
def Mem.idle (m : Mem) (i : Nat) : Bool :=
  let c := m.ctx i
  c.merge.isEmpty && c.bad.isEmpty && c.stuck.isEmpty && m.rd (Reg.MEM_ISTAT_REMAP_USED i) == 0 && m.rd (Reg.MEM_IINJ_ARM i) == 0 &&
    m.rd (Reg.MEM_IINJREC_VALID i) == 0

/-- Words `a` to `a` + `n` − 1 are written whole. -/
def Mem.writes (m : Mem) (i a n : Nat) : Mem := if m.idle i then m.validate i a n else (upto n).foldl (fun x k => x.write i (a + k)) m

/-- Words 0 to `n` − 1 of instance i are written whole, and the valid bits of the rest are cleared (R409): no word is wrong but the one that ARM then injects (R368),
and no spare of a word written is poisoned (R365). -/
def Mem.refill (m : Mem) (i n : Nat) : Mem :=
  let fill := fun (x : Mem) => ({ x with ctxs := x.ctxs.map fun c => if c.inst == i then { c with valid := [] } else c } : Mem).validate i 0 n
  if m.idle i then fill m
  else
    let m1 := fill ((m.setCtx { m.ctx i with merge := [], bad := [] }).wr (Reg.MEM_IINJREC_VALID i) 0)
    let m2 := (upto 8).foldl
      (fun x k => if x.rd (Reg.MEM_IRMP_EN i k) == 1 && decide (x.rd (Reg.MEM_IRMP_ADDR i k) < n) then x.wr (Reg.MEM_IRMP_POISON i k) 0 else x) m1
    let a := if m2.rd (Reg.MEM_IINJ_ADDR_EN i) == 0 then 0 else m2.rd (Reg.MEM_IINJ_ADDR i)
    if m2.rd (Reg.MEM_IINJ_ARM i) == 1 && decide (a < n) then (m2.wr (Reg.MEM_IINJ_ARM i) 0).injectAt i a else m2

/-- A merge entry is written back (R362, R363): an old word that is uncorrectable leaves a poisoned one behind. -/
def Mem.writeBack (m : Mem) (i : Nat) (e : MergeEnt) (found : Nat) : Mem :=
  let c := m.ctx i
  let r := (m.setCtx { c with merge := c.merge.filter fun x => x.addr != e.addr }).read i e.addr 0xD found false false
  if r.2 then (r.1.wr (Reg.MEM_IEVT_MERGE_UE i) 1).setBad i e.addr (poison i) else r.1.write i e.addr

/-- A narrow write (R362): its entry gathers the bytes; one that is then complete is written back, and a ninth address evicts the oldest. -/
def Mem.narrow (m : Mem) (i a mask : Nat) : Mem :=
  let c := m.ctx i
  let e : MergeEnt := { addr := a, mask := (((c.merge.find? fun e => e.addr == a).map fun e => e.mask).getD 0) ||| mask, since := m.now }
  if e.mask = 255 then m.writeBack i e 0
  else
    let rest := c.merge.filter fun x => x.addr != a
    let m1 := match rest with
      | o :: _ => if 8 ≤ rest.length then m.writeBack i o 0 else m
      | [] => m
    let c1 := m1.ctx i
    m1.setCtx { c1 with merge := (c1.merge.filter fun x => x.addr != a) ++ [e] }

/-- Write back every entry of instance i. -/
def writeBacks (i : Nat) : List MergeEnt → Mem → Mem
  | [], m => m
  | e :: es, m => writeBacks i es (m.writeBack i e 0)

/-- A scrub read (R364) of the next valid word; one that a merge entry holds is skipped. A pass ends with the last valid word. A pass that cannot finish within
`period` ms at one word for each µs is slow. -/
def Mem.scrub (m : Mem) (i period found : Nat) (again vote : Bool) : Mem :=
  let v := (m.ctx i).valid
  match (rangeNext v (m.rd (Reg.MEM_ISCRUB_POS i))).or (rangeNext v 0) with
  | none => m
  | some a =>
    if m.rd (Reg.MEM_ICFG_SCRUB_EN i) == 0 || m.rd (Reg.MEM_ISTAT_PRESENT i) == 0 then m
    else
      let past := (rangeNext v (a + 1)).isNone
      let m1 := ((m.wr (Reg.MEM_ISCRUB_POS i) ((rangeNext v (a + 1)).getD ((rangeNext v 0).getD 0))).wr (Reg.MEM_ISCRUB_PASSES i)
        (m.rd (Reg.MEM_ISCRUB_PASSES i) + b2n (decide (a < m.rd (Reg.MEM_ISCRUB_POS i))) + b2n past)).wr (Reg.MEM_ISTAT_SCRUB_SLOW i)
          (b2n (decide (1000 * period < rangeCount v)))
      if m1.merging i a then m1 else (m1.read i a 0xC found again vote).1

/-! ### Remapping -/

/-- Entries enabled. -/
def Mem.used (m : Mem) (i : Nat) : Nat := ((upto 8).filter fun k => m.rd (Reg.MEM_IRMP_EN i k) == 1).length

/-- REMAP_USED shows the enabled entries; a free one ends REMAP_FULL. -/
def Mem.showUsed (m : Mem) (i : Nat) : Mem :=
  let m1 := m.wr (Reg.MEM_ISTAT_REMAP_USED i) (m.used i)
  if m.used i < 8 then m1.wr (Reg.MEM_ISTAT_REMAP_FULL i) 0 else m1

/-- An address becomes free of its history of corrected errors (Table 15.3). -/
def Mem.forgive (m : Mem) (i a : Nat) : Mem :=
  let c := m.ctx i
  { m.setCtx { c with ces := c.ces.filter fun e => e.1 != a } with cands := m.cands.filter fun x => !(x.inst == i && x.addr == a) }

/-- Enable entry k for address a (R365): the word is copied into spare k, and one that is uncorrectable leaves the spare poisoned. -/
def Mem.enable (m : Mem) (i k a : Nat) : Mem :=
  let r := m.read i a 0xE 0 false false
  let m1 := ((((r.1.wr (Reg.MEM_IRMP_ADDR i k) a).wr (Reg.MEM_IRMP_EN i k) 1).wr (Reg.MEM_IRMP_POISON i k) (b2n r.2)).showUsed i).forgive i a
  m1.setBad i a (if r.2 then poison i else 0)

/-- Clear EN of entry k (R365): spare k is copied back to its address, and one that is uncorrectable leaves that poisoned. -/
def Mem.disable (m : Mem) (i k : Nat) : Mem :=
  let a := m.rd (Reg.MEM_IRMP_ADDR i k)
  let r := m.read i a 0xE 0 false false
  (((r.1.wr (Reg.MEM_IRMP_EN i k) 0).wr (Reg.MEM_IRMP_POISON i k) 0).showUsed i).setBad i a (if r.2 then poison i else 0)

/-- Whether an enabled entry other than k holds an address. -/
def Mem.holds (m : Mem) (i k a : Nat) : Bool :=
  (upto 8).any fun j => j != k && m.rd (Reg.MEM_IRMP_EN i j) == 1 && m.rd (Reg.MEM_IRMP_ADDR i j) == a

/-- A write of MEM_IRMP_i_k (R365): refused where it changes ADDR while EN is 1, or enables an address that another entry holds. -/
def Mem.remapWrite (m : Mem) (i k v : Nat) : Mem :=
  let a := fieldOf v 0 17
  let en := bitOf v 31
  let was := m.rd (Reg.MEM_IRMP_EN i k) == 1
  if was && a != m.rd (Reg.MEM_IRMP_ADDR i k) then { m with refused := true }
  else if en && !was && m.holds i k a then { m with refused := true }
  else if en && !was then m.enable i k a
  else if was && !en then m.disable i k
  else m.wr (Reg.MEM_IRMP_ADDR i k) a

/-- A candidate is remapped into the lowest free entry (Table 15.3), but no address into two; with none free the instance is full (R367). The flag says that it
is. -/
def Mem.remap (m : Mem) (i a : Nat) : Mem × Bool :=
  if m.holds i 8 a then (m, false)
  else match (upto 8).find? fun k => m.rd (Reg.MEM_IRMP_EN i k) == 0 with
  | some k => ((m.enable i k a).wr (Reg.MEM_IEVT_REMAPPED i) 1, false)
  | none => ((m.wr (Reg.MEM_ISTAT_REMAP_FULL i) 1).fault i 0x13 a 0xE, true)

/-- A write of MEM_IINJ_i (R368). REWRITE acts at once, unless the valid bit of the word is clear. -/
def Mem.injWrite (m : Mem) (i v : Nat) : Mem :=
  let m1 := (((m.wr (Reg.MEM_IINJ_ADDR i) (fieldOf v 0 17)).wr (Reg.MEM_IINJ_ADDR_EN i) (fieldOf v 17 1)).wr (Reg.MEM_IINJ_ARM i)
    (fieldOf v 18 1)).wr (Reg.MEM_IINJ_MASK i) (fieldOf v 20 10)
  if bitOf v 19 && m.isValid i (fieldOf v 0 17) then m1.injectAt i (fieldOf v 0 17) else m1

/-- What a reset leaves of the instances: no word is valid; a cell that has failed stays so. -/
def memsReset (cs : List MemCtx) : List MemCtx :=
  (cs.filter fun c => !c.stuck.isEmpty).map fun c =>
    { inst := c.inst, valid := [], merge := [], bad := [], stuck := c.stuck, ces := [], asked := [], period := none }

/-! ### On the host die -/

/-- The host die's instances at work. -/
def HDie.mem (h : HDie) : Mem :=
  { master := 0xFF, regs := h.regs, ctxs := h.mems, now := h.tb.now, win := h.rd Reg.MEM_CFG_CE_WIN_MS, ces := 0, ues := 0, refused := false, faults := [],
    cands := [] }

/-- The same, at work for an access of a master (R202). -/
def HDie.memFor (h : HDie) (master : Nat) : Mem := { h.mem with master := master }

/-- A fault message of a memory instance; the syndrome is open (log 5). -/
def memFaultMsg (f : MemFault) (syn time : Nat) : FaultMsg :=
  { source := 512 + f.inst, kind := f.kind, master := f.master, access := f.access, conseq := false, injected := f.inj, react := true,
    addrValid := true, addr := f.addr, time := time, detail := if f.kind == 0x13 then 0 else syn % 1024 }

/-- Report faults of memory instances on the host die. -/
def memReports : List MemFault → HDie → HDie
  | [], h => h
  | f :: fs, h =>
    memReports fs ({ h with free := h.free + 1 }.report (memFaultMsg f (Config.freeValue h.free) (timeWord h.tb.now)))

/-- Corrected and uncorrectable errors of any instance are counted (R370). -/
def HDie.memCount (h : HDie) (ces ues : Nat) : HDie :=
  let h1 := (h.bump Reg.MEM_CETOT_COUNT ces).bump Reg.MEM_UETOT_COUNT ues
  if ues = 0 then h1 else h1.raise Reg.MEM_EVT_UE

/-- What the instances' work counts and reports, on the host die. -/
def HDie.memDone (h : HDie) (m : Mem) : HDie :=
  let h1 := memReports m.faults (({ h with regs := m.regs, mems := m.ctxs }).memCount m.ces m.ues)
  if m.refused then h1.raise Reg.MEM_EVT_CFG_REFUSED else h1

/-- SCB decides on a candidate of the host die as in HW (Table 15.3): it is remapped. -/
def HDie.memRemap (h : HDie) (i a : Nat) : HDie :=
  let r := h.mem.remap i a
  let h1 := h.memDone r.1
  if r.2 then h1.raise Reg.MEM_EVT_REMAP_FULL else h1

/-- DETAIL0 of an SCB request: the instance, the address and the cause (Table 17.1). -/
def scbDetail (i a cause : Nat) : Nat := i + a * 2 ^ 8 + cause * 2 ^ 25

/-- The SCB request about an address of instance i is noted, or is over. -/
def Mem.asking (m : Mem) (i a : Nat) (on : Bool) : Mem :=
  let c := m.ctx i
  let rest := c.asked.filter fun x => x != a
  m.setCtx { c with asked := if on then a :: rest else rest }

/-- A decision of SCB on a candidate (Table 15.3): 1 REMAP, 2 IGNORE, 3 SCRUB_MS. The flag says that the instance has no entry free. -/
def Mem.decide_ (m : Mem) (i a d arg : Nat) : Mem × Bool :=
  let m1 := m.asking i a false
  if d == 2 then (m1.forgive i a, false)
  else if d == 3 then (m1.setCtx { m1.ctx i with period := some (arg % 2 ^ 16) }, false)
  else m1.remap i a

/-- The scrub period of an instance in ms (R364). -/
def Mem.period (m : Mem) (i scrubMs : Nat) : Nat := (m.ctx i).period.getD scrubMs

/-- REMAP_CANDIDATE (R367): SCB decides, in HW at once; an event that finds no token is decided as in HW and counted (R396). -/
def HDie.scb (h : HDie) (c : MemCand) : HDie :=
  if h.modeOf 14 == 0 then h.memRemap c.inst c.addr
  else if h.mayAsk 14 then (h.memDone (h.mem.asking c.inst c.addr true)).ask 14 (scbDetail c.inst c.addr c.cause) 0 (c.inst + c.addr * 256)
  else (h.bump (Reg.SPL_FCNT_DEFAULTED 14)).memRemap c.inst c.addr

/-- All that the instances' work on the host die leads to. -/
def HDie.memRun (h : HDie) (m : Mem) : HDie := m.cands.foldl (fun g c => g.scb c) (h.memDone m)

/-! ### The stream table (R358, Table 15.2) -/

/-- Instance and first word of stream table entry e. -/
def entryWord (e : Nat) : Nat × Nat := (46 + e / 1536, 2 * (e % 1536))

/-- `n` words of instance i are read, for an access of a master: uncorrectable where one of them is. -/
def HDie.readWords (h : HDie) (master access i a n : Nat) : HDie × Bool :=
  if h.mem.idle i then (h, false)
  else
    let r := Mem.reads i access n a (h.memFor master)
    (h.memRun r.1, r.2)

/-- `n` words of instance i are written whole. -/
def HDie.writeWords (h : HDie) (i a n : Nat) : HDie :=
  if h.mem.idle i then { h with mems := (h.mem.validate i a n).ctxs } else h.memRun (h.mem.writes i a n)

/-- `n` words of instance i are read and written by a unit for which Table 15.2 states no consequence of an uncorrectable word (log 181). -/
def HDie.useWords (h : HDie) (i a n : Nat) : HDie := (h.readWords 0xFF 0xE i a n).1.writeWords i a n

/-- Both words of a stream table entry are read. -/
def HDie.readEntry (h : HDie) (master access e : Nat) : HDie × Bool := h.readWords master access (entryWord e).1 (entryWord e).2 2

/-- Both words of a stream table entry are written whole. -/
def HDie.writeEntry_ (h : HDie) (e : Nat) : HDie := h.writeWords (entryWord e).1 (entryWord e).2 2

/-! ### The other tables of the host die (Table 15.1, log 181) -/

/-- First word of the control record of a source and a stream, in instance 48: two records for each source. -/
def controlWord (src stream : Nat) : Nat := 2 * (2 * src + stream % 2)

/-- The word and the byte in it, in instance 52, of a BRG_WIN_n or BRG_VEP_v register: windows first, two registers to a word. -/
def bridgeWord (a : Nat) : Option (Nat × Nat) :=
  if 0x81000 ≤ a && a < 0x81400 then some ((a - 0x81000) / 8, a % 8)
  else if 0x82000 ≤ a && a < 0x82940 then some (128 + (a - 0x82000) / 8, a % 8)
  else none

/-- Words that a posted write takes in instance 49: 4, and 32 of data. -/
def pwWords : Nat := 36

end Sys2Proof.Machine
end

