-- ==== Sys2Proof/Machine/Descs.lean ====
section
/-! DEFINITION. Descriptors in flight (R61, R64 to R69, R73): their contexts, the checks of their reserved fields, their completions in order,
the stall of a queue whose completion queue takes none, and the end of a descriptor. -/
namespace Sys2Proof.Machine

/-! ### Descriptors in flight -/

/-- The context of submission queue q. -/
def HDie.sq (h : HDie) (q : Nat) : SqCtx :=
  (h.hostq.sqs.find? fun c => c.q == q).getD { q := q, started := [], stalled := false }

/-- The first word of a queue's context in instance 51: eight words for each submission queue, then for each completion queue (Table 15.1, log 181). -/
def ctxWord (completion : Bool) (q : Nat) : Nat := 512 * b2n completion + 8 * q

/-- Replace the context of a submission queue, keeping INFLIGHT and IDLE (R67, R91). -/
def HDie.setSq (h : HDie) (c : SqCtx) : HDie :=
  let h1 := { h with hostq.sqs := c :: h.hostq.sqs.filter fun d => d.q != c.q }.useWords 51 (ctxWord false c.q) 8
  (h1.wr (Reg.PCI_SQSTAT_INFLIGHT c.q) c.started.length).wr (Reg.PCI_SQSTAT_IDLE c.q) (b2n c.started.isEmpty)

/-- Entries of a submission queue (R58). -/
def HDie.sqSize (h : HDie) (q : Nat) : Nat := 2 ^ h.rd (Reg.PCI_SQCFG_LOG2SIZE q)

/-- Descriptors available and not yet fetched (R61). -/
def HDie.sqAvail (h : HDie) (q : Nat) : Nat :=
  let n := h.sqSize q
  (h.rd (Reg.PCI_SQTAIL_TAIL q) + n - h.rd (Reg.PCI_SQSTAT_HEAD q)) % n

/-- OPCODE of a descriptor (Table 3.1). -/
def dOp (d : Desc) : Nat := d.d0.fld 0 8
/-- NOCMP. -/
def dNoCmp (d : Desc) : Bool := d.d0.fld 8 1 == 1
/-- INLINE. -/
def dInline (d : Desc) : Bool := d.d0.fld 9 1 == 1
/-- TAG. -/
def dTag (d : Desc) : Nat := d.d0.fld 16 16

/-- A 64-bit quantity of two words, the low word first (R68). -/
def two (lo hi : Word) : Nat := lo.toNat + 2 ^ 32 * hi.toNat

/-- A reserved field other than 0 (R68, R83 and the layout tables of chapter 3). -/
def dReserved (d : Desc) : Bool :=
  d.d0.fld 10 6 != 0 ||
  (dInline d && !(dOp d == 2 || dOp d == 3 || dOp d == 4)) ||
  (match dOp d with
   | 1 => d.d1.fld 7 1 != 0 || d.d1.fld 18 2 != 0 || d.d1.fld 23 9 != 0 || d.d2.fld 12 4 != 0 || d.d2.fld 30 2 != 0
            || d.d3 != 0 || d.d6 != 0 || d.d7 != 0
   | 6 => d.d1.fld 7 1 != 0 || d.d1.fld 18 2 != 0 || d.d1.fld 24 8 != 0 || d.d2.fld 12 4 != 0 || d.d2.fld 30 2 != 0
            || d.d3 != 0 || d.d6.fld 30 2 != 0
   | 2 | 3 | 4 => d.d1.fld 9 23 != 0 || d.d3.fld 12 20 != 0 || d.d6 != 0 || d.d7 != 0
   | 5 => d.d1.fld 1 31 != 0 || d.d2 != 0 || d.d3 != 0 || d.d4 != 0 || d.d5 != 0 || d.d6 != 0 || d.d7 != 0
   | 7 => d.d1.fld 10 6 != 0 || d.d1.fld 23 9 != 0 || d.d2.fld 12 4 != 0 || d.d2.fld 29 3 != 0 || d.d3 != 0 || d.d6 != 0
            || d.d7 != 0
   | 8 => d.d1.fld 15 17 != 0 || d.d2 != 0 || d.d3 != 0 || d.d6 != 0 || d.d7 != 0
   | 9 => d.d1.fld 4 4 != 0 || d.d1.fld 16 16 != 0 || d.d3 != 0 || d.d6 != 0 || d.d7 != 0
   | 10 => d.d1 != 0 || d.d2 != 0 || d.d3 != 0 || d.d4 != 0 || d.d5 != 0 || d.d6 != 0 || d.d7 != 0
   | _ => false)

/-- The 16 bytes of a completion, phase 0 (Table 3.8). -/
def completionBytes (h : HDie) (q : Nat) (s : Started) : List Byte :=
  leBytes 8 s.result ++ leBytes 4 ((s.slot + 1) % h.sqSize q + q * 65536) ++ leBytes 4 (dTag s.desc + s.status * 65536)

/-- Write the completions of a queue that are due, in descriptor order (R64, R65, R73): a completion that finds no free
entry, or a halted queue, is kept; NOCMP writes none on SUCCESS. Where the completion queue is disabled, a completion still due is dropped (log 79). -/
def retireLoop (q : Nat) : Nat → HDie → HDie
  | 0, h => h
  | n + 1, h =>
    match (h.sq q).started with
    | [] => h
    | s :: r =>
      if s.phase != 2 then h
      else
        let cq := h.rd (Reg.PCI_SQCFG_CQ q)
        let popped := h.setSq { h.sq q with started := r }
        if dNoCmp s.desc && s.status == 0 then retireLoop q n popped
        else if !h.on (cqRegs cq).en then retireLoop q n popped
        else if h.on (cqRegs cq).halt || h.cqFull cq then h
        else retireLoop q n ((popped.useWords 51 (ctxWord true cq) 8).writeEntry cq 16 (completionBytes h q s))

/-- A completion queue takes no entry now: it is full, or halted (R65, R88). -/
def HDie.cqBlocked (h : HDie) (cq : Nat) : Bool := h.on (cqRegs cq).en && (h.on (cqRegs cq).halt || h.cqFull cq)

/-- Submission queue q would go on but for its completion queue: a completion is due, or a descriptor could be started (R65). -/
def HDie.wants (h : HDie) (q : Nat) : Bool :=
  (match (h.sq q).started with
   | s :: _ => s.phase == 2
   | [] => false)
    || (h.on (Reg.PCI_SQCFG_EN q) && !h.on (Reg.PCI_SQSTAT_HALT q) && h.sqAvail q != 0 && h.pcieUp)

/-- Submission queue q, bound to `cq`, stalls or goes on (R65): each time it comes to stall, PCI_CQSTALL_q counts one (log 148). -/
def HDie.stallOne (h : HDie) (cq q : Nat) : HDie :=
  if h.rd (Reg.PCI_SQCFG_CQ q) != cq then h
  else
    let c := h.sq q
    let now := h.cqBlocked cq && h.wants q
    if now == c.stalled then h
    else
      let g := h.setSq { c with stalled := now }
      if now then g.bump (cqRegs cq).stall else g

/-- Every submission queue bound to `cq` stalls or goes on. -/
def HDie.stalls (h : HDie) (cq : Nat) : HDie :=
  if h.cqBlocked cq || h.hostq.sqs.any (fun c => c.stalled) then (upto 64).foldl (fun g q => g.stallOne cq q) h else h

/-- Retire what is due on queue q. -/
def HDie.retire (h : HDie) (q : Nat) : HDie :=
  (retireLoop q ((h.sq q).started.length) h).stalls (h.rd (Reg.PCI_SQCFG_CQ q))

/-- Give a started descriptor its outcome, and retire what is due. -/
def HDie.finish (h : HDie) (q ser status result : Nat) : HDie :=
  let c := h.sq q
  (h.setSq { c with started := c.started.map fun s => if s.ser == ser then { s with phase := 2, status := status, result := result } else s }).retire q

/-- Mark a started descriptor as begun, its outcome to come. -/
def HDie.begin_ (h : HDie) (q ser : Nat) : HDie :=
  let c := h.sq q
  h.setSq { c with started := c.started.map fun s => if s.ser == ser && s.phase == 0 then { s with phase := 1 } else s }

/-- A posted write whose frame has left: it was sent now (R87, R220). -/
def PostedW.left (w : PostedW) (fid now : Nat) : PostedW := if w.fid == some fid then { w with fid := none, time := now } else w

/-- A stored frame has left on each port that is up once no copy waits on a ring port: the REMOTE_WRITE that sent it completes (R69, R74). -/
def HDie.departed (h : HDie) (fid : Nat) : HDie :=
  if h.sw.copies.any fun c => c.fid == fid && c.q < 16 then h
  else
    let g := { h with brg.posted := h.brg.posted.map fun (w : PostedW) => w.left fid h.tb.now }
    match g.hostq.departs.find? fun d => d.fid == fid with
    | none => g
    | some d => { g with hostq.departs := g.hostq.departs.filter fun x => x.fid != fid }.finish d.q d.ser 0 0

end Sys2Proof.Machine
end

