-- ==== Sys2Proof/Machine/Frames.lean ====
section
/-! DEFINITION. Ring frames (R115 to R119): header fields, header and trailer checks, and the frames a hub builds. -/
namespace Sys2Proof.Machine

/-- VER (Table 4.9). -/
def hVer (d : Hdr) : Nat := d.w0.fld 28 4
/-- TYPE (Tables 4.9 and 4.10). -/
def hType (d : Hdr) : Nat := d.w0.fld 24 4
/-- TC. -/
def hTc (d : Hdr) : Nat := d.w0.fld 21 3
/-- PATH: 0 A, 1 B. -/
def hPath (d : Hdr) : Nat := d.w0.fld 20 1
/-- STALE. -/
def hStale (d : Hdr) : Bool := d.w0.fld 19 1 == 1
/-- SEQ. -/
def hSeq (d : Hdr) : Nat := d.w0.fld 0 16
/-- SRC_HUB. -/
def hSrc (d : Hdr) : Nat := d.w1.fld 25 7
/-- STREAM. -/
def hStream (d : Hdr) : Nat := d.w1.fld 12 12
/-- DST_HUB. -/
def hDst (d : Hdr) : Nat := d.w2.fld 25 7
/-- DST_EP. -/
def hEp (d : Hdr) : Nat := d.w2.fld 15 10
/-- LEN. -/
def hLen (d : Hdr) : Nat := d.w2.fld 0 14
/-- HOPS. -/
def hHops (d : Hdr) : Nat := d.w3.fld 24 8
/-- CYCLE. -/
def hCycle (d : Hdr) : Nat := d.w4.toNat
/-- HCRC. -/
def hHcrc (d : Hdr) : Nat := d.w5.fld 0 16

/-- The 24 header bytes, most significant byte of W0 first (R115). -/
def hdrBytes (d : Hdr) : List Byte :=
  beBytes 4 d.w0.toNat ++ beBytes 4 d.w1.toNat ++ beBytes 4 d.w2.toNat ++ beBytes 4 d.w3.toNat ++ beBytes 4 d.w4.toNat
    ++ beBytes 4 d.w5.toNat

/-- The HCRC of a header: over its bytes 0 to 21 (R118). -/
def hcrcOf (d : Hdr) : Nat := crc16 ((hdrBytes d).take 22)

/-- The header with its HCRC recomputed (R118). -/
def sealHdr (d : Hdr) : Hdr :=
  { d with w5 := BitVec.ofNat 32 (d.w5.toNat / 65536 * 65536 + hcrcOf d) }

/-- The header with HOPS decremented and HCRC recomputed, as a hub forwards it (R118, R120). -/
def hopHdr (d : Hdr) : Hdr :=
  sealHdr { d with w3 := BitVec.ofNat 32 ((hHops d - 1) * 2 ^ 24 + d.w3.toNat % 2 ^ 24) }

/-- The trailer of a frame: CRC-32C over the header, HOPS and HCRC counted as 0, and the payload (R119). -/
def trailerOf (f : Frame) : Nat :=
  let b := hdrBytes f.hdr
  crc32c (b.take 12 ++ [0] ++ (b.drop 13).take 9 ++ [0, 0] ++ f.payload)

/-- The TYPE and TC combinations of Table 4.10 (R117). -/
def typeTcOk (t c : Nat) : Bool :=
  match t with
  | 1 => c ≤ 3
  | 2 => c == 5
  | 3 => c == 4
  | 4 => c == 6
  | 5 => c == 7
  | 6 => c ≤ 3
  | 7 => c == 4
  | 8 => c == 5
  | 9 => c == 5 || c == 7
  | _ => false

/-- A header as a source builds it: reserved fields 0, HOPS 119 (R116, R120), HCRC computed. -/
def mkHdr (typ tc path : Nat) (stale : Bool) (seq src stream dst ep len cycle : Nat) : Hdr :=
  sealHdr
    { w0 := BitVec.ofNat 32 (2 ^ 28 + typ % 16 * 2 ^ 24 + tc % 8 * 2 ^ 21 + path % 2 * 2 ^ 20 + b2n stale * 2 ^ 19 + seq % 65536)
      w1 := BitVec.ofNat 32 (src % 128 * 2 ^ 25 + stream % 4096 * 2 ^ 12)
      w2 := BitVec.ofNat 32 (dst % 128 * 2 ^ 25 + ep % 1024 * 2 ^ 15 + len % 16384)
      w3 := BitVec.ofNat 32 (119 * 2 ^ 24)
      w4 := BitVec.ofNat 32 (cycle % 2 ^ 32)
      w5 := 0 }

/-- The same frame for the other path: PATH and HCRC differ (R136). -/
def withPath (f : Frame) (path : Nat) : Frame :=
  { f with hdr := sealHdr { f.hdr with w0 := BitVec.ofNat 32 (f.hdr.w0.toNat - hPath f.hdr * 2 ^ 20 + path * 2 ^ 20) } }

/-- Cells of a frame with `len` payload bytes (R166). -/
def cellsOf (len : Nat) : Nat := ceilDiv (len + 28) 256

/-- A join frame's subtype range (R161, R443): RING_CTL with SUBTYPE 0x10 to 0x1F. -/
def isJoin (f : Frame) : Bool :=
  hType f.hdr == 9 && 0x10 ≤ beNat (slice f.payload 0 1) && beNat (slice f.payload 0 1) ≤ 0x1F

end Sys2Proof.Machine
end

