-- ==== Sys2Proof/Machine/SwitchOps.lean ====
section
/-! DEFINITION. The shared buffer and the output queues of the switch core, as every source of frames uses them: ports
(R164), accounting (R172), admission (R173, R174), depths and watermarks (R181, R182), flushing (R180), and the two
copies of a sourced frame (R135, R136). -/
namespace Sys2Proof.Machine

/-! ### Cycles (R234) -/

/-- The epoch E0 (R234). -/
def HDie.epoch (h : HDie) : Nat := mkTime (h.rd Reg.TIM_EPSL_SEC + 2 ^ 32 * h.rd Reg.TIM_EPSH_SEC) (h.rd Reg.TIM_EPNS_NS) 0

/-- The cycle in which a time lies, not reduced modulo 2^32 (R234). -/
def cycleOf (e0 c t : Nat) : Nat := if c = 0 then 0 else (t - e0) / c

/-- The cycle in which a time lies (R234). -/
def HDie.cycleAt (h : HDie) (t : Nat) : Nat := cycleOf h.epoch (ofNs (h.rd Reg.TIM_CYCLE_NS)) t

/-- The full cycle number that a number modulo 2^32 stands for: the nearest to the present cycle (R234, log 24). -/
def fullCycle (cur n : Nat) : Nat :=
  let b := 2 ^ 32 * (cur / 2 ^ 32) + n % 2 ^ 32
  if b + 2 ^ 31 < cur then b + 2 ^ 32 else if cur + 2 ^ 31 < b && 2 ^ 32 ≤ b then b - 2 ^ 32 else b

/-- The start of cycle n in the time base: E0 + N × C (R234). -/
def HDie.cycleStart (h : HDie) (n : Nat) : Nat :=
  h.epoch + ofNs (fullCycle (h.cycleAt h.tb.now) n * h.rd Reg.TIM_CYCLE_NS)

/-- D_N of a plan (R186). -/
def HDie.deadline (h : HDie) (p : Plan) (n : Nat) : Nat := h.cycleStart n + ofNs ((p.k + 1) * h.rd Reg.TIM_CYCLE_NS)

/-! ### Ports and accounting -/

/-- Whether a ring port is in ACTIVE. -/
def HDie.active (h : HDie) (p : Nat) : Bool := h.rd (Reg.RNG_PSTAT_STATE p) == 6

/-- Output port p is up (Table 6.1). -/
def HDie.portUp (h : HDie) (p : Nat) : Bool :=
  if p < 2 then h.rd (Reg.RNG_PSTAT_STATE p) == 6
  else if p < 6 then h.on (Reg.SPU_STAT_UP (p - 2)) && h.on (Reg.SPU_CFG_EN (p - 2))
  else if p == 6 then h.pcieUp
  else if p == 7 then h.on Reg.BAR_STAT_UP
  else if p == 8 then h.coreRuns
  else true

/-- Cells of the guarantees of all 80 queues. -/
def HDie.minSum (h : HDie) : Nat := ((upto 80).map fun q => h.rd (Reg.SWC_QCFG_MIN q)).sum

/-- The reserve of a group: 1 to 3 hold RSV each, 4 holds RSP_RSV (R172). -/
def HDie.rsvCap (h : HDie) (g : Nat) : Nat := if g == 4 then h.rd Reg.SWC_BUFCFG_RSP_RSV else if g == 0 then 0 else h.sw.rsv

/-- Cells in use from the reserve of a group. -/
def HDie.rsvUsed (h : HDie) (g : Nat) : Nat := ((h.sw.stored.filter fun s => s.grp == g).map (·.rsv)).sum

/-- Pool cells in use; cells above a smaller new reserve count as pool cells (R187). -/
def HDie.poolUsed (h : HDie) : Nat :=
  (h.sw.stored.map (·.pool)).sum + ([1, 2, 3, 4].map fun g => h.rsvUsed g - h.rsvCap g).sum

/-- The cells of the pool (R172). -/
def HDie.poolSize (h : HDie) : Nat := 32768 - h.minSum - h.rd Reg.SWC_BUFCFG_RSP_RSV - 3 * h.sw.rsv

/-- Free cells of the pool. -/
def HDie.poolFree (h : HDie) : Nat := h.poolSize - h.poolUsed

/-- SWC_BUFSTAT shows the free cells and the free pool cells (R190). -/
def HDie.showBuf (h : HDie) : HDie :=
  (h.wr Reg.SWC_BUFSTAT_FREE (32768 - (h.sw.stored.map (·.cells)).sum)).wr Reg.SWC_BUFSTAT_POOLFREE h.poolFree

/-- The reserve group of a queue: TC6 of E, W, and HOST or BARRIER; TC4 of any port (R172). A mirror sample never takes
a reserve (R177). -/
def rsvGroup (q : Nat) : Nat :=
  let p := q / 8
  let c := q % 8
  if p == 9 then 0
  else if c == 4 then 4
  else if c == 6 then (if p == 0 then 1 else if p == 1 then 2 else if p == 6 || p == 7 then 3 else 0)
  else 0

/-- Whether queue q admits a frame of n cells, and from where the cells above the guarantee come: (pool, reserve, group)
(R173). -/
def HDie.admits (h : HDie) (q n : Nat) : Option (Nat × Nat × Nat) :=
  let d := h.rd (Reg.SWC_QSTAT_DEPTH q)
  let rest := n - min n (h.rd (Reg.SWC_QCFG_MIN q) - d)
  let g := rsvGroup q
  if rest = 0 then some (0, 0, 0)
  else if g != 0 && rest ≤ h.rsvCap g - h.rsvUsed g then some (0, rest, g)
  else if d + n ≤ h.rd (Reg.SWC_QCFG_MAX q) && rest ≤ h.poolFree && h.rd (Reg.SWC_FLOOR_CELLS (q % 8)) ≤ h.poolFree - rest then
    some (rest, 0, 0)
  else none

/-! ### Watermarks -/

/-- The notice state of queue q (80: the pool). -/
def HDie.wm (h : HDie) (q : Nat) : WmCtx :=
  (h.sw.wms.find? fun w => w.q == q).getD { q := q, hold := none, xing := 0, peak := 0 }

/-- Replace a notice state. -/
def HDie.setWm (h : HDie) (w : WmCtx) : HDie := { h with sw.wms := w :: h.sw.wms.filter fun x => x.q != w.q }

/-- The present depth of queue q, or the pool cells in use. -/
def HDie.depthOf (h : HDie) (q : Nat) : Nat := if q == 80 then h.poolUsed else h.rd (Reg.SWC_QSTAT_DEPTH q)

/-- HOLDOFF of queue q in µs: a value below 10 acts as 10 (R182). -/
def HDie.holdoffUs (h : HDie) (q : Nat) : Nat :=
  max 10 (if q == 80 then h.rd Reg.SWC_POOLWM_HOLDOFF else h.rd (Reg.SWC_QWM_HOLDOFF q))

/-- Issue one notice covering the crossings since the last, and start a holdoff (R182, Table 6.4); the next peak is counted from the depth that stands now. With WMK in an HA mode the
notice goes to the function; in HW it is a WATERMARK event where an event queue exists (Table 6.6). -/
def HDie.notice (h : HDie) (q : Nat) : HDie :=
  let w := h.wm q
  let d0 := min w.xing 0xFFFF + min w.peak 0xFFFF * 2 ^ 16 + min (h.depthOf q) 0xFFFF * 2 ^ 32
  let h1 := h.setWm { w with hold := some (h.tb.now + ofUs (h.holdoffUs q)), xing := 0, peak := h.depthOf q }
  if h1.modeOf 10 != 0 then
    if h1.mayAsk 10 then h1.ask 10 d0 q q
    else (h1.bump (Reg.SPL_FCNT_DEFAULTED 10)).event 4 q d0 q
  else if h1.hostAttached then h1.event 4 q d0 q else h1

/-- A crossing of queue q (R181, R182). -/
def HDie.crossing (h : HDie) (q : Nat) : HDie :=
  let h1 :=
    if q == 80 then (h.raise Reg.SWC_EVT_POOL_WM).bump Reg.SWC_POOLXING_COUNT
    else (h.raise (Reg.SWC_QEVT_WM q)).bump (Reg.SWC_QXING_COUNT q)
  let w := h1.wm q
  let h2 := h1.setWm { w with xing := w.xing + 1 }
  if w.hold.isNone then h2.notice q else h2

/-- The depth of a queue or the pool rose from `d` to `e`: peaks and a crossing of HWM (R181). -/
def HDie.rose (h : HDie) (q d e : Nat) : HDie :=
  if e ≤ d then h
  else
    let hwm := if q == 80 then h.rd Reg.SWC_POOLWM_HWM else h.rd (Reg.SWC_QWM_HWM q)
    let h1 := if q == 80 then h.peak Reg.SWC_POOLPEAK_PEAK e else h.peak (Reg.SWC_QPEAK_PEAK q) e
    let w := h1.wm q
    let h2 := h1.setWm { w with peak := max w.peak e }
    if d < hwm && hwm ≤ e then h2.crossing q else h2

/-- Queue q takes a copy of n cells. -/
def HDie.deeper (h : HDie) (q n : Nat) : HDie :=
  let d := h.rd (Reg.SWC_QSTAT_DEPTH q)
  (h.wr (Reg.SWC_QSTAT_DEPTH q) (d + n)).rose q d (d + n)

/-- Stored frames that no copy, no reception and no pending launch refers to any more are freed (R25, R174). -/
def HDie.sweep (h : HDie) : HDie :=
  ({ h with sw.stored := h.sw.stored.filter fun (s : Stored) =>
      h.sw.copies.any (fun c => c.fid == s.fid) || h.sw.rx.any (fun r => r.fid == some s.fid) }).showBuf

/-- A copy leaves queue q for good: the depth falls, the cells are freed with the last copy (R25, R174), and a REMOTE_WRITE whose copies have all left
completes (R69). -/
def HDie.dropCopy (h : HDie) (fid q : Nat) : HDie :=
  match h.sw.copies.find? fun c => c.fid == fid && c.q == q with
  | none => h
  | some c =>
    (({ h with sw.copies := dropFirst (fun c => c.fid == fid && c.q == q) h.sw.copies }).wr (Reg.SWC_QSTAT_DEPTH q)
      (h.rd (Reg.SWC_QSTAT_DEPTH q) - c.cells)).sweep.departed fid

/-- What was injected into the frame in transmission on port p goes with it (R126, R134). -/
def HDie.dropInj (h : HDie) (p : Nat) : HDie :=
  let ring := fun (x : PortCtx) => { x with nowHcrc := false, nowCrc := false, hit := false }
  let spur := fun (x : SpurCtx) => { x with nowFcs := false, hit := false }
  { h with ports := h.ports.modify p ring, spurs := if p < 2 then h.spurs else h.spurs.modify (p - 2) spur }

/-- A frame in transmission on port p ends at once (R111, Table 6.3). -/
def HDie.endTx (h : HDie) (p : Nat) : HDie :=
  (h.sw.copies.filter fun c => c.leaving && c.q / 8 == p).foldl (fun g c => g.dropCopy c.fid c.q) (h.dropInj p)

/-- Flush a list of copies: each is counted in SWC_QFLUSH_q (R180). -/
def flushCopies : List Copy → HDie → HDie
  | [], h => h
  | c :: cs, h => flushCopies cs ((h.bump (Reg.SWC_QFLUSH_COUNT c.q)).dropCopy c.fid c.q)

/-- Flush every queued frame of port p (Table 6.3). -/
def HDie.flushPort (h : HDie) (p : Nat) : HDie := flushCopies (h.sw.copies.filter fun c => c.q / 8 == p) h

/-- The state of a port's queues (Table 6.3): 0 OPEN, 1 HELD, 2 CLOSED. -/
def HDie.portState (h : HDie) (p : Nat) : Nat := h.rd (Reg.SWC_QSTAT_STATE (8 * p))

/-- Set the state of the eight queues of a port. -/
def HDie.setPortState (h : HDie) (p v : Nat) : HDie :=
  (upto 8).foldl (fun g c => g.wr (Reg.SWC_QSTAT_STATE (8 * p + c)) v) h

/-- H of port p in µs: 0 for a spur whose EN is 0 (R179); what HLD extended the present hold to (Table 6.6). -/
def HDie.holdUs (h : HDie) (p : Nat) : Nat :=
  if 2 ≤ p && p < 6 && !h.on (Reg.SPU_CFG_EN (p - 2)) then 0 else min 1000000 (aget h.sw.holdExt p (h.rd (Reg.SWC_HOLD_US p)))

/-- Port p leaves up (Table 6.3): a frame in transmission ends; OPEN queues become HELD, with the hold timer started and the HLD function asked, or are
CLOSED and flushed when H is 0. -/
def HDie.portLeavesUp (h0 : HDie) (p : Nat) : HDie :=
  let h := h0.endTx p
  if h.portState p != 0 then h
  else if h.holdUs p == 0 then (h.setPortState p 2).flushPort p
  else
    let h1 := { h.setPortState p 1 with sw.holds := aput h.sw.holds p h.tb.now }
    if h1.modeOf 2 == 0 then h1
    else
      let held := ((h1.sw.copies.filter fun c => c.q / 8 == p).map (·.cells)).sum
      if h1.mayAsk 2 then h1.ask 2 (p + min held 0xFFFF * 16) (h1.holdUs p) p
      else h1.bump (Reg.SPL_FCNT_DEFAULTED 2)

/-- Port p returns to up (Table 6.3): HELD and CLOSED queues open; a pending HLD request becomes stale (Table 6.8). -/
def HDie.portReturnsUp (h : HDie) (p : Nat) : HDie :=
  let h1 := { h.setPortState p 0 with sw.holds := adel h.sw.holds p, sw.holdExt := adel h.sw.holdExt p }
  match h1.spl.reqs.find? fun r => r.func == 2 && r.ctx == p with
  | some r => h1.dropReq 2 r.cookie
  | none => h1

/-! ### Storing a frame -/

/-- A copy that is to be queued: its queue, whether it may leave at once, and whether it is marked untracked (R147). -/
structure Want where
  q     : Nat
  ready : Bool
  untrk : Bool

/-- The queues of port p stand CLOSED (Table 6.3), as those of every disabled spur do (R28). -/
def HDie.shut (h : HDie) (p : Nat) : Bool := h.portState p == 2 || (2 ≤ p && p < 6 && !h.on (Reg.SPU_CFG_EN (p - 2)))

/-- Whether a copy may enter its queue in the port's present state (Table 6.3): a HELD ring port takes none, a CLOSED port
drops and counts. -/
def HDie.queueOpen (h : HDie) (q : Nat) : Bool :=
  !h.shut (q / 8) && (h.portState (q / 8) == 0 || 2 ≤ q / 8)

/-- Count the copies that a CLOSED port or the admission refuses (R173, R179). -/
def countRefused : List Want → HDie → HDie
  | [], h => h
  | w :: ws, h =>
    countRefused ws
      (if h.shut (w.q / 8) then h.bump (Reg.SWC_QDOWNDROP_COUNT w.q)
       else if !h.queueOpen w.q then h
       else h.bump (Reg.SWC_QDROP_COUNT w.q))

/-- A frame of n cells that entered on port `inp` takes the next sequence numbers of its flow to port p, modulo 2^12 (R166): its first, and the state after. -/
def HDie.flowSeq (h : HDie) (inp p n : Nat) : Nat × HDie :=
  let s := aget h.sw.flows (16 * inp + p) 0
  (s, { h with sw.flows := aput h.sw.flows (16 * inp + p) ((s + n) % 4096) })

/-- Queue the admitted copies in order. -/
def queueCopies (fid n inp : Nat) : List Want → HDie → HDie
  | [], h => h
  | w :: ws, h =>
    let s := h.flowSeq inp (w.q / 8) n
    queueCopies fid n inp ws
      (({ s.2 with sw.copies := s.2.sw.copies ++
            [({ fid := fid, q := w.q, cells := n, ready := w.ready, leaving := false, untrk := w.untrk, extra := 0,
                asked := false, stomp := false, seq := s.1, lost := none } : Copy)] } : HDie).deeper w.q n)

/-- The planes in service: enabled, and neither retired nor draining (R166, R169, R171). -/
def HDie.inService (h : HDie) : List Nat :=
  (upto 4).filter fun k => (h.rd Reg.SWC_PLANE_EN).testBit k && !(h.rd Reg.SWC_PLANE_RETIRED).testBit k && !h.sw.retiring.contains k

/-- The planes that carry the n cells of a frame (R166): the backlogs are equal between frames, so the ties go in rotation (log 167); and where the rotation
stands then. -/
def HDie.spread (h : HDie) (n : Nat) : List Nat × Nat :=
  let l := h.inService
  let r := (l.filter fun k => h.sw.planeAt ≤ k) ++ l.filter fun k => k < h.sw.planeAt
  let ps := (upto n).map fun i => r.getD (i % max 1 r.length) 0
  (ps, (ps.getLast?.map (· + 1)).getD h.sw.planeAt % 4)

/-- The lowest n free cells of the buffer (log 181). -/
def HDie.freeCells (h : HDie) (n : Nat) : List Nat :=
  let used := h.sw.stored.flatMap (·.place)
  ((upto (used.length + n)).filter fun c => !used.contains c).take n

/-- The cells are written whole, and the links to them (Table 15.1, R363). -/
def HDie.writeCells (h : HDie) (cs : List Nat) : HDie :=
  cs.foldl (fun (g : HDie) c => (g.writeWords (c / 1024) (8 * (c % 1024)) 8).writeWords (32 + c / 8192) (c % 8192) 1) h

/-- What a frame that is to be stored brings: `whole` is its length with header and trailer, `inPort` where it entered, `own` whether the hub sources it, `good` whether
its trailer has passed, `stamp` its ingress stamp, `launch` its launch time. -/
structure Intake where
  frame  : Frame
  cells  : Nat
  whole  : Nat
  inPort : Nat
  own    : Bool
  good   : Option Bool
  stamp  : Nat
  launch : Option Nat

/-- Store a frame once and queue the copies that their queues admit (R173, R174); none where no copy is admitted. The cells
come from the source that the first admitted copy uses. -/
def HDie.store (h : HDie) (t : Intake) (wants : List Want) : HDie × Option Nat :=
  let n := t.cells
  let opened := wants.filter fun w => h.queueOpen w.q
  let taken := opened.filter fun w => (h.admits w.q n).isSome
  let refused := wants.filter fun w => !h.queueOpen w.q || (h.admits w.q n).isNone
  let h1 := countRefused refused h
  match taken with
  | [] => (h1, none)
  | w :: _ =>
    let src := (h.admits w.q n).getD (0, 0, 0)
    let fid := h1.sw.nextId
    let u := h1.poolUsed
    let way := h1.spread n
    let due := if hType t.frame.hdr == 4 then h1.sw.inForce.map fun p => h1.deadline p (hCycle t.frame.hdr) else none
    let cs := h1.freeCells n
    let hc := h1.writeCells cs
    let h2 := { hc with sw.nextId := fid + 1, sw.planeAt := way.2,
                        sw.stored := h1.sw.stored ++ [{ fid := fid, frame := t.frame, cells := n, pool := src.1, rsv := src.2.1,
                                                        grp := src.2.2, inPort := t.inPort, own := t.own, good := t.good,
                                                        stamp := t.stamp, left := none, launch := t.launch,
                                                        whole := t.whole, planes := way.1, due := due, place := cs }] }
    let h3 := queueCopies fid n t.inPort taken h2
    ((h3.rose 80 u h3.poolUsed).showBuf, some fid)

/-- A stored frame by its number. -/
def HDie.getStored (h : HDie) (fid : Nat) : Option Stored := h.sw.stored.find? fun s => s.fid == fid

/-- MIRROR_SAMPLE (R177): a frame of class `tc` enters on port p; every N-th that is selected is sampled, its first 128 bytes as
received into the MIRROR queue of its class. `whole` is the length of the frame as received, `stamp` its ingress stamp. -/
def HDie.mirror (h : HDie) (p tc : Nat) (bytes : List Byte) (whole stamp : Nat) : HDie :=
  if !h.on Reg.SWC_MIRCFG_EN || (h.rd Reg.SWC_MIRCFG_PORTS >>> p) % 2 == 0 || (h.rd Reg.SWC_MIRCFG_TCMASK >>> tc) % 2 == 0 then h
  else
    let n := h.sw.mirCount + 1
    if n < max 1 (h.rd Reg.SWC_MIRN_N) then { h with sw.mirCount := n }
    else
      let h1 := { h with sw.mirCount := 0 }
      if (h1.admits (72 + tc) 1).isNone then h1.bump Reg.SWC_MIRDROP_COUNT
      else
        let f : Frame := { hdr := mkHdr 0 tc 0 false 0 0 0 0 0 0 0, payload := bytes.take 128 }
        ((h1.bump Reg.SWC_MIRCNT_COUNT).store
          { frame := f, cells := 1, whole := whole, inPort := p, own := false, good := some true, stamp := stamp, launch := none }
          [{ q := 72 + tc, ready := true, untrk := false }]).1

/-- A frame with its trailer, as bytes. -/
def frameBytes (f : Frame) : List Byte := hdrBytes f.hdr ++ f.payload ++ leBytes 4 (trailerOf f)

/-! ### Sourcing a frame -/

/-- The next sequence number of a stream key, the SRC_HUB that this hub sends under with the STREAM (R115, R136). -/
def HDie.nextSeq (h : HDie) (src stream : Nat) : Nat := aget h.red.seqs (src * 4096 + stream) 0

/-- Advance a stream key's sequence counter (R136). -/
def HDie.advSeq (h : HDie) (src stream : Nat) : HDie :=
  { h with red.seqs := aput h.red.seqs (src * 4096 + stream) ((h.nextSeq src stream + 1) % 65536) }

/-- Source a frame onto the ring: a copy on E with PATH 0 and on W with PATH 1, on each port in ACTIVE; with neither it is
not sent and counted in RED_NOPATH (R135, R136). Extra local copies are queued beside them (R176). With a launch time the ring copies wait for it (R241). The result says
whether the frame was queued on a ring port and which stored frame holds it. SEQ advances, and the frame counts as queued, also where admission refuses its ring
copies (log 81). -/
def HDie.source (h : HDie) (inp typ tc stream dst ep : Nat) (stale : Bool) (cycle src : Nat) (payload : List Byte)
    (launch : Option Nat) (stamp : Nat) (extra : List Want) : HDie × Bool × Option Nat :=
  let sends := h.active 0 || h.active 1
  let go := decide (launch.getD 0 ≤ h.tb.now)
  let f : Frame := { hdr := mkHdr typ tc 0 stale (h.nextSeq src stream) src stream dst ep payload.length cycle, payload := payload }
  let ring := (if h.active 0 then [{ q := tc, ready := go, untrk := false : Want }] else [])
    ++ (if h.active 1 then [{ q := 8 + tc, ready := go, untrk := false : Want }] else [])
  let h1 := if sends then h.advSeq src stream else h.bump Reg.RED_NOPATH_COUNT
  if (ring ++ extra).isEmpty then (h1, false, none)
  else
    let h2 := h1.mirror inp tc (frameBytes f) (payload.length + 28) stamp
    let r := h2.store { frame := f, cells := cellsOf payload.length, whole := payload.length + 28, inPort := inp, own := true, good := some true,
                        stamp := stamp, launch := launch } (ring ++ extra)
    (r.1, sends, r.2)

/-- Source a control frame of the hub on both paths (R135): SYNC, RING_CTL, RESPONSE, ACK, EVENT. An unnumbered hub sends only
join frames (R39, R446). -/
def HDie.sourceCtl (h : HDie) (typ tc stream dst cycle : Nat) (payload : List Byte) : HDie :=
  if h.numbered then (h.source 8 typ tc stream dst 0 false cycle h.hubNum payload none h.tb.now []).1 else h

/-- Send the requests that go to the management core of another hub (R397): an EVENT frame, SUBKIND 0x01, with the event entry. -/
def sendPeers : List (Nat × Ev) → HDie → HDie
  | [], h => h
  | (d, e) :: es, h => sendPeers es (h.sourceCtl 8 5 0xFC8 d 0 (beBytes 4 (2 ^ 24) ++ evBytes e))

/-- Requests that a command issued to a peer's core leave with it. -/
def HDie.settle (h : HDie) : HDie := sendPeers h.spl.peerOut { h with spl.peerOut := [] }

/-- A command of the host die: its effect on the host die is the next state's. While chip reset is held nothing happens there (R433). -/
def onH (f : HDie → HDie) (s : State) : Host.Outcome State Fault Refusal :=
  .next (if s.h.boot.inReset then s else carryH { s with h := (f s.h).settle })

/-- A command of either die: what it leaves for the ring and the barrier is sent. -/
def onEach (f : State → State) (s : State) : Host.Outcome State Fault Refusal :=
  let t := f s
  .next (carryF (carryH { t with h := t.h.settle, pending := s.pending }))

/-- A command of the host die that the field die takes part in. -/
def onBoth (f : State → State) (s : State) : Host.Outcome State Fault Refusal :=
  onEach (fun x => if x.h.boot.inReset then x else f x) s

end Sys2Proof.Machine
end

