-- ==== Sys2Proof/Machine/AgeOps.lean ====
section
/-! DEFINITION. Ageing (chapter 19): the ageing record (R423, R424), wear and history (R421, R422, R424), the estimate (R425, R426) and its notices
(R428), and LIF's decision (R427). -/
namespace Sys2Proof.Machine

/-! ### Flash erase counts -/

/-- The region whose erase count the record keeps: slots 0 to 5, then the two boot record copies (Tables 18.1, 19.2). -/
def eraseRegion (sector : Nat) : Option Nat :=
  if sector = 0 then some 6 else if sector = 1 then some 7
  else if 0x10 ≤ sector && sector < 0x70 then some 0
  else if 0x70 ≤ sector && sector < 0xD0 then some 1
  else if sector = 0xD0 || (0xD0 < sector && sector < 0xE0) then some 2
  else if 0xE0 ≤ sector && sector < 0xF0 then some 3
  else if 0xF0 ≤ sector && sector < 0x110 then some 4
  else if 0x110 ≤ sector && sector < 0x130 then some 5
  else none

/-- The highest erase count of a region. -/
def HDie.eraseHigh (h : HDie) (k : Nat) : Nat :=
  (h.age.erases.filter fun e => eraseRegion e.1 == some k).foldl (fun m e => max m e.2) (h.age.base.getD k 0)

/-- AGE_FLERASE shows the highest count of all. -/
def HDie.showErases (h : HDie) : HDie := h.wr Reg.AGE_FLERASE_COUNT (((upto 8).map h.eraseHigh).foldl max 0)

/-- A sector is erased, and counted (R422). -/
def HDie.countErase (h : HDie) (sector : Nat) : HDie :=
  match eraseRegion sector with
  | none => h
  | some k => { h with age.erases := aput h.age.erases sector (aget h.age.erases sector (h.age.base.getD k 0) + 1) }.showErases

/-! ### The record -/

/-- The age in months (R424). -/
def HDie.ageMonths (h : HDie) : Nat := h.rd Reg.AGE_POH_HOURS / 720

/-- The history points of monitor m, the oldest first. -/
def HDie.hist (h : HDie) (m : Nat) : List (Nat × Nat) := aget h.age.hist m []

/-- The 16 history words of monitor m. -/
def histWords (l : List (Nat × Nat)) : List Byte :=
  (upto 16).flatMap fun k =>
    match l[k]? with
    | some (mo, w) => leBytes 4 (w % 65536 + mo % 65536 * 65536)
    | none => leBytes 4 0

/-- The ageing record without its CRC (Table 19.2). -/
def HDie.ageBody (h : HDie) : List Byte :=
  leBytes 4 0xA6E51B40 ++ leBytes 4 (h.rd Reg.AGE_POH_HOURS) ++ leBytes 8 (unsigned 64 h.age.tsum)
    ++ (upto 4).flatMap (fun n => leBytes 4 (h.rd (Reg.AGE_FTCYC_COUNT n)))
    ++ (upto 8).flatMap (fun k => leBytes 4 (h.eraseHigh k))
    ++ (upto 30).flatMap (fun m => histWords (h.hist m))
    ++ List.replicate 0x83C 0

/-- The ageing record (R423). -/
def HDie.ageRecord (h : HDie) : List Byte := h.ageBody ++ leBytes 4 (crc32c h.ageBody)

/-- A record's MAGIC and CRC are right. -/
def ageValid (bs : List Byte) : Bool :=
  leNat (slice bs 0 4) == 0xA6E51B40 && leNat (slice bs 0xFFC 4) == crc32c (slice bs 0 0xFFC)

/-- The mean of the hourly temperatures (Table 19.5). -/
def HDie.showMean (h : HDie) : HDie :=
  let n := h.rd Reg.AGE_POH_HOURS
  h.wr Reg.AGE_TAVG_TJ (if n = 0 then 0 else unsigned 16 (h.age.tsum / (n : Int)))

/-- Ageing as a record gives it (R424). -/
def HDie.takeRecord (h : HDie) (bs : List Byte) : HDie :=
  let w := fun (o : Nat) => leNat (slice bs o 4)
  let points := fun (m : Nat) =>
    ((upto 16).map fun k => w (0x40 + 0x40 * m + 4 * k)).filterMap fun v => if v = 0 then none else some (v / 65536, v % 65536)
  let h1 := (upto 4).foldl (fun (g : HDie) n => g.wr (Reg.AGE_FTCYC_COUNT n) (w (0x10 + 4 * n))) (h.wr Reg.AGE_POH_HOURS (w 4))
  ({ h1 with
      age.tsum := signed 64 (leNat (slice bs 8 8))
      age.base := (upto 8).map fun k => w (0x20 + 4 * k)
      age.erases := []
      age.hist := (upto 30).map fun m => (m, points m) }.showErases).showMean

/-! ### Wear -/

/-- Parts per 10,000 of a limit, saturating (R421). -/
def wearOf (count limit : Nat) : Nat := min 0xFFFF (quot (((count * 10000 : Nat)) : Rat) ((limit : Nat) : Rat)).floor.toNat

/-- The highest count of remap entries in use of any instance: of the host die as they stand, of the field die as the last answers said (Table 19.1). -/
def HDie.remapHigh (h : HDie) : Nat :=
  (upto 64).foldl (fun m i => max m (h.rd (Reg.MEM_ISTAT_REMAP_USED i))) (h.age.remaps.foldl (fun m e => max m e.2) 0)

/-- The count that a counting monitor reads, and its wear; a sensing monitor has none here (Table 19.1). -/
def HDie.wearCount (h : HDie) (m : Nat) : Option (Nat × Nat) :=
  if m = 22 then some (h.rd Reg.AGE_FLERASE_COUNT, wearOf (h.rd Reg.AGE_FLERASE_COUNT) (h.rd Reg.AGE_FLCFG_LIMIT))
  else if m = 23 then some (h.remapHigh, wearOf h.remapHigh 8)
  else if 24 ≤ m && m ≤ 27 then
    some (h.rd (Reg.AGE_FTCYC_COUNT (m - 24)), wearOf (h.rd (Reg.AGE_FTCYC_COUNT (m - 24))) (h.rd (Reg.AGE_FEEDLIM_LIMIT (m - 24))))
  else none

/-- The end-of-life drift of sensing monitor m from its value at manufacture, in the monitor's units (Table 19.1): 8 % or 10 % of that value, or, for
the margins, the way down to 40 mV, which EYE_V's 2 mV steps read as 20. -/
def wearSpan (m : Nat) : Rat :=
  let m0 : Rat := (Config.manufacture m : Nat)
  if 18 ≤ m && m ≤ 21 then m0 - 20 else if m = 16 || m = 17 || m = 29 then m0 / 10 else m0 * 8 / 100

/-- The wear of sensing monitor m at a reading (R421): the drift so far, up or, for the margins, down, in parts per 10,000 of that to the limit. -/
def sensedWear (m raw : Nat) : Nat :=
  let d : Rat := ((raw : Int) - (Config.manufacture m : Int) : Int)
  min 0xFFFF (quot ((if 18 ≤ m && m ≤ 21 then -d else d) * 10000) (wearSpan m)).floor.toNat

/-- The lowest EYE_V among the lanes of ring port p that show one (Table 19.1). -/
def HDie.eyeLow (h : HDie) (p : Nat) : Option Nat :=
  ((upto 4).filterMap fun l => let v := h.rd (Reg.RNG_LSTAT_EYE_V p l); if v = 0 then none else some v).foldl
    (fun m v => some (match m with | none => v | some x => min x v)) none

/-- The reading of sensing monitor m, where there is one: of 18 and 19 what the ring ports' lanes show, of the rest what is sensed; of 28 and 29, on the
field die, only while the dies hear each other. -/
def HDie.sense (h : HDie) (m : Nat) (raw : Option Nat) : Option Nat :=
  if m = 18 || m = 19 then h.eyeLow (m - 18) else if 28 ≤ m && !h.on Reg.BAR_STAT_UP then none else raw

/-! ### Notices -/

/-- LIFE event DETAIL0 of group g (Table 19.3). -/
def HDie.lifeWord (h : HDie) (g cause mon : Nat) : Nat :=
  h.rd (Reg.AGE_EST_MONTHS g) + h.rd (Reg.AGE_EST_BAND g) * 2 ^ 16 + h.rd (Reg.AGE_GST_STATE g) * 2 ^ 32 + g * 2 ^ 34
    + h.rd (Reg.AGE_GST_FW g) * 2 ^ 35 + h.rd (Reg.AGE_GST_NOFIT g) * 2 ^ 36 + cause * 2 ^ 37 + mon % 32 * 2 ^ 40

/-- LIFE_NOTICE (R428): the AGE_EVT bit of the cause, and in the host-attached role a LIFE event. -/
def HDie.lifeNotice (h : HDie) (g cause mon : Nat) : HDie :=
  let F := match cause with
    | 1 => Reg.AGE_EVT_STATE
    | 2 => Reg.AGE_EVT_WARN
    | 3 => Reg.AGE_EVT_MON
    | _ => Reg.AGE_EVT_SET
  let h1 := h.raise F
  if h1.hostAttached then h1.event 0xA (g * 8 + cause) (h1.lifeWord g cause mon) mon else h1

/-- The group's state for an estimate in months (R426). -/
def HDie.lifeState (h : HDie) (months : Nat) : Nat :=
  if months ≤ h.rd Reg.AGE_THR_REPLACE_MO then 2 else if months ≤ h.rd Reg.AGE_THR_WATCH_MO then 1 else 0

/-- The group's state follows its estimate, with the notice of a change, and the fault of a change to WATCH or REPLACE (R426, R428). -/
def HDie.lifeFollow (h : HDie) (g : Nat) : HDie :=
  let mo := h.rd (Reg.AGE_EST_MONTHS g)
  let st := if mo = 0xFFFF then 0 else h.lifeState mo
  if h.rd (Reg.AGE_GST_STATE g) == st then h
  else
    let mon := h.rd (Reg.AGE_GST_MON g)
    let h1 := (h.wr (Reg.AGE_GST_STATE g) st).lifeNotice g 1 mon
    if 1 ≤ st then h1.fault 18 0x38 (h1.lifeWord g 1 mon) else h1

/-- WARN (R428): the wear of monitor m has risen to WARN or above. -/
def HDie.warnCheck (h : HDie) (m : Nat) : HDie :=
  if h.rd (Reg.AGE_MCFG_WARN m) ≤ h.rd (Reg.AGE_MVAL_WEAR m) && !bitOf (h.rd Reg.AGE_MEVT_WARN) m then
    (h.wr Reg.AGE_MEVT_WARN (h.rd Reg.AGE_MEVT_WARN ||| 2 ^ m)).lifeNotice (ageGroup m) 2 m
  else h

/-- A monitor shows its reading (R421, R422): a counting monitor its count, a sensing one what it senses; one without a reading keeps what it shows. -/
def HDie.readMonitor (h : HDie) (m : Nat) (raw : Option Nat) : HDie :=
  match (h.wearCount m).or ((h.sense m raw).map fun x => (x, sensedWear m x)) with
  | none => h
  | some r => ((h.wr (Reg.AGE_MVAL_RAW m) (min 0xFFFF r.1)).wr (Reg.AGE_MVAL_WEAR m) (min 0xFFFF r.2)).warnCheck m

/-- The answer to a read of MEM_ISTAT_i of the field die (R370, R422): monitor 23 takes REMAP_USED in. -/
def HDie.remapRead (h : HDie) (i word : Nat) : HDie := { h with age.remaps := aput h.age.remaps i (word % 16) }.readMonitor 23 none

/-- The total of FEED_n after a reading of FED_TCYC_n (R422): a lower reading counts from 0. -/
def HDie.cycleTotal (h : HDie) (n now : Nat) : HDie :=
  let was := h.age.ftc.getD n 0
  let rise := if now < was then now else now - was
  { h.wr (Reg.AGE_FTCYC_COUNT n) (min (2 ^ 32 - 1) (h.rd (Reg.AGE_FTCYC_COUNT n) + rise)) with age.ftc := h.age.ftc.set n now }

/-! ### Logarithm, exponential and square root (log 43) -/

/-- One in fixed point. -/
def fixOne : Nat := 2 ^ 64

/-- `n` terms of the series of the area hyperbolic tangent at z, from the term of exponent `k`, whose power of z is `p`, in fixed point. -/
def atanhSum (zz : Nat) : Nat → Nat → Nat → Nat
  | 0, _, _ => 0
  | n + 1, k, p => p / k + atanhSum zz n (k + 2) (p * zz / fixOne)

/-- The natural logarithm of a / b for b ≤ a ≤ 2 b, in fixed point. -/
def lnNear (a b : Nat) : Nat :=
  let z := (a - b) * fixOne / (a + b)
  2 * atanhSum (z * z / fixOne) 24 1 z

/-- The natural logarithm of a number in fixed point; of 0 the spec states none. -/
def lnOf (n : Nat) : Rat :=
  if n = 0 then Config.logZero
  else
    let k := n.log2
    ((k * lnNear 2 1 + lnNear n (2 ^ k) : Nat) : Rat) / (fixOne : Nat)

/-- `n` terms of the exponential series at x, from the one whose divisor is `k`; `t` is the term before it, in fixed point. -/
def expSum (x : Nat) : Nat → Nat → Nat → Nat
  | 0, _, t => t
  | n + 1, k, t => t + expSum x n (k + 1) (t * x / fixOne / k)

/-- The exponential in fixed point; an exponent above 2,000 counts as 2,000. -/
def expOf (x : Rat) : Rat :=
  let up := fun (y : Rat) =>
    let v := (min y 2000 * (fixOne : Nat)).floor.toNat
    let k := v / lnNear 2 1
    ((2 ^ k * expSum (v % lnNear 2 1) 24 1 fixOne : Nat) : Rat) / (fixOne : Nat)
  if x < 0 then 1 / up (-x) else up x

/-- The square root in fixed point. -/
def sqrtOf (x : Rat) : Rat := ((Nat.sqrt (x * (fixOne * fixOne : Nat)).floor.toNat : Nat) : Rat) / (fixOne : Nat)

/-! ### The estimate -/

/-- Sum of a list of rationals. -/
def ratSum (l : List Rat) : Rat := l.foldl (· + ·) 0

/-- A remaining life in months, rounded down and saturating at 0xFFFE (R425). -/
def monthsOf (x : Rat) : Nat := min 0xFFFE x.floor.toNat

/-- The life of a fit with exponent `n` about the means `mx` and `my` of the logarithms: the time until W reaches 10,000, less the present age; an
exponent that is not positive never reaches it. -/
def powerLife (mx my n age : Rat) : Rat :=
  if n ≤ 0 then 0xFFFE else expOf ((lnOf 10000 - my) / n + mx) - age

/-- The estimate of a power-law monitor (R425): months and band, from (age, W) points. -/
def powerFit (pts : List (Nat × Nat)) (age : Nat) : Nat × Nat :=
  let k : Rat := (pts.length : Nat)
  let xs := pts.map fun p => lnOf p.1
  let ys := pts.map fun p => lnOf p.2
  let mx := ratSum xs / k
  let my := ratSum ys / k
  let sxx := ratSum (xs.map fun x => (x - mx) * (x - mx))
  let sxy := ratSum ((xs.zip ys).map fun p => (p.1 - mx) * (p.2 - my))
  let n := max (1 / 10) (min (1 / 2) (quot sxy sxx))
  let res := ratSum ((xs.zip ys).map fun p => (p.2 - my - n * (p.1 - mx)) * (p.2 - my - n * (p.1 - mx)))
  let s := sqrtOf (quot (res / (k - 2)) sxx)
  let a : Rat := (age : Nat)
  let lo := powerLife mx my (n + 2 * s) a
  let hi := powerLife mx my (n - 2 * s) a
  (monthsOf (powerLife mx my n a), monthsOf (((if lo ≤ hi then hi - lo else lo - hi)) / 2))

/-- The life of a linear monitor at a rise per month; without a rise it never ends. -/
def linearLife (w : Nat) (r : Rat) : Rat := if r ≤ 0 then 0xFFFE else (10000 - ((w : Nat) : Rat)) / r

/-- The estimate of a linear monitor (R425): `daily` holds its daily readings, the newest first; a month is 30 days of 24 power-on hours, and the rise is
that from the oldest sample of the window to the newest. -/
def linearFit (w : Nat) (daily : List Nat) (days : Nat) : Nat × Nat :=
  let d := daily.take (days + 1)
  let n := d.length - 1
  let r : Rat := if n = 0 then 0 else (((d.headD 0 : Int) - (d.getLastD 0 : Int) : Int) : Rat) * 30 / ((n : Nat) : Rat)
  let s := Config.riseSigma ((d.zip (d.drop 1)).map fun p => (p.1 : Int) - (p.2 : Int))
  let lo := linearLife w (r + 2 * s)
  let hi := linearLife w (r - 2 * s)
  (monthsOf (linearLife w r), monthsOf ((if lo ≤ hi then hi - lo else lo - hi) / 2))

/-- Whether the trend of monitor m is linear (Table 19.1). -/
def ageLinear (m : Nat) : Bool := 22 ≤ m && m ≤ 27

/-- The estimate of monitor m: months, band, and whether it has no fit (R425). -/
def HDie.estimate (h : HDie) (m : Nat) : Nat × Nat × Bool :=
  let age := h.ageMonths
  let w := h.rd (Reg.AGE_MVAL_WEAR m)
  if !h.on (Reg.AGE_MCFG_EN m) then (0xFFFF, 0, false)
  else if (h.hist m).length < 4 || w < 100 then (480 - age, 0, true)
  else if ageLinear m then
    let r := linearFit w (aget h.age.daily m []) (max 1 (h.rd Reg.AGE_CFG_WIN_D))
    (r.1, r.2, false)
  else
    let r := powerFit (h.hist m ++ [(age, w)]) age
    (r.1, r.2, false)

/-- The monitor of the lowest estimate among those given (R426). -/
def lowest : List (Nat × Nat × Nat × Bool) → Option (Nat × Nat × Nat × Bool)
  | [] => none
  | x :: r =>
    match lowest r with
    | none => some x
    | some y => if y.2.1 < x.2.1 then some y else some x

/-- The estimate of group g (R426, R428): the lowest of its enabled monitors, and notices of what changed. -/
def HDie.groupEstimate (h : HDie) (es : List (Nat × Nat × Nat × Bool)) (g : Nat) : HDie :=
  let was := h.rd (Reg.AGE_GST_MON g)
  let h1 := match lowest (es.filter fun x => ageGroup x.1 == g && h.on (Reg.AGE_MCFG_EN x.1)) with
    | some (m, mo, band, nofit) =>
      ((((h.wr (Reg.AGE_EST_MONTHS g) mo).wr (Reg.AGE_EST_BAND g) band).wr (Reg.AGE_GST_NOFIT g) (b2n nofit)).wr (Reg.AGE_GST_MON g) m).wr
        (Reg.AGE_GST_FW g) 0
    | none =>
      ((((h.wr (Reg.AGE_EST_MONTHS g) 0xFFFF).wr (Reg.AGE_EST_BAND g) 0).wr (Reg.AGE_GST_NOFIT g) 1).wr (Reg.AGE_GST_MON g) 0x1F).wr
        (Reg.AGE_GST_FW g) 0
  let h2 := h1.lifeFollow g
  let mon := h2.rd (Reg.AGE_GST_MON g)
  if mon != was then h2.lifeNotice g 3 mon else h2

/-- LIF's decision SET on group g (R427): months and band are replaced until the next estimate, and the state follows. -/
def HDie.lifSet (h : HDie) (g months band : Nat) : HDie :=
  let h1 := ((h.wr (Reg.AGE_EST_MONTHS g) months).wr (Reg.AGE_EST_BAND g) band).wr (Reg.AGE_GST_FW g) 1
  (h1.lifeNotice g 4 (h1.rd (Reg.AGE_GST_MON g))).lifeFollow g

/-- LIF is asked about group g (R427); in HW, or without a token, the hardware estimate stands. -/
def HDie.lifAsk (h : HDie) (g : Nat) : HDie :=
  if h.modeOf 11 == 0 then h
  else if h.mayAsk 11 then h.ask 11 (h.lifeWord g 0 (h.rd (Reg.AGE_GST_MON g))) (h.ageMonths % 65536) g
  else h.bump (Reg.SPL_FCNT_DEFAULTED 11)

/-- LIFE_ESTIMATE (R425 to R427): each monitor, then each group. -/
def HDie.lifeEstimate (h : HDie) : HDie :=
  let es := (upto 30).map fun m => (m, h.estimate m)
  let h1 := es.foldl (fun (g : HDie) x => (g.wr (Reg.AGE_MEST_MONTHS x.1) x.2.1).wr (Reg.AGE_MEST_BAND x.1) x.2.2.1) h
  (((h1.groupEstimate es 0).groupEstimate es 1).lifAsk 0).lifAsk 1

end Sys2Proof.Machine
end

