-- ==== Sys2Proof/Machine/HostOps.lean ====
section
/-! DEFINITION. Operations of the host queues (chapter 3): receive buffers and records, cyclic map slots, and Rest's wake (R30, R31). -/
namespace Sys2Proof.Machine

/-- A trigger of R30: in REST the exit begins; an entry not yet complete is abandoned, with TRAFFIC reported (R31; log 88). REQ keeps the value last
written (R10). -/
def HDie.restTrigger (h : HDie) : HDie :=
  match h.rd Reg.PWM_REST_STATE with
  | 1 => (h.wr Reg.PWM_REST_STATE 0).wr Reg.PWM_REST_REFUSE 5
  | 2 => h.wr Reg.PWM_REST_STATE 3
  | _ => h

/-- Whether the write of a started descriptor's data to host memory succeeds. -/
def HDie.setDma (h : HDie) (q ser : Nat) (ok : Bool) : HDie :=
  let c := h.sq q
  h.setSq { c with started := c.started.map fun s => if s.ser == ser then { s with dmaOk := ok } else s }

/-- The next descriptor of queue q to be performed, if its opcode is `op`: no fence before it still waits (R75). -/
def HDie.current (h : HDie) (q op : Nat) : Option Started :=
  let l := (h.sq q).started
  if l.any (fun s => s.phase == 1 && dOp s.desc == 5) then none
  else
    match l.find? fun s => s.phase == 0 with
    | some s => if dOp s.desc == op then some s else none
    | none => none

/-! ### Receive records -/

/-- The record header of Table 3.7. -/
def recordHeader (r : RxRec) (trunc : Bool) : List Byte :=
  leBytes 4 (r.len % 16384 + b2n trunc * 2 ^ 16 + b2n r.untracked * 2 ^ 17 + b2n r.stale * 2 ^ 18 + b2n r.inbox * 2 ^ 19
      + r.cls % 8 * 2 ^ 20)
    ++ leBytes 4 (r.src % 128 + r.stream % 4096 * 2 ^ 7) ++ leBytes 4 (r.seq % 65536) ++ leBytes 4 (r.offset % 2 ^ 24)
    ++ leBytes 8 (timeWord r.time) ++ leBytes 8 0

/-- Drop a record for want of a buffer (R81). -/
def HDie.noBuffer (h : HDie) (cls : Nat) : HDie :=
  (h.bump (Reg.PCI_RXNOBUF_COUNT cls)).event 9 cls 0 cls

/-- Write a record into a buffer and complete it: SUCCESS, or RX_TRUNC where the payload does not fit (R81, R85); DMA_ERROR where the write to host
memory fails (Table 3.10; log 149). -/
def HDie.fillBuffer (h : HDie) (b : RxBuf) (r : RxRec) : HDie :=
  let cut := r.trunc || b.len < 32 + r.payload.length
  let body := recordHeader r cut ++ r.payload.take (b.len - 32)
  let h1 := { h with hostq.bufs := h.hostq.bufs.filter fun x => x.ser != b.ser }
  let res := leNat ((recordHeader r cut).take 8)
  if b.dmaOk then (h1.dma b.haddr body).finish b.q b.ser (if cut then 0x0C else 0) res else h1.finish b.q b.ser 3 res

/-- A record joins those held for a buffer: records of one stream stand in sequence order (R81; log 150). -/
def holdRec (r : RxRec) : List RxRec → List RxRec
  | [] => [r]
  | x :: xs =>
    if x.src == r.src && x.stream == r.stream && !x.inbox && !r.inbox && x.seq != r.seq && (x.seq + 65536 - r.seq) % 65536 < 32768 then r :: x :: xs
    else x :: holdRec r xs

/-- A record arrives for the pool of its class (R80, R81): into the pool's oldest buffer, held while the pool has none, or
dropped where the class is not mapped. -/
def HDie.deliver (h : HDie) (r : RxRec) : HDie :=
  if !h.on (Reg.PCI_RXMAP_EN r.cls) || !h.pcieUp then h.noBuffer r.cls
  else
    let q := h.rd (Reg.PCI_RXMAP_SQ r.cls)
    let waiting := h.hostq.held.any fun x => h.rd (Reg.PCI_RXMAP_SQ x.cls) == q
    match h.hostq.bufs.find? fun b => b.q == q with
    | some b => if waiting then { h with hostq.held := holdRec { r with since := h.tb.now } h.hostq.held } else h.fillBuffer b r
    | none => { h with hostq.held := holdRec { r with since := h.tb.now } h.hostq.held }

/-- The record of a frame delivered to endpoint 424 (Table 3.7). -/
def recordOf (h : HDie) (f : Frame) (stamp : Nat) (untracked : Bool) : RxRec :=
  { cls := hTc f.hdr, len := f.payload.length, trunc := false, untracked := untracked, stale := hStale f.hdr, inbox := false,
    src := hSrc f.hdr, stream := hStream f.hdr, seq := hSeq f.hdr, offset := 0, time := stamp, payload := f.payload,
    since := h.tb.now }

/-! ### Cyclic map slots -/

/-- The stride of a map's two slots (R77). -/
def mapStride (m : CMap) : Nat := 64 + ceilDiv m.len 64 * 64

/-- The header of a slot (Table 3.6). -/
def slotHeader (n : Nat) (stale missing : Bool) (start : Nat) : List Byte :=
  leBytes 4 (n % 2 ^ 32) ++ leBytes 4 (b2n stale + 2 * b2n missing) ++ leBytes 8 (timeWord start)

/-- A map is in force for cycle n, a full cycle number (R76): a cycle uses the maps as they stood at its start. -/
def CMap.inForce (m : CMap) (n : Nat) : Bool := m.from_ ≤ n && (match m.until_ with | some u => decide (n < u) | none => true)

/-- The full number of a cycle that is given modulo 2^32. -/
def HDie.fullOf (h : HDie) (n : Nat) : Nat := fullCycle (h.cycleAt h.tb.now) n

/-- Once every NOTIFY input map in force for cycle n holds it, one CYCLIC event for it (R78). A slot written MISSING holds the cycle too (log 82): its header gives
CYCLE n, so that the host is told of every cycle. -/
def HDie.notifyCycle (h : HDie) (n : Nat) : HDie :=
  let ms := h.hostq.maps.filter fun m => m.dir == 0 && m.notify && m.live && m.inForce (h.fullOf n)
  if !ms.isEmpty && ms.all (fun m => m.have_.contains n) && !h.hostq.cycPost.contains n then
    ({ h with hostq.cycPost := (n :: h.hostq.cycPost).take 4 }).event 5 0 0 n
  else h

/-- Two records of one map: the same MAP_ID, in force from the same cycle. -/
def CMap.same (m x : CMap) : Bool := x.id == m.id && x.from_ == m.from_

/-- Write an image, or MISSING with the data last received (none where none was; log 82), into the slot of one input map: the data before the header
(R77, R78, R85). -/
def HDie.writeSlot (h : HDie) (m : CMap) (n : Nat) (image : Option (List Byte)) (stale : Bool) : HDie :=
  let slot := m.haddr + n % 2 * mapStride m
  let data := match image with
    | some d => slice d m.off m.len
    | none => m.last
  let h1 := if image.isSome || m.seen then h.dma (slot + 64) data else h
  let h2 := if image.isSome then h1 else h1.bump Reg.PCI_CYCSTAT_IN_MISSING
  let h3 := h2.dma slot (slotHeader n stale image.isNone (h2.cycleStart n))
  { h3 with hostq.maps := h3.hostq.maps.map fun x =>
      if m.same x then { x with have_ := (n :: x.have_).take 4, last := data, seen := x.seen || image.isSome } else x }

/-- Write an arrived image of a hub into every input map of it, as the maps stood for that cycle, that does not yet hold the cycle (R76, R78). -/
def writeSlots (hub n : Nat) (image : Option (List Byte)) (stale : Bool) : List CMap → HDie → HDie
  | [], h => h
  | m :: ms, h =>
    writeSlots hub n image stale ms
      (if m.dir == 0 && m.live && m.hub == hub && m.inForce (h.fullOf n) && !m.have_.contains n then h.writeSlot m n image stale else h)

/-- An input image of cycle n of a hub reaches the host's maps (R77, R78); N is the low 32 bits of the cycle number. -/
def HDie.imageToMaps (h : HDie) (hub n : Nat) (image : Option (List Byte)) (stale : Bool) : HDie :=
  (writeSlots hub (n % 2 ^ 32) image stale h.hostq.maps h).notifyCycle (n % 2 ^ 32)

end Sys2Proof.Machine
end

