-- ==== Sys2Proof/Machine/TimeOps.lean ====
section
/-! DEFINITION. Operations of the time base that other units use: stamps (R236), the IEEE 1588 stamp FIFOs (R243), and the
values the spec leaves open. -/
namespace Sys2Proof.Machine

/-- A value that the spec leaves open, and the state with the free-value counter advanced (log 5). -/
def HDie.openValue (h : HDie) : Nat × HDie := (Config.freeValue h.free, { h with free := h.free + 1 })

/-- Stamp corrections of Table 9.1 in 2^-8 ns, rounded to the nearest: ingress and egress of port p (0 E, 1 W, 2 + s a spur). -/
def HDie.corr (h : HDie) (p : Nat) : Nat × Nat :=
  if p < 2 then
    if h.on (Reg.RNG_PSTAT_RATE p) then (23757, 13926)
    else if h.on (Reg.RNG_PSTAT_FEC_ON p) then (33587, 15565)
    else (9830, 5734)
  else
    let s := p - 2
    if !h.on (Reg.SPU_CFG_RATE s) then (22938, 13107)
    else if h.on (Reg.SPU_CFG_FEC s) then (34406, 15974)
    else (10650, 6144)

/-- The referred ingress stamp of a frame whose MAC stamp is `t` (R236). -/
def HDie.ingress (h : HDie) (p t : Nat) : Nat := t - 2 ^ 24 * ((h.corr p).1 + h.rd (Reg.TIM_PCORR_ING_BRD p))

/-- The referred egress stamp of a frame whose MAC stamp is `t` (R236). -/
def HDie.egress (h : HDie) (p t : Nat) : Nat := t + 2 ^ 24 * ((h.corr p).2 + h.rd (Reg.TIM_PCORR_EGR_BRD p))

/-- TIM_RES is the mean residence of the SYNC copies forwarded in the hub's last 16 cycles; with none of them it keeps its value (R240). -/
def HDie.resAge (h : HDie) : HDie :=
  let k := h.tb.running.getD 0
  let l := h.tb.resid.filter fun (x : Nat × Nat) => k < x.1 + 16
  let h1 := { h with tb.resid := l }
  if l.isEmpty then h1 else h1.wr Reg.TIM_RES_RES ((l.map fun (x : Nat × Nat) => x.2).sum / l.length)

/-- The 16-bit big-endian number at an offset of an Ethernet frame. -/
def be16 (bs : List Byte) (o : Nat) : Nat := beNat (slice bs o 2)

/-- Where an IEEE 1588 message begins in an Ethernet frame, if an enabled transport carries one (R243): EtherType 0x88F7, also
after one 802.1Q tag, or UDP over IPv4 to port 319. -/
def HDie.ptpAt (h : HDie) (s : Nat) (bs : List Byte) : Option Nat :=
  let tagged := be16 bs 12 == 0x8100
  let o := if tagged then 16 else 12
  if h.on (Reg.TIM_PTPCFG_ETH s) && be16 bs o == 0x88F7 then some (o + 2)
  else if h.on (Reg.TIM_PTPCFG_UDP4 s) && be16 bs 12 == 0x0800 then
    let ihl := ((bs.getD 14 0).toNat % 16) * 4
    if (bs.getD 14 0).toNat / 16 == 4 && (bs.getD 23 0).toNat == 17 && be16 bs (14 + ihl + 2) == 319 then some (14 + ihl + 8) else none
  else none

/-- Store a stamp for an event message received (`tx` false) or sent on spur s (R243, Table 9.5): a full FIFO of 16 drops it and
sets OVF. -/
def HDie.ptpStamp (h : HDie) (s : Nat) (tx : Bool) (bs : List Byte) (t : Nat) : HDie :=
  if !h.on (Reg.TIM_PTPCFG_EN s) then h
  else
    match h.ptpAt s bs with
    | none => h
    | some o =>
      let mt := (bs.getD o 0).toNat % 16
      if 3 < mt || (h.rd (Reg.TIM_PTPCFG_TYPES s) >>> mt) % 2 == 0 then h
      else
        let id := mt + 16 + (bs.getD (o + 4) 0).toNat * 2 ^ 8 + be16 bs (o + 30) * 2 ^ 16
        let st : PtpStamp := { id := id, time := t }
        if tx then
          let n := h.rd (Reg.TIM_PTPSTAT_TXN s)
          if 16 ≤ n then h.raise (Reg.TIM_PTPSTAT_TXOVF s)
          else { h.wr (Reg.TIM_PTPSTAT_TXN s) (n + 1) with tb.ptpTx := h.tb.ptpTx ++ [(s, st)] }
        else
          let n := h.rd (Reg.TIM_PTPSTAT_RXN s)
          if 16 ≤ n then h.raise (Reg.TIM_PTPSTAT_RXOVF s)
          else { h.wr (Reg.TIM_PTPSTAT_RXN s) (n + 1) with tb.ptpRx := h.tb.ptpRx ++ [(s, st)] }

end Sys2Proof.Machine
end

