-- ==== Sys2Proof/Machine/Sched.lean ====
section
/-! DEFINITION. The schedulers of the output ports: which frame leaves next (R165), the SYNC guard (R239), launches (R241, R242), the cyclic deadline
(R186), the spur's length check (R130); and what ports 6 to 9 take from their queues (R78, R81, R164, R178). -/
namespace Sys2Proof.Machine

/-- The payload rate of port p in Gb/s (R185): 50, or 20 at fallback rate; a spur's line rate. -/
def HDie.portRate (h : HDie) (p : Nat) : Nat :=
  if p < 2 then (if h.on (Reg.RNG_PSTAT_RATE p) then 20 else 50)
  else if p < 6 then (if h.on (Reg.SPU_CFG_RATE (p - 2)) then 25 else 10)
  else 64

/-- How long a stored frame takes on port p, in 2^-32 ns: on the ring its bytes and 8 inter-frame characters, which makes the 52 bytes of R185 beside an image; on a spur
its payload with FCS, preamble and the gap after it. -/
def HDie.frameTime (h : HDie) (p : Nat) (s : Stored) : Nat :=
  2 ^ 35 * (if p < 2 then s.whole + 8 else s.whole - 28 + 24) / h.portRate p

/-- Whether this hub is in LEAD or HANDING (Table 5.5). -/
def HDie.leads (h : HDie) : Bool := h.rd Reg.RED_LEADSTAT_STATE == 3 || h.rd Reg.RED_LEADSTAT_STATE == 4

/-- The guard window of SYNC n on ring port p forbids starting a frame of another class that would end at `t1` (R239, log 20): a frame still in transmission at the
SYNC's instant X; and any from X until the copy, or a newer one, has left, or without a valid path delay until S_N + WCL + 2 µs. `t0` and `t1` are egress
stamps. -/
def HDie.guardBars (h : HDie) (p n t0 t1 : Nat) : Bool :=
  let s := h.cycleStart n
  let pdv := if p == 0 then h.on Reg.TIM_OFFSTAT_PDAV else h.on Reg.TIM_OFFSTAT_PDBV
  let pd := if p == 0 then h.rd Reg.TIM_PDA_PD else h.rd Reg.TIM_PDB_PD
  let x := if h.leads || !pdv then s else s + 2 ^ 24 * (pd + h.rd Reg.TIM_RES_RES)
  let gone := ahas h.tb.syncOut p && (aget h.tb.syncOut p 0 + 2 ^ 32 - n % 2 ^ 32) % 2 ^ 32 < 2 ^ 31
  let close := s + ofNs (h.rd Reg.RED_WCL_WCL_NS) + ofUs 2
  h.tb.firstAct ≤ n && !gone && ((x ≤ t0 + ofNs (h.rd Reg.TIM_GUARD_NS) && t0 < x && x < t1) || (x ≤ t0 && (pdv || t0 < close)))

/-! ### Launches (R241) -/

/-- A frame's launch time governs its copy on port p: on the ring, and on a spur where the frame is for the hub's own number (R242). -/
def Stored.governs (s : Stored) (p : Nat) : Bool := s.launch.isSome && (p < 2 || (p < 6 && hDst s.frame.hdr != 127))

/-- The egress stamp of a frame that starts on port p at t (R236). -/
def HDie.outAt (h : HDie) (p t : Nat) : Nat := if p < 6 then h.egress p t else t

/-- The launch time of a copy on port p has come: its egress stamp would not lie before it (R241). -/
def HDie.launched (h : HDie) (p : Nat) (s : Stored) : Bool := s.governs p && s.launch.getD 0 ≤ h.outAt p h.tb.now

/-- The next cycle to start, and its start (R234, R235). -/
def HDie.nextStart (h : HDie) : Nat × Nat :=
  let e := h.epoch
  let c := ofNs (h.rd Reg.TIM_CYCLE_NS)
  let k := max (if h.tb.now < e then 0 else h.cycleAt h.tb.now + 1) (match h.tb.running with | some r => r + 1 | none => h.tb.firstAct)
  (k, e + k * c)

/-- This hub sources a CYCLIC frame under the plan in force (R186). -/
def HDie.bursts (h : HDie) : Bool :=
  match h.sw.inForce with
  | none => false
  | some p =>
    h.numbered && h.hubNum < p.m && h.on Reg.TIM_CYCLE_EN
      && (p.ins.getD h.hubNum 0 != 0 || (indexed p.outs).any fun x => x.2.2 == h.hubNum && x.2.1 != 0 && x.1 != h.hubNum)

/-- The first burst still to come that is launched after now: its launch time (R186). -/
def HDie.nextBurst (h : HDie) : Nat :=
  let c := ofNs (h.rd Reg.TIM_CYCLE_NS)
  let e := h.epoch + ofNs (h.rd Reg.SWC_LAUNCH_NS)
  e + max h.sw.burst (if h.tb.now < e then 0 else cycleOf e c h.tb.now + 1) * c

/-- The launches on port p that are still to come (R241): of SYNC at the lead, of the images, and of LAUNCH_AT frames: time, class, and the stored frame of one that is
queued. -/
def HDie.comingLaunches (h : HDie) (p : Nat) : List (Nat × Nat × Option Nat) :=
  let ring := p < 2 && h.active p && h.on Reg.TIM_CYCLE_EN
  let sync := ring && (h.rd Reg.RED_LEADSTAT_STATE == 3 || (h.rd Reg.RED_LEADSTAT_STATE == 4 && !h.red.handSent))
  (if sync then [(h.nextStart.2, 7, none)] else []) ++ (if ring && h.bursts then [(h.nextBurst, 6, none)] else [])
    ++ (h.sw.stored.filter fun x => x.governs p && !h.launched p x && h.sw.copies.any fun c => c.fid == x.fid && c.q / 8 == p).map
      fun x => (x.launch.getD 0, hTc x.frame.hdr, some x.fid)

/-- Of two launches on one port the higher class leaves first, and within a class the frame that was queued first (R241); any launch goes before a frame without a launch time. -/
def HDie.goesFirst (h : HDie) (p : Nat) (s : Stored) (cl : Nat) (fid : Option Nat) : Bool :=
  if h.launched p s then hTc s.frame.hdr < cl || (hTc s.frame.hdr == cl && fid.any fun i => decide (i < s.fid)) else true

/-- Whether port p may start a frame of class tc now: outside the guard windows of the last SYNC, the present and the next one
(R239), and ended before every coming launch on the port that goes before it (R241). -/
def HDie.mayStart (h : HDie) (p tc : Nat) (s : Stored) : Bool :=
  let t0 := h.outAt p h.tb.now
  let t1 := t0 + h.frameTime p s
  let n := h.cycleAt h.tb.now
  let guarded := p < 2 && tc != 7 && h.on Reg.TIM_GUARD_EN && h.on Reg.TIM_CYCLE_EN && h.rd Reg.RED_LEADSTAT_LEAD_HUB != 0x7F
    && [n - 1, n, n + 1].any fun k => h.guardBars p k t0 t1
  !guarded && !(h.comingLaunches p).any fun l => h.tb.now < l.1 && l.1 < t1 && l.2.2 != some s.fid && h.goesFirst p s l.2.1 l.2.2

/-! ### The scheduler (R165) -/

/-- The first copy of a queue that may leave: copies of one ingress port keep their order; a frame that waits for its launch does not
hold others back (R165, R241), one that DUP holds does (R148, log 188). -/
def firstReady (h : HDie) (p : Nat) : List Copy → List Nat → Option (Copy × Stored)
  | [], _ => none
  | c :: cs, bars =>
    match h.getStored c.fid with
    | none => firstReady h p cs bars
    | some s =>
      if !bars.contains s.inPort && ((c.ready && !s.governs p) || h.launched p s) then some (c, s)
      else if s.launch.isSome then firstReady h p cs bars
      else firstReady h p cs (s.inPort :: bars)

/-- The first copy of a queue whose launch time has come (R241). -/
def firstLaunched (h : HDie) (p : Nat) : List Copy → Option (Copy × Stored)
  | [] => none
  | c :: cs =>
    match h.getStored c.fid with
    | none => firstLaunched h p cs
    | some s => if h.launched p s then some (c, s) else firstLaunched h p cs

/-- A CYCLIC frame whose deadline D_N has passed (R186). -/
def HDie.tooLate (h : HDie) (s : Stored) : Bool := s.due.any fun d => decide (d < h.tb.now)

/-- CYCLIC_DEADLINE_DISCARD (R186) and the spur's length check (R130): discard what reaches the head of queue q and may not leave; then the head, or where `due` the first
frame whose launch time has come. -/
def headLoop (due : Bool) (q : Nat) : Nat → HDie → HDie × Option (Copy × Stored)
  | 0, h => (h, none)
  | k + 1, h =>
    let l := h.sw.copies.filter fun c => c.q == q
    match if due then firstLaunched h (q / 8) l else firstReady h (q / 8) l [] with
    | none => (h, none)
    | some (c, s) =>
      let sp := q / 8 - 2
      let len := s.whole - 28
      if h.tooLate s then headLoop due q k ((h.bump (Reg.SWC_QSTALE_COUNT q)).dropCopy c.fid q)
      else if 2 ≤ q / 8 && q / 8 < 6 && (len < 60 || h.rd (Reg.SPU_CFG_MAXLEN sp) < len) then
        headLoop due q k ((h.bump (Reg.SPU_TXDROP_COUNT sp)).dropCopy c.fid q)
      else if h.mayStart (q / 8) (q % 8) s then (h, some (c, s))
      else (h, none)

/-- The head of a queue. -/
def HDie.head (h : HDie) (due : Bool) (q : Nat) : HDie × Option (Copy × Stored) := headLoop due q (h.sw.copies.length + 1) h

/-- Strict priority: the first class of a list whose queue has a head. -/
def strict (due : Bool) (p : Nat) : List Nat → HDie → HDie × Option (Copy × Stored)
  | [], h => (h, none)
  | c :: cs, h =>
    let r := h.head due (8 * p + c)
    match r.2 with
    | some x => (r.1, some x)
    | none => strict due p cs r.1

/-- The order in which the turns of TC3 to TC1 are tried after class c. -/
def wrrAfter (c : Nat) : List Nat :=
  match c with
  | 3 => [2, 1, 3]
  | 2 => [1, 3, 2]
  | _ => [3, 2, 1]

/-- The next turn of the weighted round robin that has a frame (R165): its class. -/
def nextTurn (p : Nat) : List Nat → HDie → HDie × Option (Copy × Stored)
  | [], h => (h, none)
  | c :: cs, h =>
    let r := h.head false (8 * p + c)
    match r.2 with
    | some x =>
      let w := max 1 (r.1.rd (Reg.SWC_QCFG_WEIGHT (8 * p + c)))
      ({ r.1 with sw.turns := aput (aput r.1.sw.turns (2 * p) c) (2 * p + 1) (w - 1) }, some x)
    | none => nextTurn p cs r.1

/-- Weighted round robin over TC3, TC2 and TC1 (R165). -/
def HDie.wrr (h : HDie) (p : Nat) : HDie × Option (Copy × Stored) :=
  let cur := aget h.sw.turns (2 * p) 0
  let left := aget h.sw.turns (2 * p + 1) 0
  if 1 ≤ cur && cur ≤ 3 && left != 0 then
    let r := h.head false (8 * p + cur)
    match r.2 with
    | some x => ({ r.1 with sw.turns := aput r.1.sw.turns (2 * p + 1) (left - 1) }, some x)
    | none => nextTurn p (wrrAfter cur) r.1
  else nextTurn p (wrrAfter cur) h

/-- The first that serves, of two ways to find a frame. -/
def orThen (a : HDie × Option (Copy × Stored)) (g : HDie → HDie × Option (Copy × Stored)) : HDie × Option (Copy × Stored) :=
  match a.2 with
  | some x => (a.1, some x)
  | none => g a.1

/-- The resequencer of port p waits for a cell that a plane discarded (R168). -/
def HDie.stalled (h : HDie) (p : Nat) : Bool := h.sw.copies.any fun c => c.q / 8 == p && c.lost.isSome && !c.leaving

/-- The frame that port p serves next: one whose launch time has come (R241), then by class (R165). -/
def HDie.pick (h : HDie) (p : Nat) : HDie × Option (Copy × Stored) :=
  if h.stalled p then (h, none) else
  orThen (orThen (orThen (strict true p [7, 6, 5, 4, 3, 2, 1, 0] h) (strict false p [7, 6, 5, 4])) (fun g => g.wrr p)) (strict false p [0])

/-! ### The way of a frame's cells to its port (Tables 15.1 and 15.2) -/

/-- The links to the cells are read: the flag says that one is uncorrectable. -/
def readLinks : List Nat → HDie → HDie × Bool
  | [], h => (h, false)
  | c :: cs, h =>
    let r := h.readWords 0xFF 0xE (32 + c / 8192) (c % 8192) 1
    let t := readLinks cs r.1
    (t.1, r.2 || t.2)

/-- The planes read the cells, from the `k`-th on: the first that one discards. -/
def readCells : Nat → List Nat → HDie → HDie × Option Nat
  | _, [], h => (h, none)
  | k, c :: cs, h =>
    let r := h.readWords 0xFF 0xE (c / 1024) (8 * (c % 1024)) 8
    let t := readCells (k + 1) cs r.1
    (t.1, if r.2 then some k else t.2)

/-- The cells pass the window of the resequencer of port p, each in the place that its sequence number names: the flag says that a word of one is uncorrectable. -/
def HDie.passWindow (h : HDie) (p seq n : Nat) : HDie × Bool :=
  let a := seq % 256
  let k := min n (256 - a)
  let r := ((h.writeWords (36 + p) a k).writeWords (36 + p) 0 (n - k)).readWords 0xFF 0xE (36 + p) a k
  let t := r.1.readWords 0xFF 0xE (36 + p) 0 (n - k)
  (t.1, r.2 || t.2)

/-- The cells of a copy go from the buffer to its port. Where a link or a place of the window is uncorrectable the frame is dropped there and counted as a loss; where a
plane discards a cell the resequencer waits for it (R168, Table 15.2). The flag says that the frame is there. -/
def HDie.carry (h : HDie) (c : Copy) (s : Stored) : HDie × Bool :=
  let drop := fun (g : HDie) => (g.bump (Reg.SWC_RSQLOST_COUNT (c.q / 8))).dropCopy c.fid c.q
  let l := readLinks s.place h
  if l.2 then (drop l.1, false)
  else
    let r := readCells 0 s.place l.1
    match r.2 with
    | some k => ({ r.1 with sw.copies := r.1.sw.copies.map fun (x : Copy) => if x.fid == c.fid && x.q == c.q then { x with lost := some k } else x }, false)
    | none =>
      let w := r.1.passWindow (c.q / 8) c.seq s.place.length
      if w.2 then (drop w.1, false) else (w.1, true)

/-- The first frame that port p serves whose cells reach it. -/
def serveNext (p : Nat) : Nat → HDie → HDie × Option (Copy × Stored)
  | 0, h => (h, none)
  | k + 1, h =>
    let r := h.pick p
    match r.2 with
    | none => (r.1, none)
    | some (c, s) =>
      let t := r.1.carry c s
      if t.2 then (t.1, some (c, s)) else serveNext p k t.1

/-- The frame that port p serves next, with its cells read. -/
def HDie.serveOut (h : HDie) (p : Nat) : HDie × Option (Copy × Stored) := serveNext p (h.sw.copies.length + 1) h

/-! ### What ports 6 to 9 take -/

/-- The output image of a cycle goes to the field die (R26, R471). -/
def HDie.imageToField (h : HDie) (n : Nat) (image : List Byte) : HDie :=
  (imageMsgs 0x21 n image).foldl (fun g m => g.toField m) h

/-- Where mirror samples go (R178): to the management core, or to the host pool of class TC. -/
def HDie.takeSample (h : HDie) (s : Stored) : HDie :=
  if h.on Reg.SWC_MIRCFG_DEST && h.hostAttached then
    { h with sw.mirSeq := (h.sw.mirSeq + 1) % 65536 }.deliver
      { cls := h.rd Reg.SWC_MIRCFG_TC, len := s.whole, trunc := 128 < s.whole, untracked := false, stale := false, inbox := false,
        src := h.hubNum, stream := 0xFC2, seq := h.sw.mirSeq, offset := 0, time := s.stamp, payload := s.frame.payload,
        since := h.tb.now }
  else { h with sw.coreRx := h.sw.coreRx ++ [s.frame] }

/-- Port 6 to 9 takes a whole frame from queue q (R78, R81, R164, R178): the host, the field die, the management core or the mirror. -/
def HDie.taken (h : HDie) (s : Stored) (q : Nat) (untrk : Bool) : HDie :=
  match q / 8 with
  | 6 =>
    if hType s.frame.hdr == 4 then
      h.imageToMaps (hSrc s.frame.hdr) (hCycle s.frame.hdr) (some (s.frame.payload.drop 16)) (hStale s.frame.hdr)
    else h.deliver (recordOf h s.frame s.stamp untrk)
  | 7 => h.imageToField (hCycle s.frame.hdr) (s.frame.payload.drop 16)
  | 8 => { h with sw.coreRx := h.sw.coreRx ++ [s.frame] }
  | _ => h.takeSample s

/-- The first copy of a stored frame starts to leave (R176). -/
def HDie.starts (h : HDie) (fid : Nat) : HDie :=
  { h with sw.stored := h.sw.stored.map fun (x : Stored) => if x.fid == fid && x.left.isNone then { x with left := some h.tb.now } else x }

/-- A copy in a queue of ports 6 to 9 is handed over, counted and freed. -/
def HDie.handOver (h : HDie) (c : Copy) (s : Stored) : HDie :=
  (((h.starts c.fid).taken s c.q c.untrk).bump (Reg.SWC_QTXFRM_COUNT c.q)).dropCopy c.fid c.q

/-- Port p hands over what its scheduler serves, frame after frame. -/
def serveLoop (p : Nat) : Nat → HDie → HDie
  | 0, h => h
  | k + 1, h =>
    let r := h.serveOut p
    match r.2 with
    | none => r.1
    | some (c, s) => serveLoop p k (r.1.handOver c s)

/-- The host, the field die and the management core take at once what stands in their queues, in the order of R165, while their port is OPEN and no frame is
leaving it (log 166). -/
def HDie.servePort (h : HDie) (p : Nat) : HDie :=
  if h.portState p != 0 || h.sw.copies.any (fun c => c.leaving && c.q / 8 == p) then h
  else serveLoop p (h.sw.copies.filter fun c => c.q / 8 == p).length h

/-- Ports 6 to 8 take what stands in their queues. -/
def HDie.serveLocal (h : HDie) : HDie := ((h.servePort 6).servePort 7).servePort 8

end Sys2Proof.Machine
end

