-- ==== Sys2Proof/Machine/HostQueues.lean ====
section
/-! DEFINITION. The commands of the host queues (chapter 3) that concern the hub's own side: doorbells, enables, descriptor
fetch, frames, fences, launches, maps, receive buffers, NOP, cyclic slots, interrupts. Remote accesses stand in
Machine/Remote.lean and replies in Machine/SplitFn.lean. -/
namespace Sys2Proof.Machine

/-- SQ_TAIL_DOORBELL (R50, R62): to a disabled queue it is ignored with DB_IGNORED; an index out of range or one that withdraws
descriptors is ignored with a QUEUE_ERROR; else the descriptors become available. A doorbell is a Rest trigger (R30). -/
def HDie.sqDoorbell (h : HDie) (q v : Nat) : HDie :=
  let i := v % 65536
  let n := h.sqSize q
  let h0 := h.restTrigger
  if !h.on (Reg.PCI_SQCFG_EN q) then h0.raise Reg.PCI_ERR_DB_IGNORED
  else if n ≤ i then h0.queueError 0 q 1 v
  else if (i + n - h.rd (Reg.PCI_SQSTAT_HEAD q)) % n < h.sqAvail q then h0.queueError 0 q 2 v
  else (h0.wr (Reg.PCI_SQTAIL_TAIL q) i).stalls (h.rd (Reg.PCI_SQCFG_CQ q))

/-- The head doorbell of a completion queue, or of the event queue as 64 (R62, R64, R90): it is treated against the tail as a tail
doorbell is against the head; entries are released, and the queue is armed again, with what is left unsignalled. -/
def HDie.headDoorbell (h : HDie) (q v : Nat) : HDie :=
  let i := v % 65536
  let r := cqRegs q
  let n := h.cqSize q
  let c := h.cq q
  let h0 := h.restTrigger
  let typ := if q = 64 then 2 else 1
  if !h.on r.en then h0.raise Reg.PCI_ERR_DB_IGNORED
  else if n ≤ i then h0.queueError typ q 1 v
  else if (h.rd r.tail + n - c.head) % n < (h.rd r.tail + n - i) % n then h0.queueError typ q 2 v
  else
    let left := (h.rd r.tail + n - i) % n
    let h1 := (h0.setCq { c with head := i, unsig := left, since := h.tb.now }).wr r.armed 1
    h1.moderate q

/-- Retire every submission queue bound to completion queue `cq` that has something due (R65). -/
def retireBound (cq : Nat) : List Nat → HDie → HDie
  | [], h => h
  | q :: qs, h => retireBound cq qs (if h.rd (Reg.PCI_SQCFG_CQ q) == cq then h.retire q else h)

/-- A write to a queue's CFG register (R59, R60, R90): kind 0 SQ, 1 CQ, 2 EQ. Setting EN enables the queue with head and tail 0,
armed, or is refused with CFG_REFUSED; while EN is 1 the base and LOG2SIZE do not change. Clearing EN of a completion
queue that an enabled submission queue is bound to is ignored. HA-host functions return once the event queue is enabled with
the link up (R33). -/
def HDie.queueCfg (h : HDie) (kind q v : Nat) : HDie :=
  let en := v % 2 == 1
  let log2 := fieldOf v 8 5
  if !h.hostAttached then (if en then h.raise Reg.PCI_ERR_CFG_REFUSED else h)
  else if kind = 0 then
    let isOn := h.on (Reg.PCI_SQCFG_EN q)
    let h1 := (((h.wr (Reg.PCI_SQCFG_PRIO q) (fieldOf v 24 1)).wr (Reg.PCI_SQCFG_WEIGHT q) (fieldOf v 28 4)).wr
      (Reg.PCI_SQCFG_CQ q) (fieldOf v 16 6))
    if isOn then (if en then h1 else h1.wr (Reg.PCI_SQCFG_EN q) 0)
    else
      let h2 := h1.wr (Reg.PCI_SQCFG_LOG2SIZE q) log2
      if !en then h2
      else if log2 < 4 || 16 < log2 || h2.rd (Reg.PCI_SQBASE_ADDR q) % 4096 != 0
          || !h2.on (Reg.PCI_CQCFG_EN (fieldOf v 16 6)) then h2.raise Reg.PCI_ERR_CFG_REFUSED
      else (((h2.wr (Reg.PCI_SQCFG_EN q) 1).wr (Reg.PCI_SQSTAT_HEAD q) 0).wr (Reg.PCI_SQTAIL_TAIL q) 0).wr (Reg.PCI_SQSTAT_HALT q) 0
  else
    let k := if kind = 2 then 64 else q
    let r := cqRegs k
    let isOn := h.on r.en
    let h1 := (h.wr r.vec (fieldOf v 16 8)).wr r.ien (fieldOf v 24 1)
    if isOn then
      if en then h1
      else if kind = 1 && (upto 64).any (fun s => h.on (Reg.PCI_SQCFG_EN s) && h.rd (Reg.PCI_SQCFG_CQ s) == q) then h
      else h1.wr r.en 0
    else
      let h2 := h1.wr r.log2 log2
      if !en then h2
      else if log2 < 4 || 16 < log2 || h2.rd r.base % 4096 != 0 then h2.raise Reg.PCI_ERR_CFG_REFUSED
      else
        let h3 := ((((h2.wr r.en 1).wr r.tail 0).wr r.phase 1).wr r.armed 1).wr r.halt 0
        let h4 := h3.setCq { q := k, head := 0, unsig := 0, since := h3.tb.now }
        if kind = 2 then (h4.serveAll).drain else h4

def execQueueEnable (kind : Fin 3) (q : Fin 64) (v : Word) (s : State) : Host.Outcome State Fault Refusal :=
  onH (fun h => h.queueCfg kind q v.toNat) s

/-- SQ_DISABLE (R91): EN clears and nothing more is fetched; started descriptors complete, and IDLE then reads 1. -/
def execSqDisable (q : Fin 64) (s : State) : Host.Outcome State Fault Refusal :=
  onH (fun h => if h.hostAttached then h.wr (Reg.PCI_SQCFG_EN q) 0 else h) s

/-! ### Fetch -/

/-- A FENCE of queue q has not completed: no later descriptor of the queue is started (R75). -/
def HDie.fenced (h : HDie) (q : Nat) : Bool := (h.sq q).started.any fun s => dOp s.desc == 5 && s.phase != 2

/-- Whether queue q has descriptors that may be fetched (R65, R67, R75, R86, R88). -/
def HDie.fetchable (h : HDie) (q : Nat) : Bool :=
  let cq := h.rd (Reg.PCI_SQCFG_CQ q)
  h.on (Reg.PCI_SQCFG_EN q) && !h.fenced q && !h.on (Reg.PCI_SQSTAT_HALT q) && h.sqAvail q != 0 && (h.sq q).started.length < 32
    && h.pcieUp && !h.on (cqRegs cq).halt && !h.cqFull cq

/-- The queue that is served next, and the descriptors left in its turn (R67): PRIO first, then weighted round robin within the
priority; a WEIGHT of 0 acts as 1. -/
def HDie.served (h : HDie) : Option (Nat × Nat × Bool) :=
  let c := (upto 64).filter h.fetchable
  let hi := c.filter fun q => h.on (Reg.PCI_SQCFG_PRIO q)
  let pool := if hi.isEmpty then c else hi
  let lvl := b2n (!hi.isEmpty)
  let t := aget h.hostq.turnQ (2 * lvl) 64
  let left := aget h.hostq.turnQ (2 * lvl + 1) 0
  if pool.contains t && left != 0 then some (t, left, pool.length == 1)
  else
    match (pool.filter fun q => t < q) ++ pool with
    | [] => none
    | q :: _ => some (q, max 1 (h.rd (Reg.PCI_SQCFG_WEIGHT q)), pool.length == 1)

/-- Start fetched descriptors in order (R67, R69): an opcode not in Table 3.2 completes with INVALID_OPCODE, and a reserved field other
than 0 with INVALID_FIELD (R68). -/
def startDescs (q : Nat) : List Desc → HDie → HDie
  | [], h => h
  | d :: ds, h =>
    let c := h.sq q
    let head := h.rd (Reg.PCI_SQSTAT_HEAD q)
    let ser := h.hostq.ser
    let s : Started := { ser := ser, desc := d, slot := head, phase := 0, status := 0, result := 0, dmaOk := true }
    let h1 := ({ h with hostq.ser := ser + 1 }.setSq { c with started := c.started ++ [s] }).wr (Reg.PCI_SQSTAT_HEAD q)
      ((head + 1) % h.sqSize q)
    startDescs q ds
      (if dOp d == 0 || 10 < dOp d then h1.finish q ser 1 0
       else if dReserved d then h1.finish q ser 2 0
       else h1)

/-- A burst ends with a FENCE: what follows it is not started until it completes (R75). -/
def toFence : List Desc → List Desc
  | [] => []
  | d :: ds => if dOp d == 5 then [d] else d :: toFence ds

/-- DESCRIPTOR_FETCH (R67): the served queue fetches a burst of up to 8 of its available descriptors, at most 32 in flight; `ds` is what
host memory held from the head on. Not in Rest (R29), and not of a queue that is not served now. -/
def HDie.fetch (h : HDie) (q : Nat) (ds : List Desc) : HDie :=
  if 2 ≤ h.rd Reg.PWM_REST_STATE then h
  else
    match h.served with
    | none => h.stalls (h.rd (Reg.PCI_SQCFG_CQ q))
    | some (t, left, alone) =>
      if t != q then h
      else
        let room := min (min 8 (h.sqAvail q)) (32 - (h.sq q).started.length)
        let burst := toFence (ds.take (if alone then room else min room left))
        let lvl := b2n (h.on (Reg.PCI_SQCFG_PRIO q))
        let h1 := { h with hostq.turnQ := aput (aput h.hostq.turnQ (2 * lvl) q) (2 * lvl + 1) (left - burst.length) }
        (startDescs q burst h1).stalls (h1.rd (Reg.PCI_SQCFG_CQ q))

def execDescriptorFetch (q : Fin 64) (ds : List Desc) (s : State) : Host.Outcome State Fault Refusal :=
  onH (fun h => h.fetch q ds) s

/-- FETCH_DMA_FAILURE (R86): a descriptor fetch of a queue that may be fetched from fails: the queue halts, and a QUEUE_ERROR with cause FETCH_DMA is
posted. -/
def HDie.fetchFailed (h : HDie) (q : Nat) : HDie :=
  if h.fetchable q && h.rd Reg.PWM_REST_STATE < 2 then (h.raise (Reg.PCI_SQSTAT_HALT q)).queueError 0 q 3 (h.rd (Reg.PCI_SQTAIL_TAIL q)) else h

def execFetchDmaFailure (q : Fin 64) (s : State) : Host.Outcome State Fault Refusal := onH (fun h => h.fetchFailed q) s

/-! ### Frames -/

/-- The fields of SEND_FRAME and LAUNCH_AT are outside R70. -/
def frameBad (d : Desc) : Bool :=
  let dest := d.d1.fld 0 7
  let ep := d.d1.fld 8 10
  let stream := d.d2.fld 0 12
  let len := d.d2.fld 16 14
  3 < d.d1.fld 20 3 || ep < 420 || 424 < ep || 0xFC0 ≤ stream || len < 1 || 9728 < len || (120 ≤ dest && dest < 127)

/-- Where a frame of the hub's own host goes (R36, R39, R70): delivered locally, sent on the ring. -/
def frameRoute (h : HDie) (dest : Nat) : Bool × Bool :=
  if !h.numbered then (dest == 127, false)
  else if dest == h.hubNum then (true, false)
  else (dest == 127, true)

/-- The local copy of a sourced frame (R130, R164): a spur's queue for endpoints 420 to 423, the host's for 424. -/
def ownWant (h : HDie) (ep tc : Nat) (ready : Bool) : List Want :=
  if 420 ≤ ep && ep ≤ 423 then [{ q := 8 * (ep - 418) + tc, ready := ready, untrk := false }]
  else if ep == 424 && h.hostAttached then [{ q := 48 + tc, ready := true, untrk := false }]
  else []

/-- Source a DATA or SPUR frame of this hub's own (R25, R70, R129, R135, R136): numbered in its stream, queued on both paths, and for the hub's own
endpoint. The result says whether it went anywhere, and the stored frame. -/
def HDie.sendOwn (h : HDie) (inp typ tc stream dest ep : Nat) (data : List Byte) (launch : Option Nat) (stamp : Nat) : HDie × Bool × Option Nat :=
  let (loc, ring) := frameRoute h dest
  let wants := if loc then ownWant h ep tc (launch.isNone || dest == 127) else []
  if ring then
    let r := h.source inp typ tc stream dest ep false 0 h.hubNum data launch stamp wants
    (r.1.servePort 6, r.2.1 || loc, r.2.2)
  else if loc then
    let f : Frame := { hdr := mkHdr typ tc 0 false (h.nextSeq h.self stream) h.self stream dest ep data.length 0, payload := data }
    let h1 := (h.mirror inp tc (frameBytes f) (data.length + 28) stamp).advSeq h.self stream
    if wants.isEmpty then (h1, true, none)
    else
      let r := h1.store { frame := f, cells := cellsOf data.length, whole := data.length + 28, inPort := inp, own := true, good := some true,
                          stamp := stamp, launch := launch } wants
      (r.1.servePort 6, true, r.2)
  else (h, false, none)

/-- A frame of a descriptor, read from host memory. -/
def HDie.sendFrame (h : HDie) (d : Desc) (bytes : List Byte) (launch : Option Nat) : HDie × Bool × Option Nat :=
  let dest := d.d1.fld 0 7
  let ep := d.d1.fld 8 10
  let tc := d.d1.fld 20 3
  let stream := d.d2.fld 0 12
  h.sendOwn 6 1 tc stream dest ep (slice bytes 0 (d.d2.fld 16 14)) launch h.tb.now

/-- SEND_FRAME (R70): INVALID_FIELD, DMA_ERROR where the read failed, UNREACHABLE where it went nowhere, else SUCCESS once read. -/
def HDie.doSendFrame (h : HDie) (q : Nat) (read : Option (List Byte)) : HDie :=
  match h.current q 1 with
  | none => h
  | some s =>
    if frameBad s.desc then h.finish q s.ser 2 0
    else
      match read with
      | none => h.finish q s.ser 3 0
      | some bytes =>
        let r := h.sendFrame s.desc bytes none
        r.1.finish q s.ser (if r.2.1 then 0 else 6) 0

def execSendFrame (q : Fin 64) (read : Option (List Byte)) (s : State) : Host.Outcome State Fault Refusal :=
  onH (fun h => h.doSendFrame q read) s

/-- The launch time of LAUNCH_AT: seconds [47:32] chosen nearest to the present (R71). -/
def launchTime (now : Nat) (d : Desc) : Nat :=
  let lo := d.d7.toNat
  let top := timeSec now / 2 ^ 32
  let mk := fun (k : Nat) => mkTime (2 ^ 32 * k + lo) (d.d6.fld 0 30) 0
  let dist := fun (t : Nat) => if t ≤ now then now - t else t - now
  let c := mk top
  let up := mk (top + 1)
  let dn := mk (top - 1)
  if dist up < dist c then up else if top != 0 && dist dn < dist c then dn else c

/-- The lowest free place of the launch table: four words of instance 55 (Table 15.1, log 181). -/
def HDie.launchSlot (h : HDie) : Nat := ((upto 256).find? fun k => !h.hostq.launches.any fun l => l.slot == k).getD 0

/-- LAUNCH_AT (R71): more than 1 s ahead INVALID_FIELD; already passed LAUNCH_LATE, sent at once with LATE_SEND; else one of 256
pending launches. While all are taken none is started. -/
def HDie.doLaunchAt (h : HDie) (q : Nat) (read : Option (List Byte)) : HDie :=
  match h.current q 6 with
  | none => h
  | some s =>
    let t := launchTime h.tb.now s.desc
    if 256 ≤ h.hostq.launches.length then h
    else if frameBad s.desc then h.finish q s.ser 2 0
    else if h.tb.now + secT < t then h.finish q s.ser 2 0
    else
      match read with
      | none => h.finish q s.ser 3 0
      | some bytes =>
        if t ≤ h.tb.now then
          if s.desc.d1.fld 23 1 == 1 then
            let r := h.sendFrame s.desc bytes none
            r.1.finish q s.ser (if r.2.1 then 0x0B else 6) (b2n r.2.1)
          else h.finish q s.ser 0x0B 0
        else
          let r := h.sendFrame s.desc bytes (some t)
          match r.2.1, r.2.2 with
          | false, _ => r.1.finish q s.ser 6 0
          | true, none => r.1.finish q s.ser 0 1
          | true, some fid =>
            let h1 := r.1.begin_ q s.ser
            let k := h1.launchSlot
            let h2 := h1.useWords 55 (4 * k) 4
            { h2 with hostq.launches := h1.hostq.launches ++ [{ time := t, fid := fid, q := q, ser := s.ser, slot := k }] }

def execLaunchAt (q : Fin 64) (read : Option (List Byte)) (s : State) : Host.Outcome State Fault Refusal :=
  onH (fun h => h.doLaunchAt q read) s

/-- Release the copies of a launched frame to their schedulers; one launched by a change of time leaves at once (R241). -/
def HDie.release (h : HDie) (jump : Bool) (fid : Nat) : HDie :=
  { h with
    sw.copies := h.sw.copies.map fun (c : Copy) => if c.fid == fid then { c with ready := true } else c
    sw.stored := if jump then h.sw.stored.map fun (x : Stored) => if x.fid == fid then { x with launch := none } else x else h.sw.stored }

/-- Launch every pending frame whose time has come (R241); `jump` counts each port copy that waited in TIM_LAUNCHJMP. -/
def launchDue (jump : Bool) : List Launch → HDie → HDie
  | [], h => h
  | l :: ls, h =>
    if h.tb.now < l.time then launchDue jump ls h
    else
      let n := (h.sw.copies.filter fun c => c.fid == l.fid && !c.ready).length
      let h0 := h.useWords 55 (4 * l.slot) 4
      let h1 := { h0.release jump l.fid with hostq.launches := h.hostq.launches.filter fun x => x.ser != l.ser }
      let h2 := if jump then h1.bump Reg.TIM_LAUNCHJMP_COUNT n else h1
      launchDue jump ls (h2.finish l.q l.ser 0 1)

/-- LAUNCH_TIME_REACHED (R71, R241): the time comes, and the copies of every launch that is due leave their queues first. -/
def execLaunchTimeReached (s : State) : Host.Outcome State Fault Refusal :=
  onH (fun h =>
    match (h.hostq.launches.map (·.time)).min? with
    | none => h
    | some t =>
      let h1 := h.advance t
      launchDue false h1.hostq.launches h1) s

/-! ### FENCE, CYCLIC_MAP, RX_BUFFER, NOP -/

/-- A posted write that a FENCE started as serial `ser` covers: SCOPE 0 its own queue's, SCOPE 1 every queue's (R75). -/
def covers (q : Nat) (s : Started) (master ser : Nat) : Bool :=
  ser < s.ser && (if s.desc.d1.fld 0 1 == 1 then master < 64 else master == q)

/-- Complete a begun FENCE whose covered writes are all settled, with its failure count (R75). -/
def HDie.fenceDone (h : HDie) (q : Nat) : HDie :=
  match (h.sq q).started.find? fun s => s.phase == 1 && dOp s.desc == 5 with
  | none => h
  | some s =>
    if h.brg.posted.any fun w => covers q s w.master w.ser then h
    else
      let mine := h.brg.fails.filter fun f => covers q s f.master f.ser
      let n := mine.length
      { h with brg.fails := h.brg.fails.filter fun f => !covers q s f.master f.ser }.finish q s.ser (if n = 0 then 0 else 0x0A) n

/-- Look at every queue's fence after a write has settled (R75). -/
def fencesDone : List Nat → HDie → HDie
  | [], h => h
  | q :: qs, h => fencesDone qs (h.fenceDone q)

/-- Every fence that may now complete does. -/
def HDie.fences (h : HDie) : HDie := fencesDone (h.hostq.sqs.map (·.q)) h

/-- FENCE (R75): it begins, stops its queue, and completes at once when nothing it covers is unsettled. -/
def HDie.doFence (h : HDie) (q : Nat) : HDie :=
  match h.current q 5 with
  | none => h
  | some s => (h.begin_ q s.ser).fenceDone q

def execFence (q : Fin 64) (s : State) : Host.Outcome State Fault Refusal := onH (fun h => h.doFence q) s

/-- Whether a map fits the admitted plan in force (R76). -/
def mapFits (h : HDie) (m : CMap) : Bool :=
  match h.sw.inForce with
  | none => false
  | some p =>
    if m.dir == 0 then m.hub < p.m && m.off + m.len ≤ p.ins.getD m.hub 0
    else
      let o := p.outs.getD m.hub (0, 127)
      o.2 == h.self && h.self != 127 && m.off + m.len ≤ o.1

/-- The map that a CYCLIC_MAP descriptor describes (Table 3.5). -/
def mapOf (d : Desc) : CMap :=
  { id := d.d1.fld 0 8, dir := d.d1.fld 8 1, notify := d.d1.fld 9 1 == 1, hub := d.d1.fld 16 7, off := d.d2.fld 0 12, len := d.d2.fld 16 13,
    haddr := two d.d4 d.d5, from_ := 0, until_ := none, have_ := [], seen := false, last := List.replicate (d.d2.fld 16 13) 0, stale := false,
    live := true }

/-- CYCLIC_MAP (R76): INVALID_FIELD, NOT_IN_PLAN, or a change that waits for the next cycle start. -/
def HDie.doCyclicMap (h : HDie) (q : Nat) : HDie :=
  match h.current q 7 with
  | none => h
  | some s =>
    let m := mapOf s.desc
    if 4096 < m.off + m.len || m.haddr % 64 != 0 then h.finish q s.ser 2 0
    else if m.len != 0 && !mapFits h m then h.finish q s.ser 0x0E 0
    else
      let h1 := h.begin_ q s.ser
      { h1 with hostq.changes := h1.hostq.changes ++ [{ map := m, remove := m.len == 0, q := q, ser := s.ser }] }

def execCyclicMap (q : Fin 64) (s : State) : Host.Outcome State Fault Refusal := onH (fun h => h.doCyclicMap q) s

/-- One map change at the start of cycle n: the map of that MAP_ID ends, kept for the cycles that began before. -/
def mapChange (n : Nat) (c : MapChange) (ms : List CMap) : List CMap :=
  let ended := ms.map fun m => if m.id == c.map.id && m.until_.isNone then { m with until_ := some n } else m
  if c.remove then ended else ended ++ [{ c.map with from_ := n }]

/-- The pending map changes take effect at the start of cycle n, and their descriptors complete (R76). -/
def mapChanges (n : Nat) : List MapChange → HDie → HDie
  | [], h => h
  | c :: cs, h => mapChanges n cs ({ h with hostq.maps := mapChange n c h.hostq.maps }.finish c.q c.ser 0 0)

/-- All pending map changes at the start of cycle n; a map that no cycle still open uses is forgotten (log 151). -/
def HDie.applyMaps (h : HDie) (n : Nat) : HDie :=
  let kept := h.hostq.maps.filter fun m => match m.until_ with | some u => decide (n < u + 16) | none => true
  mapChanges n h.hostq.changes { h with hostq.changes := [], hostq.maps := kept }

/-- RX_BUFFER (R80, R81): the buffer joins its queue's pool; a record held for the pool takes it. `ok`: the write of a record to it succeeds. -/
def HDie.doRxBuffer (h : HDie) (q : Nat) (ok : Bool) : HDie :=
  match h.current q 8 with
  | none => h
  | some s =>
    let len := s.desc.d1.fld 0 15
    let a := two s.desc.d4 s.desc.d5
    if len % 64 != 0 || len < 256 || 16384 < len || a % 64 != 0 then h.finish q s.ser 2 0
    else
      let b : RxBuf := { q := q, ser := s.ser, len := len, haddr := a, dmaOk := ok }
      let h1 := h.begin_ q s.ser
      let h2 := { h1 with hostq.bufs := h1.hostq.bufs ++ [b] }
      match h2.hostq.held.find? fun r => h2.rd (Reg.PCI_RXMAP_SQ r.cls) == q with
      | none => h2
      | some r =>
        match h2.hostq.bufs.find? fun b => b.q == q with
        | none => h2
        | some b0 =>
          { h2 with hostq.held := dropFirst (fun r => h2.rd (Reg.PCI_RXMAP_SQ r.cls) == q) h2.hostq.held }.fillBuffer b0 r

def execRxBuffer (q : Fin 64) (ok : Bool) (s : State) : Host.Outcome State Fault Refusal := onH (fun h => h.doRxBuffer q ok) s

/-- NOP (R83): completes with SUCCESS and RESULT 0. -/
def HDie.doNop (h : HDie) (q : Nat) : HDie :=
  match h.current q 10 with
  | none => h
  | some s => h.finish q s.ser 0 0

def execNop (q : Fin 64) (s : State) : Host.Outcome State Fault Refusal := onH (fun h => h.doNop q) s

/-! ### Cyclic slots -/

/-- When the image of cycle n counts as missing (R78): at D_N, or at S_(N+2) where that comes earlier; S_(N+2) while no plan is in force. -/
def HDie.missingAt (h : HDie) (n : Nat) : Nat :=
  let s2 := h.cycleStart n + ofNs (2 * h.rd Reg.TIM_CYCLE_NS)
  match h.sw.inForce with
  | some p => min s2 (h.deadline p n)
  | none => s2

/-- INPUT_MAP_MISSING (R78): at that instant every input map of the hub that does not hold cycle n gets the header with MISSING, and is counted. A cycle taken as running has no deadline (R234). -/
def execInputMapMissing (hub : Fin 128) (n : Word) (s : State) : Host.Outcome State Fault Refusal :=
  onH (fun h => if h.on Reg.TIM_CYCLE_EN && h.tb.firstAct ≤ n.toNat then (h.advance (h.missingAt n.toNat)).imageToMaps hub n.toNat none false else h) s

/-- The fetch point of cycle n (R79): FETCH_LEAD before the hub's launch time; a lead at or above the cycle time acts as that less 1 µs. -/
def HDie.fetchPoint (h : HDie) (n : Nat) : Nat :=
  let c := h.rd Reg.TIM_CYCLE_NS
  let lead := if c ≤ h.rd Reg.PCI_CYCCFG_FETCH_LEAD then c - 1000 else h.rd Reg.PCI_CYCCFG_FETCH_LEAD
  h.cycleStart n + ofNs (h.rd Reg.SWC_LAUNCH_NS) - ofNs lead

/-- OUTPUT_MAP_FETCH (R79): the header, the data and the header again as read from host memory at the fetch point of cycle n; the slice is
accepted when both headers give n, else the slice last accepted is sent, stale and counted. A map that PCIe reset removed is not read; its
last slice goes on being sent, stale (R92). -/
def HDie.outputFetch (h0 : HDie) (id n : Nat) (r : Option (Nat × List Byte × Nat)) : HDie :=
  let h := h0.advance (h0.fetchPoint n)
  match h.hostq.maps.find? fun m => m.id == id && m.dir == 1 && m.live && m.inForce (h.fullOf n) && !m.have_.contains n with
  | none => h
  | some m =>
    let got : Option (List Byte) :=
      match r with
      | some (a, d, b) => if a == n && b == n then some (slice d 0 m.len) else none
      | none => none
    let upd := fun (x : CMap) =>
      if m.same x then
        match got with
        | some d => { x with last := d, stale := false, have_ := (n :: x.have_).take 4 }
        | none => { x with stale := true, have_ := (n :: x.have_).take 4 }
      else x
    let h1 := { h with hostq.maps := h.hostq.maps.map upd }
    if got.isNone then h1.bump Reg.PCI_CYCSTAT_OUT_LATE else h1

/-- An output map that was not fetched for cycle n when the hub sends its image under plan p: its slice is not ready, and is counted once (R79, R92; log
152). -/
def HDie.lateSlices (h : HDie) (p : Plan) (n : Nat) : HDie :=
  let sent := fun (m : CMap) => (p.outs.getD m.hub (0, 127)).2 == h.hubNum && (p.outs.getD m.hub (0, 127)).1 != 0
  let late := fun (m : CMap) => m.dir == 1 && m.inForce (h.fullOf n) && !m.have_.contains n && sent m
  { h with hostq.maps := h.hostq.maps.map fun m => if late m then { m with stale := true, have_ := (n :: m.have_).take 4 } else m }.bump
    Reg.PCI_CYCSTAT_OUT_LATE (h.hostq.maps.filter late).length

def execOutputMapFetch (id : Fin 256) (n : Word) (r : Option (Nat × List Byte × Nat)) (s : State) :
    Host.Outcome State Fault Refusal :=
  onH (fun h => h.outputFetch id n.toNat r) s

/-- RX_RECORD_HOLD_TIMEOUT (R81): 10 µs have passed since the record held longest for class t came: it is dropped, counted, and an RX_NOBUF event posted. -/
def HDie.holdOver (h : HDie) (t : Nat) : HDie :=
  match (h.hostq.held.filterMap fun r => if r.cls == t then some r.since else none).min? with
  | none => h
  | some at_ =>
    let g := h.advance (at_ + ofUs 10)
    { g with hostq.held := dropFirst (fun r => r.cls == t && r.since == at_) g.hostq.held }.noBuffer t

def execRxRecordHoldTimeout (t : Fin 8) (s : State) : Host.Outcome State Fault Refusal := onH (fun h => h.holdOver t) s

/-- COMPLETION_WRITE_FAILURE (R88): a write of an entry of an enabled queue fails: the queue halts; a completion queue's failure is also a QUEUE_ERROR with
cause WRITE_DMA, and its submission queues stall. 64 is the event queue. -/
def HDie.writeFailed (h : HDie) (q : Nat) : HDie :=
  if !h.on (cqRegs q).en then h
  else if q = 64 then h.raise (cqRegs q).halt
  else ((h.raise (cqRegs q).halt).queueError 1 q 4 0).stalls q

def execCompletionWriteFailure (q : Fin 65) (s : State) : Host.Outcome State Fault Refusal := onH (fun h => h.writeFailed q.val) s

/-- INTERRUPT_TIMER_EXPIRY (R90): MOD.TIMER passes since the oldest unsignalled entry of an armed queue, which signals its vector. -/
def HDie.timerOver (h : HDie) (q : Nat) : HDie :=
  if h.on (cqRegs q).armed && (h.cq q).unsig != 0 then (h.advance ((h.cq q).since + ofUs (h.rd (cqRegs q).timer))).fire q else h

def execInterruptTimerExpiry (q : Fin 65) (s : State) : Host.Outcome State Fault Refusal := onH (fun h => h.timerOver q.val) s

/-! ### The MSI-X table (R89) -/

/-- A dword of the MSI-X table and pending-bit array of the PCI Express Base Specification (log 84): entry v at 16 × v holds address, upper address, data and
vector control with the mask in bit 0; the pending bits follow from 0x1000. -/
def HDie.msixRead (h : HDie) (a : Nat) : Nat :=
  if a < 0x1000 then
    if a / 4 % 4 = 3 then b2n (!h.hostq.msixOpen.contains (a / 16)) else aget h.hostq.msixTab (a / 4) 0
  else if a < 0x1020 then ((upto 32).map fun i => b2n (h.hostq.msixPend.contains (8 * (a - 0x1000) + i)) * 2 ^ i).sum
  else 0

/-- A write to a dword of the table. A vector that is unmasked with its pending bit set is delivered (Table 3.14). -/
def HDie.msixWrite (h : HDie) (a v : Nat) : HDie :=
  let k := a / 16
  if 0x1000 ≤ a then h
  else if a / 4 % 4 != 3 then { h with hostq.msixTab := aput h.hostq.msixTab (a / 4) v }
  else if v % 2 = 1 then { h with hostq.msixOpen := h.hostq.msixOpen.filter fun x => x != k }
  else
    let g := { h with hostq.msixOpen := k :: h.hostq.msixOpen.filter fun x => x != k }
    if g.hostq.msixPend.contains k then { g with hostq.msixPend := g.hostq.msixPend.filter fun x => x != k }.signal k else g

end Sys2Proof.Machine
end

