-- ==== Sys2Proof/Machine/RedOps.lean ====
section
/-! DEFINITION. The ring as a hub sees it (R151, R152), the followed lead and the lead machine's entries (R153 to R158), and the offset from the
lead (R240). -/
namespace Sys2Proof.Machine

/-! ### Members and links -/

/-- Hub n is on the membership list (R445). -/
def HDie.member (h : HDie) (n : Nat) : Bool := (h.rd (Reg.GLB_MEMBER_HUB (n / 32)) >>> (n % 32)) % 2 == 1

/-- Add a hub to the membership list. -/
def HDie.addMember (h : HDie) (n : Nat) : HDie :=
  if 120 ≤ n then h
  else h.wr (Reg.GLB_MEMBER_HUB (n / 32)) (h.rd (Reg.GLB_MEMBER_HUB (n / 32)) ||| 2 ^ (n % 32))

/-- The hub's own link states, as its PATH_STATE gives them (Table 5.7). -/
def HDie.ownPath (h : HDie) : PathSt :=
  { hub := h.hubNum, eUp := h.active 0, wUp := h.active 1,
    fec := (h.active 0 && h.on (Reg.RNG_PSTAT_FEC_ON 0)) || (h.active 1 && h.on (Reg.RNG_PSTAT_FEC_ON 1)),
    fb := (h.active 0 && h.on (Reg.RNG_PSTAT_RATE 0)) || (h.active 1 && h.on (Reg.RNG_PSTAT_RATE 1)),
    eNeigh := h.rd (Reg.RNG_NEIGH_HUB 0), wNeigh := h.rd (Reg.RNG_NEIGH_HUB 1), time := h.tb.now, absent := false }

/-- The present members, the hub itself among them (R151). -/
def HDie.presentPaths (h : HDie) : List PathSt := h.ownPath :: h.red.paths.filter fun p => !p.absent && p.hub != h.hubNum

/-- The member east of `a` over a link that both ends report up. -/
def eastOf (ps : List PathSt) (a : PathSt) : Option PathSt :=
  if a.eUp then ps.find? fun b => b.hub == a.eNeigh && b.wUp && b.wNeigh == a.hub else none

/-- Length of the chain that begins at `a`, walking east. -/
def chainLen (ps : List PathSt) : Nat → PathSt → Nat
  | 0, _ => 0
  | n + 1, a =>
    match eastOf ps a with
    | some b => 1 + chainLen ps n b
    | none => 1

/-- The present members with no up link to the west: each begins a chain. -/
def chainHeads (ps : List PathSt) : List PathSt := ps.filter fun b => !(ps.any fun a => (eastOf ps a).any fun x => x.hub == b.hub)

/-- Every member has reported since chip reset or join, or counts as absent (R151, Table 5.3; log 186). -/
def HDie.allReported (h : HDie) : Bool :=
  (upto 120).all fun n => !h.member n || n == h.hubNum || h.red.paths.any fun p => p.hub == n

/-- The members on the list. -/
def HDie.memberCount (h : HDie) : Nat := ((upto 120).filter h.member).length

/-- The per-hop allowance P in ns (R152). -/
def HDie.hopNs (h : HDie) : Nat :=
  let ps := h.presentPaths
  320 + h.rd Reg.RED_CABLE_NS + (if ps.any (·.fec) then 250 else 0) + (if ps.any (·.fb) then 180 else 0)

/-- Both stored path delays become invalid (R240). -/
def HDie.dropDelays (h : HDie) : HDie := (h.wr Reg.TIM_OFFSTAT_PDAV 0).wr Reg.TIM_OFFSTAT_PDBV 0

/-- The lead sets WCL_OVER when WCL exceeds the cycle time (R152). -/
def HDie.wclCheck (h : HDie) : HDie :=
  let lead := h.rd Reg.RED_LEADSTAT_STATE == 3 || h.rd Reg.RED_LEADSTAT_STATE == 4
  if lead && h.on Reg.TIM_CYCLE_EN && h.rd Reg.TIM_CYCLE_NS < h.rd Reg.RED_WCL_WCL_NS then h.raise Reg.RED_LEADEVT_WCL_OVER else h

/-- The ring state, its chains and its worst-case latency (R151, R152). An unnumbered hub keeps none. -/
def HDie.ringUpdate (h : HDie) : HDie :=
  if !h.numbered then h
  else
    let ps := h.presentPaths
    let heads := chainHeads ps
    let m := ps.length
    let st := if !h.allReported then 3 else if heads.isEmpty then 0 else if heads.length == 1 then 1 else 2
    let longest := (heads.map (chainLen ps m)).foldl max 0
    let hops := if st == 3 then h.memberCount - 1 else if st == 0 then m / 2 else longest - 1
    let gap := match ps.find? fun a => (eastOf ps a).isNone with
      | some a => a.hub
      | none => 0x7F
    let wcl := hops * h.hopNs
    let h1 := ((((h.wr Reg.RED_RING_STATE st).wr Reg.RED_RING_SINGLE (b2n (st == 1 || st == 2))).wr Reg.RED_RING_BREAK_HUB
      (if st == 1 then gap else 0x7F)).wr Reg.RED_RING_CHAINS (if st == 0 then 1 else heads.length)).wr Reg.RED_RING_MEMBERS m
    let h2 := (h1.wr Reg.RED_WCL_WCL_NS wcl).wr Reg.RED_WCL_HOPS hops
    let h3 := if h.rd Reg.RED_RING_STATE != st then h2.raise Reg.RED_RINGEVT_CHANGED else h2
    let h4 := if h.rd Reg.RED_RING_STATE != st && st == 2 then h3.raise Reg.RED_RINGEVT_SPLIT else h3
    (if h.rd Reg.RED_RING_MEMBERS != m then h4.dropDelays else h4).wclCheck

/-! ### The followed lead -/

/-- The followed lead changes (R155): LEADSTAT, CHANGED, a LEAD event where there is a host, and both path delays become invalid. -/
def HDie.follow (h : HDie) (hub prio term : Nat) : HDie :=
  let h1 := (((h.wr Reg.RED_LEADSTAT_LEAD_HUB hub).wr Reg.RED_LEADSTAT_LEAD_PRIO prio).wr Reg.RED_TERM_TERM term).raise
    Reg.RED_LEADEVT_CHANGED
  let h2 := if h1.hostAttached then h1.event 0xC 0 hub prio else h1
  h2.dropDelays

/-- HEALTH (R157, Table 5.7), to the followed lead, if one is; what it reports restarts. -/
def HDie.sendHealth (h : HDie) : HDie :=
  if h.rd Reg.RED_LEADSTAT_LEAD_HUB == 0x7F then h
  else
    let w0 := 2 * 2 ^ 24 + h.rd Reg.RED_LEADCFG_PRIO * 2 ^ 16 + h.rd Reg.RED_LEADSTAT_READY * 2 ^ 15 + b2n h.red.planOk * 2 ^ 14
      + h.rd Reg.RED_RING_SINGLE * 2 ^ 13
    let body := beBytes 4 w0 ++ beBytes 4 (min h.red.missed 0xFFFF * 2 ^ 16 + min h.red.maxOff 0xFFFF) ++ beBytes 4 h.red.lastCmp
      ++ beBytes 4 0
    { h with red.missed := 0, red.maxOff := 0 }.sourceCtl 9 5 0xFFE (h.rd Reg.RED_LEADSTAT_LEAD_HUB) 0 body

/-- READY of a standby (R156), with a HEALTH at each change (R157). -/
def HDie.updateReady (h : HDie) : HDie :=
  let r := h.rd Reg.RED_LEADSTAT_STATE == 2 && 16 ≤ h.red.inStep && (h.active 0 || h.active 1)
  let h1 := h.wr Reg.RED_LEADSTAT_READY (b2n r)
  if h1.rd Reg.RED_LEADSTAT_STATE == 2 && h.on Reg.RED_LEADSTAT_READY != r then h1.sendHealth else h1

/-- The reports that the lead shows: the 8 of highest PRIO, highest first (R157). -/
def showHealth : Nat → List Health → HDie → HDie
  | 8, _, h => h
  | k, l, h =>
    if 8 < k then h
    else
      match l with
      | [] =>
        (upto (8 - k)).foldl (fun g i => (((((((((g.wr (Reg.RED_HEALTH_HUB (k + i)) 0x7F).wr (Reg.RED_HEALTH_VALID (k + i)) 0).wr
          (Reg.RED_HEALTH_PRIO (k + i)) 0).wr (Reg.RED_HEALTH_READY (k + i)) 0).wr (Reg.RED_HEALTH_PLAN_MATCH (k + i)) 0).wr
          (Reg.RED_HEALTH_SINGLE (k + i)) 0).wr (Reg.RED_HOFF_MAX_OFF (k + i)) 0).wr (Reg.RED_HOFF_MISS (k + i)) 0).wr
          (Reg.RED_HCYC_CYCLE (k + i)) 0)) h
      | e :: es =>
        showHealth (k + 1) es ((((((((((h.wr (Reg.RED_HEALTH_HUB k) e.hub).wr (Reg.RED_HEALTH_VALID k) 1).wr (Reg.RED_HEALTH_PRIO k) e.prio).wr
          (Reg.RED_HEALTH_READY k) (b2n e.ready)).wr (Reg.RED_HEALTH_PLAN_MATCH k) (b2n e.match_)).wr (Reg.RED_HEALTH_SINGLE k)
          (b2n e.single)).wr (Reg.RED_HOFF_MAX_OFF k) e.maxOff).wr (Reg.RED_HOFF_MISS k) e.miss).wr (Reg.RED_HCYC_CYCLE k) e.cycle))

/-- Replace the reports. -/
def HDie.setHealth (h : HDie) (l : List Health) : HDie := showHealth 0 l { h with red.health := l }

/-- Entry to LEAD (Table 5.5, R155, R240): the hub follows itself. -/
def HDie.enterLead (h : HDie) (term : Nat) (takeover : Bool) : HDie :=
  let h1 := (h.wr Reg.RED_LEADSTAT_STATE 3).wr Reg.RED_LEADSTAT_READY 0
  let h2 := { h1.follow h.hubNum (h.rd Reg.RED_LEADCFG_PRIO) (term % 2 ^ 32) with
              red.tkSync := takeover, red.handTo := none, red.handSent := false, red.inStep := 0, red.open_ := false,
              red.mstStay := none, red.highTerm := max h.red.highTerm term }
  let h3 := if takeover then h2.raise Reg.RED_LEADEVT_TAKEOVER else h2
  ((((h3.wr Reg.TIM_OFFS_OFFS 0).wr Reg.TIM_OFFSTAT_LEAD 1).wr Reg.TIM_OFFSTAT_VALID 1).wr Reg.TIM_OFFSTAT_SINGLE 0).wclCheck

/-- LEAD or HANDING is left (R157, R240). -/
def HDie.leaveLead (h : HDie) (st : Nat) : HDie :=
  let h1 := ((h.wr Reg.RED_LEADSTAT_STATE st).wr Reg.TIM_OFFSTAT_LEAD 0).wr Reg.TIM_OFFSTAT_VALID 0
  { h1.setHealth [] with red.inStep := 0, red.handTo := none, red.handSent := false, red.tkSync := false }

/-- The hub follows no lead: LEAD_HUB shows none, and its own motion flag is the ring's (R413). -/
def HDie.noLead (h : HDie) : HDie :=
  ((h.wr Reg.RED_LEADSTAT_LEAD_HUB 0x7F).wr Reg.RED_LEADSTAT_LEAD_PRIO 0).ringMotion (h.rd Reg.FWU_MOTCFG_RING)

/-- The lead machine's entry to and exit from OFF (Table 5.5, R158). -/
def HDie.leadEval (h : HDie) : HDie :=
  let st := h.rd Reg.RED_LEADSTAT_STATE
  let cand := h.on Reg.RED_LEADCFG_CAND && h.rd Reg.RED_LEADCFG_PRIO != 0 && h.numbered
  if st == 0 then
    if cand && h.on Reg.TIM_CYCLE_EN then
      { h.wr Reg.RED_LEADSTAT_STATE 1 with
        red.listenAt := h.tb.now + ofNs (3 * h.rd Reg.TIM_CYCLE_NS) + ofUs (255 - h.rd Reg.RED_LEADCFG_PRIO) }
    else h
  else if cand then h
  else
    let h1 := if st == 3 || st == 4 then h.leaveLead 0 else h.wr Reg.RED_LEADSTAT_STATE 0
    (h1.wr Reg.RED_LEADSTAT_READY 0).noLead

/-! ### The offset -/

/-- The offset from what has arrived of a SYNC (Table 9.3), in 2^-8 ns; a half is rounded down (log 22). -/
def HDie.computeOffset (h : HDie) (x : SyncRx) : HDie :=
  let s : Int := (in8 x.start : Nat)
  let res : Int := (h.rd Reg.TIM_RES_RES : Nat)
  let pda : Int := (h.rd Reg.TIM_PDA_PD : Nat)
  let pdb : Int := (h.rd Reg.TIM_PDB_PD : Nat)
  let pdav := h.on Reg.TIM_OFFSTAT_PDAV
  let pdbv := h.on Reg.TIM_OFFSTAT_PDBV
  let put := fun (g : HDie) (o : Int) (single : Nat) =>
    ({ ((((g.wr Reg.TIM_OFFS_OFFS (unsigned 32 o)).wr Reg.TIM_OFFSTAT_VALID 1).wr Reg.TIM_OFFSTAT_SINGLE single).wr Reg.TIM_OFFSTAT_CYC
      (x.cycle % 65536)).raise Reg.TIM_EVT_OFFS_NEW with tb.offNew := true } : HDie)
  let done := { h with tb.sync := some { x with done := true } }
  let g := match x.loop with
    | some (la, lb) => done.wr Reg.TIM_LOOP_LOOP ((la + lb) / 2)
    | none => done
  let viaA := x.a.isSome && pdav && !(x.b.isSome && pdbv && pdb < pda)
  match x.a, x.b, x.loop with
  | some a, some b, some (la, lb) =>
    if h.rd Reg.RED_RING_STATE == 0 && h.tb.resKnown then
      let a8 : Int := (in8 a : Nat)
      let b8 : Int := (in8 b : Nat)
      let o := (a8 + b8 - (((la + lb) / 2 : Nat) : Int) + res) / 2 - s
      ((((put g o 0).wr Reg.TIM_PDA_PD (unsigned 32 (a8 - s - o))).wr Reg.TIM_PDB_PD (unsigned 32 (b8 - s - o))).wr
        Reg.TIM_OFFSTAT_PDAV 1).wr Reg.TIM_OFFSTAT_PDBV 1
    else if viaA then put g ((in8 a : Nat) - s - pda) 1
    else if pdbv then put g ((in8 b : Nat) - s - pdb) 1
    else g.wr Reg.TIM_OFFSTAT_VALID 0
  | some a, b, _ =>
    if viaA then put g ((in8 a : Nat) - s - pda) 1
    else
      match b with
      | some b0 => if pdbv then put g ((in8 b0 : Nat) - s - pdb) 1 else g.wr Reg.TIM_OFFSTAT_VALID 0
      | none => g.wr Reg.TIM_OFFSTAT_VALID 0
  | none, some b, _ => if pdbv then put g ((in8 b : Nat) - s - pdb) 1 else g.wr Reg.TIM_OFFSTAT_VALID 0
  | none, none, _ => g.wr Reg.TIM_OFFSTAT_VALID 0

/-- Compute the offset of the SYNC whose copies are being waited for, if one is (R240). -/
def HDie.closeOffset (h : HDie) : HDie :=
  match h.tb.sync with
  | some x => if x.done then h else h.computeOffset x
  | none => h

end Sys2Proof.Machine
end

