-- ==== Sys2Proof/Machine/RingOps.lean ====
section
/-! DEFINITION. What the hub sends of its own on the ring when a port comes or goes: PATH_STATE (R150, R161) and the join
frames (R443, R444), and the ring port's entry to and exit from ACTIVE (R111). -/
namespace Sys2Proof.Machine

/-- The context of ring port p. -/
def HDie.port (h : HDie) (p : Nat) : PortCtx :=
  h.ports.getD p
    { lastSeq := [none, none], reqSeq := [0, 0], reqOut := [0, 0], reqWait := [false, false], stsOut := [0, 0], doneRx := [false, false],
      doneTx := [false, false], ackSent := false, ackRcvd := false, fecWait := false, restart := false, noFollow := false,
      sendsRf := false, fecNext := false, injHcrc := false, injCrc := false, nowHcrc := false, nowCrc := false, hit := false, fullFails := 0, fbOff := false, rfAt := none,
      trainAt := 0, holdAt := 0, downs := 0 }

/-- Replace the context of ring port p. -/
def HDie.setPort (h : HDie) (p : Nat) (c : PortCtx) : HDie := { h with ports := h.ports.set p c }

/-- The PATH_STATE payload (Table 5.7). -/
def HDie.pathWords (h : HDie) : List Byte :=
  let w0 := 2 ^ 24 + b2n (h.active 0) * 2 ^ 23 + b2n (h.active 1) * 2 ^ 22 + h.rd (Reg.RNG_PSTAT_FEC_ON 0) * 2 ^ 21
    + h.rd (Reg.RNG_PSTAT_FEC_ON 1) * 2 ^ 20 + h.rd (Reg.RNG_PSTAT_RATE 0) * 2 ^ 19 + h.rd (Reg.RNG_PSTAT_RATE 1) * 2 ^ 18
    + h.rd (Reg.RNG_NEIGH_HUB 0) * 2 ^ 8 + h.rd (Reg.RNG_NEIGH_HUB 1)
  beBytes 4 w0 ++ beBytes 4 (((h.port 0).downs + (h.port 1).downs) % 65536)

/-- Send a PATH_STATE, broadcast, on each port in ACTIVE (R150). -/
def HDie.sendPath (h : HDie) : HDie := h.sourceCtl 9 7 0xFFE 127 0 h.pathWords

/-- Send a join frame (R443, Table 20.3): SRC_HUB is 0x7F for CLAIM and OBJECT, the sender's number for JOINED. -/
def HDie.sendJoin (h : HDie) (sub num tuid : Nat) : HDie :=
  let uid := h.rd Reg.GLB_UID_UID
  let body := beBytes 4 (sub * 2 ^ 24 + num % 128 * 2 ^ 16 + h.boot.jseq % 65536) ++ beBytes 8 uid ++ beBytes 8 tuid
  let h1 := { h with boot.jseq := (h.boot.jseq + 1) % 65536 }
  (h1.source 8 9 7 0xFFE 127 0 false 0 (if sub == 0x12 then num else 0x7F) body none h.tb.now []).1

/-- The number that the hub claims (R442): of a claim that runs, the one it was begun for. -/
def HDie.wantNum (h : HDie) : Nat :=
  if h.rd Reg.GLB_JOIN_STATE == 1 then h.boot.claimNum
  else if h.rd Reg.GLB_HUBNUM_STRAP < 120 then h.rd Reg.GLB_HUBNUM_STRAP
  else h.rd Reg.GLB_HUBREQ_NUM

/-- A hub that knows its number, is not numbered, not refused and not in conflict, with a port in ACTIVE, sends its first CLAIM
(R444). -/
def HDie.claimStart (h : HDie) : HDie :=
  if h.wantNum < 120 && h.rd Reg.GLB_JOIN_STATE ≤ 1 && h.hubNum == 0x7F && (h.active 0 || h.active 1)
      && (h.rd Reg.GLB_JOIN_STATE == 0 || h.boot.claims == 0) then
    { (h.wr Reg.GLB_JOIN_STATE 1).sendJoin 0x10 h.wantNum 0 with boot.claims := 1, boot.claimAt := h.tb.now, boot.claimNum := h.wantNum }
  else h

/-- DETAIL0 of a PORT event of ring port p (Table 4.7); with up 1, CAUSE is that of the last time it went down (log 21). -/
def HDie.portDetail (h : HDie) (p : Nat) : Nat :=
  h.rd (Reg.RNG_PSTAT_STATE p) + h.rd (Reg.RNG_PSTAT_CAUSE p) * 16 + h.rd (Reg.RNG_PSTAT_RATE p) * 2 ^ 9
    + h.rd (Reg.RNG_PSTAT_FEC_ON p) * 2 ^ 10 + h.rd (Reg.RNG_NEIGH_HUB p) * 2 ^ 16

/-- The frame in reception on port p is truncated (R111, R121): counted; a forwarded copy ends stomped, a local one is not
delivered. -/
def HDie.truncate (h : HDie) (p : Nat) : HDie :=
  match h.sw.rx.find? fun r => r.port == p with
  | none => h
  | some r =>
    let h1 := { h with sw.rx := h.sw.rx.filter fun x => x.port != p }.bump (Reg.RNG_RXTRUNC_COUNT p)
    match r.fid with
    | none => h1
    | some fid =>
      let h2 := { h1 with sw.stored := h1.sw.stored.map fun (s : Stored) => if s.fid == fid then { s with good := some false } else s }
      ((h2.sw.copies.filter fun c => c.fid == fid && 16 ≤ c.q).foldl (fun g c => g.dropCopy fid c.q) h2).sweep

/-- Entering ACTIVE (R111): the state, the PORT event with up 1, the queues reopen (R179), PATH_STATE (R150), and the first CLAIM
(R444). -/
def HDie.enterActive (h : HDie) (p : Nat) : HDie :=
  let h1 := ((((h.wr (Reg.RNG_PSTAT_STATE p) 6).wr (Reg.RNG_PSTAT_UP p) 1).wr (Reg.RNG_PSTAT_FEC_ON p) (b2n (h.port p).fecNext)).wr
    (Reg.RNG_PSTAT_FAILS p) 0).raise (Reg.RNG_PEVT_UP p)
  let h2 := (h1.wr (if p = 0 then Reg.RED_RING_E_UP else Reg.RED_RING_W_UP) 1).setPort p { h1.port p with fecWait := false, fullFails := 0 }
  ((((h2.event 6 p (h2.portDetail p) (p + 16)).portReturnsUp p).sendPath).ringUpdate.updateReady).claimStart

/-- Leaving ACTIVE to state `st` with a cause (R111): frames end, the PORT event with up 0, DOWN, the count, a LINK_DOWN fault unless the
cause is DISABLED, TEST or RETRAIN (Table 16.4), held queues (R179), PATH_STATE (R150); outside ACTIVE only the state and the
cause change. -/
def HDie.goTo (h : HDie) (p st cause : Nat) : HDie :=
  let was := h.active p
  let h1 := ((h.wr (Reg.RNG_PSTAT_STATE p) st).wr (Reg.RNG_PSTAT_UP p) 0).wr (Reg.RNG_PSTAT_CAUSE p) cause
  if !was then h1
  else
    let h2 := (h1.truncate p).raise (Reg.RNG_PEVT_DOWN p)
    let h3 := (h2.bump (Reg.RNG_DOWNCNT_COUNT p)).setPort p { h2.port p with downs := (h2.port p).downs + 1 }
    let h4 := h3.wr (if p = 0 then Reg.RED_RING_E_UP else Reg.RED_RING_W_UP) 0
    let h5 := h4.event 6 p (h4.portDetail p) p
    let h6 := if cause == 1 || cause == 0xD || cause == 0xE then h5 else h5.fault (5 + p) 0x18 cause
    let h7 := (((h6.wr (Reg.RNG_PSTAT_FEC_ON p) 0).portLeavesUp p).sendPath).ringUpdate.updateReady
    if h7.rd Reg.GLB_JOIN_STATE == 1 && !h7.active 0 && !h7.active 1 then { h7 with boot.claims := 0 } else h7

/-- The taps with which a training attempt starts (R103, R106): INIT, or the manual ones. -/
def HDie.initTaps (h : HDie) (p l : Nat) : HDie :=
  let man := h.on (Reg.RNG_LCFG_TAPMAN p l)
  ((h.wr (Reg.RNG_LTAP_PRE p l) (if man then h.rd (Reg.RNG_LTAPM_PRE p l) else 4)).wr (Reg.RNG_LTAP_MAIN p l)
    (if man then h.rd (Reg.RNG_LTAPM_MAIN p l) else 47)).wr (Reg.RNG_LTAP_POST p l) (if man then h.rd (Reg.RNG_LTAPM_POST p l) else 12)

/-- DETECT begins (R108, R112): at full rate when asked, or when FALLBACK_EN is or was written 0; else at the rate the port has, or at fallback after
three TRAIN_FAIL at full rate. -/
def HDie.enterDetect (h : HDie) (p : Nat) (full : Bool) : HDie :=
  let fb := h.on (Reg.RNG_PCFG_FALLBACK_EN p)
  let off := (h.port p).fbOff || !fb
  let rate := h.rd (Reg.RNG_PSTAT_RATE p)
  let drop := !full && fb && rate == 0 && 3 ≤ (h.port p).fullFails
  let h1 := (h.wr (Reg.RNG_PSTAT_STATE p) 1).wr (Reg.RNG_PSTAT_RATE p) (if drop then 1 else if full || off then 0 else rate)
  let h2 := if drop then h1.raise (Reg.RNG_PEVT_FALLBACK p) else if full then h1.wr (Reg.RNG_PSTAT_FAILS p) 0 else h1
  let h3 := if drop && h2.sw.inForce.any (·.fast) then h2.raise Reg.SWC_EVT_OVER_RATE else h2
  let h4 := (upto 2).foldl (fun g l =>
    ((((g.wr (Reg.RNG_LSTAT_DONE p l) 0).wr (Reg.RNG_LSTAT_AM p l) 0).wr (Reg.RNG_LSTAT_BLOCK p l) 0).wr (Reg.RNG_LSTAT_CDR p l) 0).initTaps p l) h3
  let c := h4.port p
  (((h4.wr (Reg.RNG_PSTAT_RF_RX p) 0).wr (Reg.RNG_PSTAT_LF p) (h4.rd (Reg.RNG_INJ_FORCE_LF p))).setPort p
    { c with lastSeq := [none, none], reqWait := [false, false], doneRx := [false, false], doneTx := [false, false],
             ackSent := false, ackRcvd := false, fecWait := false, sendsRf := false, restart := false,
             noFollow := full || (off && rate == 1) || c.fbOff, fbOff := false, rfAt := none,
             fullFails := if full || drop || (off && rate == 1) then 0 else c.fullFails })

/-- Enter FAULT with a cause (Table 4.5): RF is sent when a local condition caused it. A cause other than TRAIN_FAIL ends a row of TRAIN_FAIL (log 85). -/
def HDie.enterFault (h : HDie) (p cause : Nat) (loc : Bool) : HDie :=
  let h1 := h.goTo p 7 cause
  let c := h1.port p
  let h2 := if cause == 8 then h1 else h1.wr (Reg.RNG_PSTAT_FAILS p) 0
  h2.setPort p { c with sendsRf := loc, fecWait := false, fullFails := if cause == 8 then c.fullFails else 0,
                        rfAt := if cause == 7 then some h.tb.now else none, holdAt := h.tb.now }

end Sys2Proof.Machine
end

