-- ==== Sys2Proof/Machine/RxOps.lean ====
section
/-! DEFINITION. What becomes of a frame that has arrived good: duplicate discard (R138 to R147), the check of a CYCLIC frame (R183), and
its handing over to the unit that takes it. -/
namespace Sys2Proof.Machine

/-! ### Duplicate discard -/

/-- The decision of R140 on sequence number `q` for an entry: the new entry, or 1 duplicate, 2 old. -/
def windowJudge (e : StreamEnt) (q path now : Nat) : StreamEnt × Nat :=
  let d := (q + 65536 - e.high) % 65536
  if d = 0 then (e, 1)
  else if d < 32768 then
    ({ e with high := q, window := (if 64 ≤ d then 0 else e.window * 2 ^ d % 2 ^ 64) ||| 1, path := path, last := now }, 0)
  else
    let b := 65536 - d
    if 63 < b then (e, 2)
    else if e.window.testBit b then (e, 1)
    else ({ e with window := e.window ||| 2 ^ b, path := path, last := now }, 0)

/-- Count what the window decided (R140). -/
def HDie.countJudged (h : HDie) (v path : Nat) : HDie :=
  match v with
  | 0 => if path == 0 then h.bump Reg.RED_WINA_COUNT else h.bump Reg.RED_WINB_COUNT
  | 1 => h.bump Reg.RED_DUPDISC_COUNT
  | _ => (h.bump Reg.RED_OLDDISC_COUNT).raise Reg.RED_STEVT_OLD

/-- The stream table replaced, with RED_STSTAT (R146, R163). -/
def HDie.setTable (h : HDie) (t : List StreamEnt) : HDie :=
  ({ h with red.table := t }.wr Reg.RED_STSTAT_USED t.length).wr Reg.RED_STSTAT_FULL (b2n (3072 ≤ t.length))

/-- The indexes of free entries. -/
def freeEntries (t : List StreamEnt) : List Nat := (upto 3072).filter fun i => !(t.any fun e => e.idx == i)

/-- Which free entry a new stream takes: the spec does not say (log 5). -/
def HDie.newIndex (h : HDie) : Nat × HDie :=
  let l := freeEntries h.red.table
  let v := h.openValue
  (l.getD (v.1 % max 1 l.length) 0, v.2)

/-- The decision of the stream table (R140, R141, R146): 0 accept, 1 duplicate, 2 old, 3 untracked. -/
def HDie.streamDecide (h : HDie) (d : Hdr) : HDie × Nat :=
  let path := hPath d
  match h.red.table.find? fun e => e.src == hSrc d && e.stream == hStream d with
  | some e =>
    let r := windowJudge e (hSeq d) path h.tb.now
    (({ h with red.table := h.red.table.map fun (x : StreamEnt) => if x.idx == e.idx then r.1 else x }).countJudged r.2 path, r.2)
  | none =>
    if 3072 ≤ h.red.table.length then (h, 3)
    else
      let (i, h1) := h.newIndex
      let e : StreamEnt := { idx := i, src := hSrc d, stream := hStream d, high := hSeq d, window := 2 ^ 64 - 1, path := path,
                             last := h.tb.now }
      ((h1.setTable (h1.red.table ++ [e])).countJudged 0 path, 0)

/-- The entry of a stream. -/
def HDie.entryOf (h : HDie) (d : Hdr) : Option StreamEnt := h.red.table.find? fun e => e.src == hSrc d && e.stream == hStream d

/-- The entry of a key is read, and freed where a word of it is uncorrectable (Table 15.2). -/
def HDie.checkEntry (h : HDie) (src stream : Nat) : HDie :=
  match h.red.table.find? fun e => e.src == src && e.stream == stream with
  | none => h
  | some e =>
    let r := h.readEntry 0xFF 0xE e.idx
    if r.2 then r.1.setTable (r.1.red.table.filter fun x => x.idx != e.idx) else r.1

/-- Duplicate discard in the stream table: the entry is read first; an accepted frame writes it. -/
def HDie.streamJudge (h : HDie) (d : Hdr) : HDie × Nat :=
  let r := (h.checkEntry (hSrc d) (hStream d)).streamDecide d
  match r.2, r.1.entryOf d with
  | 0, some e => (r.1.writeEntry_ e.idx, 0)
  | _, _ => r

/-- The decision of the control tracker (R138, R139): its records never age and never run out. -/
def HDie.controlDecide (h : HDie) (d : Hdr) : HDie × Nat :=
  let path := hPath d
  match h.red.control.find? fun e => e.src == hSrc d && e.stream == hStream d with
  | some e =>
    let r := windowJudge e (hSeq d) path h.tb.now
    (({ h with red.control := h.red.control.map fun (x : StreamEnt) => if x.src == e.src && x.stream == e.stream then r.1 else x }).countJudged
      r.2 path, r.2)
  | none =>
    let e : StreamEnt := { idx := 0, src := hSrc d, stream := hStream d, high := hSeq d, window := 2 ^ 64 - 1, path := path,
                           last := h.tb.now }
    (({ h with red.control := h.red.control ++ [e] }).countJudged 0 path, 0)

/-- Duplicate discard in the control tracker: the record is read first, and restarts where a word of it is uncorrectable (Table 15.2); an accepted
frame writes it. -/
def HDie.controlJudge (h : HDie) (d : Hdr) : HDie × Nat :=
  let w := controlWord (hSrc d) (hStream d)
  let mine := fun (e : StreamEnt) => e.src == hSrc d && e.stream == hStream d
  let h1 :=
    if h.red.control.any mine then
      let r := h.readWords 0xFF 0xE 48 w 2
      if r.2 then { r.1 with red.control := r.1.red.control.filter fun e => !mine e } else r.1
    else h
  let r := h1.controlDecide d
  if r.2 = 0 then (r.1.writeWords 48 w 2, 0) else r

/-- Free the stream table entries and control records of a joining hub (R145). -/
def HDie.forget (h : HDie) (src : Nat) : HDie :=
  { h.setTable (h.red.table.filter fun e => e.src != src) with red.control := h.red.control.filter fun e => e.src != src }

/-! ### Consumers -/

/-- The queues of local consumers that a received frame enters (R130, R164): an endpoint of a spur, the host's endpoint 424, the
management core's endpoint 0, and for images the host's maps and the field die. Control frames are taken by their units
without an output queue. -/
def HDie.localWants (h : HDie) (d : Hdr) : List Want :=
  let tc := hTc d
  let ep := hEp d
  let one := fun (q : Nat) => [({ q := q, ready := false, untrk := false } : Want)]
  match hType d with
  | 4 =>
    if hStream d == 0xFC0 then (if h.hostAttached then one (48 + tc) else [])
    else if hStream d == 0xFC1 then one (56 + tc) else []
  | 1 | 6 =>
    if 420 ≤ ep && ep ≤ 423 then one (8 * (ep - 418) + tc)
    else if ep == 424 then (if h.hostAttached then one (48 + tc) else [])
    else if ep == 0 then one (64 + tc)
    else []
  | _ => []

/-- Words and image of a CYCLIC payload (Table 6.5). -/
def cycKind (p : List Byte) : Nat := beWord p 0 / 2 ^ 28
/-- ILEN. -/
def cycLen (p : List Byte) : Nat := beWord p 0 % 2 ^ 13
/-- PLAN_CRC. -/
def cycCrc (p : List Byte) : Nat := beWord p 1

/-- Whether a CYCLIC frame agrees with the plan in force at this hub (R183). -/
def HDie.cyclicOk (h : HDie) (f : Frame) : Bool :=
  match h.sw.inForce with
  | none => false
  | some p =>
    cycCrc f.payload == p.crc
      && (match cycKind f.payload with
          | 1 => hStream f.hdr == 0xFC0 && hDst f.hdr == 127 && cycLen f.payload == p.ins.getD (hSrc f.hdr) 0
          | 2 => hStream f.hdr == 0xFC1 && hDst f.hdr == h.self && cycLen f.payload == (p.outs.getD h.self (0, 0)).1
          | _ => false)

/-- The local copies of a stored frame. -/
def HDie.locals (h : HDie) (fid : Nat) : List Copy := h.sw.copies.filter fun c => c.fid == fid && 16 ≤ c.q

/-- Drop the local copies of a stored frame. -/
def HDie.dropLocals (h : HDie) (fid : Option Nat) : HDie :=
  match fid with
  | none => h
  | some i => (h.locals i).foldl (fun g c => g.dropCopy c.fid c.q) h

/-- Deliver a frame that duplicate discard accepted, or that is untracked (R122, R147): a unit without a queue finds it in its
inbox; a queued copy may leave, and the host, the field die and the core are served. -/
def HDie.deliverLocal (h : HDie) (b : Inb) (fid : Option Nat) : HDie :=
  let typ := hType b.frame.hdr
  if typ == 1 || typ == 4 || typ == 6 then
    match fid with
    | none => h
    | some i =>
      { h with sw.copies := h.sw.copies.map fun (c : Copy) =>
          if c.fid == i && 16 ≤ c.q then { c with ready := true, untrk := b.untrk } else c }.serveLocal
  else { h with sw.inbox := h.sw.inbox ++ [b] }

/-- Record that the image of a kind and source was applied for cycle n; what lies more than 64 cycles back is forgotten (log 164). -/
def applied (key n : Nat) (l : List (Nat × Nat)) : List (Nat × Nat) :=
  (key, n) :: l.filter fun x => x.1 != key || (n + 2 ^ 32 - x.2) % 2 ^ 32 < 64 || (x.2 + 2 ^ 32 - n) % 2 ^ 32 < 64

/-- An image frame (R183, Table 5.2): dropped where it disagrees with the plan; an untracked copy whose cycle number is already applied is ignored. -/
def HDie.deliverCyclic (h : HDie) (b : Inb) (fid : Option Nat) : HDie :=
  if !h.cyclicOk b.frame then (h.bump Reg.SWC_CYCMISM_COUNT).dropLocals fid
  else
    let key := hSrc b.frame.hdr * 2 + cycKind b.frame.payload % 2
    let n := hCycle b.frame.hdr
    if b.untrk && h.red.cycApplied.contains (key, n) then h.dropLocals fid
    else { h with red.cycApplied := applied key n h.red.cycApplied }.deliverLocal b fid

/-- Deliver by type. -/
def HDie.deliverFrame (h : HDie) (b : Inb) (fid : Option Nat) : HDie :=
  if hType b.frame.hdr == 4 then h.deliverCyclic b fid else h.deliverLocal b fid

/-- DETAIL0 of a DUP request (Table 17.1). -/
def dupDetail (b : Inb) : Nat :=
  let d := b.frame.hdr
  hSrc d + hStream d * 2 ^ 7 + hSeq d * 2 ^ 19 + hPath d * 2 ^ 35 + hType d * 2 ^ 36

/-- UNTRACKED_FRAME (R146 to R148): counted; a TBL_FULL event when the bit was clear; then DUP delivers it marked untracked in HW, or holds
it and asks, up to 64 frames. -/
def HDie.untracked (h : HDie) (b : Inb) (fid : Option Nat) : HDie :=
  let first := !h.on Reg.RED_STEVT_TBL_FULL
  let h1 := (h.bump Reg.RED_UNTRK_COUNT).raise Reg.RED_STEVT_TBL_FULL
  let h2 := if first then h1.event 7 0 (h1.rd Reg.RED_UNTRK_COUNT) 0 else h1
  let u := { b with untrk := true }
  if h2.modeOf 0 == 0 then h2.deliverFrame u fid
  else if h2.mayAsk 0 && h2.red.dupHeld.length < 64 then
    let h3 := h2.ask 0 (dupDetail b) b.port 0
    match h3.spl.reqs.getLast? with
    | some r => { h3 with red.dupHeld := h3.red.dupHeld ++ [{ cookie := r.cookie, fid := fid, inb := u }] }
    | none => h3
  else ((h2.bump (Reg.SPL_FCNT_DEFAULTED 0)).bump Reg.RED_DUPHW_COUNT).deliverFrame u fid

/-- DUP's decision on a held frame: deliver marked untracked, or discard, counted in RED_DUPDISC (Table 17.1). -/
def HDie.dupDecide (h : HDie) (cookie : Nat) (keep : Bool) : HDie :=
  match h.red.dupHeld.find? fun x => x.cookie == cookie with
  | none => h
  | some x =>
    let h1 := { h with red.dupHeld := h.red.dupHeld.filter fun y => y.cookie != cookie }
    if keep then h1.deliverFrame x.inb x.fid else (h1.bump Reg.RED_DUPDISC_COUNT).dropLocals x.fid

/-- SUBTYPE of a RING_CTL frame (R161). -/
def subtypeOf (f : Frame) : Nat := beNat (slice f.payload 0 1)

/-- Take a frame out of the inbox of the units, if it waits there. -/
def HDie.takeInbox (h : HDie) (f : Frame) : HDie :=
  { h with sw.inbox := dropFirst (fun b => decide (b.frame = f)) h.sw.inbox }

end Sys2Proof.Machine
end

