-- ==== Sys2Proof/Machine/Ring.lean ====
section
/-! DEFINITION. Ring frames at a ring port: the header and the trailer of a received frame (R120 to R122, R137), and the ageing of the stream
table and its lookup (R142, R163). -/
namespace Sys2Proof.Machine

/-- A frame for HOST or a local endpoint arrives while Rest is being entered (R31): the entry is abandoned. -/
def HDie.restArrival (h : HDie) : HDie := if h.rd Reg.PWM_REST_STATE == 1 then h.restTrigger else h

/-- Where a frame whose header has passed goes (Table 5.1, R39, R443): delivered locally, forwarded. -/
def HDie.route (h : HDie) (d : Hdr) (head : List Byte) : Bool × Bool :=
  if hType d == 9 && 0x10 ≤ beNat (slice head 0 1) && beNat (slice head 0 1) ≤ 0x1F then
    let mine := beNat (slice head 4 8) == h.rd Reg.GLB_UID_UID
    (!mine, !mine)
  else if !h.numbered then (false, true)
  else if hSrc d == h.hubNum then (false, false)
  else if hDst d == h.hubNum then (true, false)
  else (hDst d == 127, true)

/-- RING_FRAME_HEADER_RECEIVED (R120, R137, R167, R173): HCRC; VER, TYPE, TC and LEN; the island's room; HOPS where the frame is to be
forwarded; then one admission decision for each queue. `head` is what follows the header, up to 104 bytes (R177); `free` the free cells of the port's
FIFO; `mac` the MAC stamp; `cut`: the link is lost before these checks have passed, and the frame is only counted (R121). -/
def HDie.ringHeader (h : HDie) (p : Nat) (d : Hdr) (head : List Byte) (free mac : Nat) (cut : Bool) : HDie :=
  let h0 := h.advance mac
  let n := cellsOf (hLen d)
  if !h0.active p || h0.sw.rx.any (fun r => r.port == p) then h0
  else if cut then h0.bump (Reg.RNG_RXTRUNC_COUNT p)
  else if hHcrc d != hcrcOf d then h0.bump (Reg.RNG_RXHCRC_COUNT p)
  else if hVer d != 1 || !typeTcOk (hType d) (hTc d) || 9728 < hLen d then h0.bump (Reg.RNG_RXBAD_COUNT p)
  else if free < min n 32 then h0.bump (Reg.SWC_INDROP_COUNT p)
  else
    let stamp := h0.ingress p mac
    let h1 := h0.mirror p (hTc d) (hdrBytes d ++ head) (hLen d + 28) stamp
    let (loc, fwd) := h1.route d head
    let h2 := if loc && (hType d == 2 || !(h1.localWants d).isEmpty) then h1.restArrival else h1
    let h3 := if fwd && hHops d == 0 then h2.bump (Reg.RNG_HOPSEXP_COUNT p) else h2
    let ring : List Want := if fwd && hHops d != 0 then [{ q := 8 * (1 - p) + hTc d, ready := true, untrk := false }] else []
    let mine := if loc then h3.localWants d else []
    let r := if (ring ++ mine).isEmpty then (h3, none)
      else h3.store { frame := { hdr := d, payload := [] }, cells := n, whole := hLen d + 28, inPort := p, own := false, good := none, stamp := stamp,
                      launch := none } (ring ++ mine)
    let got := match r.2 with
      | some i => r.1.locals i
      | none => []
    { r.1 with sw.rx := r.1.sw.rx ++ [{ port := p, hdr := d, fid := r.2, fwd := fwd && hHops d != 0,
                                        local_ := loc && (mine.isEmpty || !got.isEmpty), stamp := stamp }] }

def execRingFrameHeaderReceived (p : Fin 2) (d : Hdr) (head : List Byte) (free mac : Nat) (cut : Bool) (s : State) :
    Host.Outcome State Fault Refusal :=
  onH (fun h => h.ringHeader p d head free mac cut) s

/-- The lead stamps the return of its own SYNC copies (R238): the path-A copy on W, the path-B copy on E; loop times in 2^-8 ns. -/
def HDie.loopReturn (h : HDie) (d : Hdr) (stamp : Nat) : HDie :=
  let n := hCycle d
  let t := in8 (stamp - h.cycleStart n)
  let old := (h.tb.loopRet.find? fun x => x.1 == n).getD (n, none, none)
  let new := if hPath d == 0 then (n, some t, old.2.2) else (n, old.2.1, some t)
  { h with tb.loopRet := (new :: h.tb.loopRet.filter fun x => x.1 != n).take 4 }

/-- A frame that is good at its trailer (Table 5.1): source removal; the join agent's; nothing at an unnumbered hub; else duplicate discard and
delivery. A SYNC copy that duplicate discard drops still serves the offset (R240), and a RING_CTL frame of another subtype is ignored (R161). -/
def HDie.arrived (h : HDie) (r : RxCtx) (f : Frame) : HDie :=
  let d := r.hdr
  let b : Inb := { port := r.port, stamp := r.stamp, untrk := false, dup := false, frame := f }
  if isJoin f then (if r.local_ then { h with sw.inbox := h.sw.inbox ++ [b] } else h)
  else if h.numbered && hSrc d == h.hubNum then
    let h1 := if hDst d == 127 then h else h.bump Reg.RED_SRCREM_COUNT
    if hType d == 5 then h1.loopReturn d r.stamp else h1
  else if !r.local_ then h
  else if hType d == 5 then
    let j := h.controlJudge d
    { j.1 with sw.inbox := j.1.sw.inbox ++ [{ b with dup := j.2 != 0 }] }
  else if hType d == 9 then
    let j := h.controlJudge d
    if j.2 == 0 && (subtypeOf f == 1 || subtypeOf f == 2) then { j.1 with sw.inbox := j.1.sw.inbox ++ [b] } else j.1
  else
    let j := h.streamJudge d
    match j.2 with
    | 0 => j.1.deliverFrame b r.fid
    | 3 => j.1.untracked b r.fid
    | _ => j.1.dropLocals r.fid

/-- RING_FRAME_TRAILER_RECEIVED (R121, R122, R167): good, stomped, of its length or cut short by an earlier hub, a CRC error, or cut by a full island (`full`). A frame that is not good is
not delivered, and its forwarded copy leaves stomped. A RING_CTL frame with HOPS 119 names the neighbour (R445). -/
def HDie.ringTrailer (h : HDie) (p : Nat) (payload : List Byte) (trailer : Nat) (full : Bool) : HDie :=
  match h.sw.rx.find? fun r => r.port == p with
  | none => h
  | some r =>
    let f : Frame := { hdr := r.hdr, payload := payload }
    let sum := trailerOf f
    let lenOk := payload.length == hLen r.hdr
    let good := !full && lenOk && trailer == sum
    let h0 := { h with sw.rx := h.sw.rx.filter fun (x : RxCtx) => x.port != p,
                       sw.stored := h.sw.stored.map fun (s : Stored) =>
                         if r.fid == some s.fid then { s with frame := f, good := some good } else s }
    if good then
      let h1 := h0.bump (Reg.RNG_RXFRM_COUNT p)
      let h2 := if hType r.hdr == 9 && hHops r.hdr == 119 then h1.wr (Reg.RNG_NEIGH_HUB p) (hSrc r.hdr) else h1
      (h2.arrived r f).sweep
    else
      let h1 := if full then h0.bump (Reg.SWC_INTRUNC_COUNT p)
        else if trailer == 0xFFFFFFFF - sum then h0.bump (Reg.RNG_RXSTOMP_COUNT p)
        else h0.bump (Reg.RNG_RXCRC_COUNT p)
      (h1.dropLocals r.fid).sweep

def execRingFrameTrailerReceived (p : Fin 2) (payload : List Byte) (trailer : Word) (full : Bool) (s : State) :
    Host.Outcome State Fault Refusal :=
  onH (fun h => h.ringTrailer p payload trailer.toNat full) s

/-- The age limit of a stream table entry (R142): AGE_MS, of which 0 acts as 1. -/
def HDie.ageLimit (h : HDie) : Nat := ofMs (max 1 (h.rd Reg.RED_STCFG_AGE_MS))

/-- STREAM_ENTRY_AGED (R142, Table 5.8): an entry that has accepted no frame for AGE_MS is freed, and one that took a frame since stays; a frame already held stays
as it was decided (R149). -/
def HDie.entryAged (h : HDie) (i : Nat) : HDie :=
  h.setTable (h.red.table.filter fun e => e.idx != i || decide (h.tb.now < e.last + h.ageLimit))

def execStreamEntryAged (i : Fin 3072) (s : State) : Host.Outcome State Fault Refusal := onH (fun h => h.entryAged i.val) s

/-- STREAM_LOOKUP (R163): RED_STFIND.GO answers in RED_STFOUND whether the key is tracked, and where; an entry with an uncorrectable word is freed (Table 15.2). The
index shown with a miss is not stated (log 5). -/
def HDie.streamLookup (h : HDie) (src stream : Nat) : HDie :=
  let h1 := ((h.wr Reg.RED_STFIND_SRC_HUB src).wr Reg.RED_STFIND_STREAM stream).checkEntry src stream
  match h1.red.table.find? fun e => e.src == src && e.stream == stream with
  | some e => (h1.wr Reg.RED_STFOUND_HIT 1).wr Reg.RED_STFOUND_INDEX e.idx
  | none =>
    let (v, h2) := h1.openValue
    (h2.wr Reg.RED_STFOUND_HIT 0).wr Reg.RED_STFOUND_INDEX v

def execStreamLookup (src : Fin 128) (stream : Fin 4096) (s : State) : Host.Outcome State Fault Refusal :=
  onH (fun h => h.streamLookup src stream) s

end Sys2Proof.Machine
end

