-- ==== Sys2Proof/Machine/Tx.lean ====
section
/-! DEFINITION. Frames that leave the ring ports and the spurs: the start of transmission (R165, R241), and what a frame that has left counts (R121,
R126, R130). -/
namespace Sys2Proof.Machine

/-- The residence of a SYNC copy that this hub forwards (R239, R240): beyond TIM_RES, which reads 0 until it is known, by more than 8 ns it is late; RES is the mean
over the hub's last 16 cycles. -/
def HDie.residence (h : HDie) (s : Stored) (out : Nat) : HDie :=
  let r := in8 (out - s.stamp)
  let h1 := if h.rd Reg.TIM_RES_RES + 8 * 256 < r then h.bump Reg.TIM_SYNCLATE_COUNT else h
  { h1 with tb.resid := h1.tb.resid ++ [(h1.tb.running.getD 0, r)], tb.resKnown := true }.resAge

/-- The egress stamp of a copy that starts on port p with the MAC stamp `mac`: a frame with a launch time is held until its stamp is no earlier (R241). -/
def HDie.leavesAt (h : HDie) (p : Nat) (s : Stored) (mac : Nat) : Nat :=
  let t := h.outAt p mac
  if s.governs p then max t (s.launch.getD 0) else t

/-- The newest SYNC that has left ring port p (R239). -/
def HDie.syncLeft (h : HDie) (p n : Nat) : HDie :=
  if ahas h.tb.syncOut p && (n + 2 ^ 32 - aget h.tb.syncOut p 0) % 2 ^ 32 ≥ 2 ^ 31 then h else { h with tb.syncOut := aput h.tb.syncOut p n }

/-- A copy that leaves port p later than 3 ns after its launch time is counted (R241); `out` is its egress stamp. A frame launched by a change of time has none. -/
def HDie.slip (h : HDie) (p : Nat) (s : Stored) (out : Nat) : HDie :=
  if s.governs p && s.launch.getD 0 + ofNs 3 < out then h.bump Reg.TIM_LAUNCHSLIP_COUNT else h

/-- A frame starts on port p: it takes the injections that were asked for the next frame (R126, R134). -/
def HDie.takeInj (h : HDie) (p : Nat) : HDie :=
  let ring := fun (x : PortCtx) => { x with injHcrc := false, injCrc := false, nowHcrc := x.injHcrc, nowCrc := x.injCrc }
  let spur := fun (x : SpurCtx) => { x with injFcs := false, nowFcs := x.injFcs }
  { h with ports := h.ports.modify p ring, spurs := if p < 2 then h.spurs else h.spurs.modify (p - 2) spur }

/-- FRAME_TRANSMIT_START (R165, R176, R236, R241, R243): the scheduler of port p takes the next frame; `mac` is the MAC stamp of its reference
point, which for a launch may lie before the instant at which the frame was queued (log 187). -/
def HDie.txStart (h : HDie) (p mac : Nat) : HDie :=
  let h0 := h.advance mac
  if h0.portState p != 0 || h0.sw.copies.any (fun c => c.leaving && c.q / 8 == p) then h0
  else
    let r := h0.serveOut p
    match r.2 with
    | none => r.1
    | some (c, s) =>
      let out := r.1.leavesAt p s mac
      let g := ({ (r.1.takeInj p).starts c.fid with
        sw.copies := r.1.sw.copies.map fun (x : Copy) => if x.fid == c.fid && x.q == c.q then { x with leaving := true } else x }).slip p s out
      if 2 ≤ p && p < 6 then g.ptpStamp (p - 2) true s.frame.payload out
      else if p < 2 && hType s.frame.hdr == 5 then
        let g1 := g.syncLeft p (hCycle s.frame.hdr)
        if s.own then g1 else g1.residence s out
      else g

def execFrameTransmitStart (p : Fin 10) (mac : Nat) (s : State) : Host.Outcome State Fault Refusal :=
  onH (fun h => h.txStart p mac) s

/-- The frame as it leaves ring port p (R118, R120, R136): a sourced frame with the port's PATH, a forwarded one with HOPS less 1. -/
def asSent (p : Nat) (s : Stored) : Frame :=
  if s.own then withPath s.frame p else { s.frame with hdr := hopHdr s.frame.hdr }

/-- Record the frame that a port sent last. -/
def HDie.setSent (h : HDie) (x : Sent) : HDie := { h with sw.sent := x :: h.sw.sent.filter fun (y : Sent) => y.port != x.port }

/-- A change of n bits that is never none: what a corruption of the spec does to a check is not stated (log 5). -/
def corrupt (n v : Nat) : Nat := 1 + v % (2 ^ n - 1)

/-- Whether RATE n hits a frame of that many bits on a lane (R126): surely where it is as long as the distance of two hits, else by where in it the frame falls, which
is free. -/
def rateHit (n bits v : Nat) : Bool := n != 0 && (2 ^ (n + 7) ≤ bits || v % 2 == 1)

/-- A ring frame has left port p (R121, R126): its trailer, stomped where it is not good; the injections asked for; the counts. -/
def HDie.ringSent (h : HDie) (p : Nat) (c : Copy) (s : Stored) : HDie :=
  let f := asSent p s
  let bad := s.good == some false || c.stomp
  let x := h.port p
  let t0 := if bad then 0xFFFFFFFF - trailerOf f else trailerOf f
  let t1 := if x.nowCrc then t0 ^^^ 1 else t0
  let (v, h1) := if x.nowHcrc then h.openValue else (0, h)
  let hd := if x.nowHcrc then { f.hdr with w5 := BitVec.ofNat 32 (f.hdr.w5.toNat ^^^ corrupt 16 v) } else f.hdr
  let rates := [h.rd (Reg.RNG_LINJ_RATE p 0), h.rd (Reg.RNG_LINJ_RATE p 1)]
  let (u, h1) := if rates.any (fun n => n != 0) then h1.openValue else (0, h1)
  let dam := x.hit || rates.any fun n => rateHit n (4 * s.whole) u
  let h2 := (h1.setSent { port := p, frame := { f with hdr := hd }, trailer := t1, damaged := dam }).setPort p
    { x with nowCrc := false, nowHcrc := false, hit := false }
  let h3 := h2.bump (Reg.RNG_TXFRM_COUNT p)
  if bad then h3.bump (Reg.RNG_TXSTOMP_COUNT p) else h3

/-- The context of spur s. -/
def HDie.spur (h : HDie) (s : Nat) : SpurCtx := h.spurs.getD s { lane := false, injFcs := false, nowFcs := false, hit := false }

/-- A frame has left spur sp with a new FCS (R130), a bad one where injection asked for it, or where the resequencer lost a cell of it (R121, R168). -/
def HDie.spurSent (h : HDie) (sp : Nat) (c : Copy) (s : Stored) : HDie :=
  let x := h.spur sp
  let (v, h1) := if x.nowFcs then h.openValue else (0, h)
  let sum := if c.stomp then 0xFFFFFFFF - fcs32 s.frame.payload else fcs32 s.frame.payload
  let fcs := if x.nowFcs then sum ^^^ corrupt 32 v else sum
  let n := h.rd (Reg.SPU_INJ_RATE sp)
  let (u, h2) := if n != 0 then h1.openValue else (0, h1)
  { h2.setSent { port := sp + 2, frame := s.frame, trailer := fcs, damaged := x.hit || rateHit n (8 * s.whole) u } with
    spurs := h2.spurs.set sp { x with nowFcs := false, hit := false } }.bump (Reg.SPU_TXOK_COUNT sp)

/-- The next block of spur sp is corrupted (R126, R134). -/
def HDie.hitSpur (h : HDie) (sp : Nat) : HDie :=
  if h.sw.copies.any fun c => c.leaving && c.q / 8 == sp + 2 then { h with spurs := h.spurs.set sp { h.spur sp with hit := true } } else h

/-- FRAME_SENT (R25, R121, R130): the frame in transmission on port p has left; a frame whose trailer has not arrived is still leaving. -/
def HDie.txEnd (h : HDie) (p : Nat) : HDie :=
  match h.sw.copies.find? fun c => c.leaving && c.q / 8 == p with
  | none => h
  | some c =>
    match h.getStored c.fid with
    | none => h
    | some s =>
      if s.good.isNone then h
      else
        let h1 := if p < 2 then h.ringSent p c s else if p < 6 then h.spurSent (p - 2) c s else if c.stomp then h else h.taken s c.q c.untrk
        (h1.bump (Reg.SWC_QTXFRM_COUNT c.q)).dropCopy c.fid c.q

def execFrameSent (p : Fin 10) (s : State) : Host.Outcome State Fault Refusal := onH (fun h => h.txEnd p) s

end Sys2Proof.Machine
end

