-- ==== Sys2Proof/Machine/Spur.lean ====
section
/-! DEFINITION. The spurs (R128 to R130, R134): frames received, the link, enabling, and injection. -/
namespace Sys2Proof.Machine

/-- A tunnel that R129 calls invalid. -/
def HDie.tunnelBad (h : HDie) (s : Nat) : Bool :=
  let ep := h.rd (Reg.SPU_TUN_DST_EP s)
  let hub := h.rd (Reg.SPU_TUN_DST_HUB s)
  ep < 420 || 424 < ep || 0xFC0 ≤ h.rd (Reg.SPU_TUN_STREAM s) || (120 ≤ hub && hub < 127) || 3 < h.rd (Reg.SPU_CFG_TC s)

/-- A frame of a spur is tunnelled as a SPUR frame (R129, R135): on the ring, to this hub's own endpoint, or both. It counts as received also where it goes
nowhere (log 185). -/
def HDie.tunnel (h : HDie) (s stamp : Nat) (payload : List Byte) : HDie :=
  let dst := h.rd (Reg.SPU_TUN_DST_HUB s)
  let ep := h.rd (Reg.SPU_TUN_DST_EP s)
  ((h.bump (Reg.SPU_RXOK_COUNT s)).sendOwn (2 + s) 6 (h.rd (Reg.SPU_CFG_TC s)) (h.rd (Reg.SPU_TUN_STREAM s)) dst ep payload none stamp).1

/-- SPUR_FRAME_RECEIVED (R129, R167, R243): FCS, length, MAC control, tunnel; the frame is given without its FCS; `free` is the room in the
spur's FIFO at its header, and `full` whether the FIFO filled up while it arrived. Nothing of a frame is forwarded before its FCS is checked, so that a
cut ends all of it (log 168). A frame on a spur that is not up is discarded uncounted, and a MAXLEN above 9,728 is taken as it stands (log 185). -/
def HDie.spurFrame (h : HDie) (s : Nat) (payload : List Byte) (fcsOk : Bool) (free : Nat) (full : Bool) (mac : Nat) : HDie :=
  let h0 := h.advance mac
  let len := payload.length + 4
  let n := cellsOf payload.length
  if !h0.portUp (2 + s) then h0
  else
    let stamp := h0.ingress (2 + s) mac
    if free < min n 16 then h0.bump (Reg.SWC_INDROP_COUNT (2 + s))
    else if full then h0.bump (Reg.SWC_INTRUNC_COUNT (2 + s))
    else if !fcsOk then h0.bump (Reg.SPU_RXFCS_COUNT s)
    else
      let h1 := h0.ptpStamp s false payload stamp
      if len < 64 then h1.bump (Reg.SPU_RXSHORT_COUNT s)
      else if h1.rd (Reg.SPU_CFG_MAXLEN s) + 4 < len then h1.bump (Reg.SPU_RXLONG_COUNT s)
      else if be16 payload 12 == 0x8808 then h1.bump (Reg.SPU_RXCTL_COUNT s)
      else if h1.tunnelBad s then h1.bump (Reg.SPU_RXDROP_COUNT s)
      else h1.tunnel s stamp payload

def execSpurFrameReceived (sp : Fin 4) (payload : List Byte) (fcsOk : Bool) (free : Nat) (full : Bool) (mac : Nat) (s : State) :
    Host.Outcome State Fault Refusal :=
  onH (fun h => h.spurFrame sp payload fcsOk free full mac) s

/-- DETAIL0 of a spur's PORT event (Table 4.7): a spur has no fallback rate and no neighbour number; FEC shows SPU_STAT_s.FECLOCK; the state and the cause are
deduced (log 21). -/
def HDie.spurDetail (h : HDie) (s st cause : Nat) : Nat := st + cause * 16 + h.rd (Reg.SPU_STAT_FECLOCK s) * 2 ^ 10 + 0x7F * 2 ^ 16

/-- The cause with which a spur goes down (log 21): DISABLED, TEST, BLOCK, HIBER or RF as the registers show; of a local fault alone any of Table 4.7, which is
free. -/
def HDie.spurCause (h : HDie) (s : Nat) : Nat × HDie :=
  if !h.on (Reg.SPU_CFG_EN s) then (1, h)
  else if h.on (Reg.SPU_CFG_PRBS_MODE s) then (0xD, h)
  else if !h.on (Reg.SPU_STAT_BLOCK s) then (4, h)
  else if h.on (Reg.SPU_STAT_HIBER s) then (5, h)
  else if h.on (Reg.SPU_STAT_RF s) then (7, h)
  else
    let (v, g) := h.openValue
    (v % 17, g)

/-- A spur goes down: its event, its queues (Table 6.3), and a LINK_DOWN fault unless it was disabled or put to test (Table 16.4). -/
def HDie.spurDown (h : HDie) (s : Nat) : HDie :=
  let (c, h0) := h.spurCause s
  let st := if c = 1 then 0 else if c = 0xD then 8 else 7
  let h1 := ((h0.wr (Reg.SPU_STAT_UP s) 0).raise (Reg.SPU_EVT_DOWN s)).event 6 (2 + s) (h0.spurDetail s st c) (2 + s)
  let h2 := if c = 1 || c = 0xD then h1 else h1.fault (7 + s) 0x18 c
  h2.portLeavesUp (2 + s)

/-- A spur comes up (R128, Table 6.3). -/
def HDie.spurUp (h : HDie) (s : Nat) : HDie :=
  (((h.wr (Reg.SPU_STAT_UP s) 1).raise (Reg.SPU_EVT_UP s)).event 6 (2 + s) (h.spurDetail s 6 0) (2 + s + 16)).portReturnsUp (2 + s)

/-- Whether a spur is up (R128): its lane has power, it has block lock and none of the conditions, and its lane does not send PRBS (log 162). -/
def HDie.spurIsUp (h : HDie) (s : Nat) : Bool :=
  h.on (Reg.SPU_CFG_EN s) && (h.spur s).lane && h.on (Reg.SPU_STAT_BLOCK s) && !h.on (Reg.SPU_STAT_HIBER s) && !h.on (Reg.SPU_STAT_LF s) &&
    !h.on (Reg.SPU_STAT_RF s) && !h.on (Reg.SPU_CFG_PRBS_MODE s)

/-- A spur comes up or goes down as its lane and its configuration now have it. -/
def HDie.spurFollow (h : HDie) (s : Nat) : HDie :=
  if h.spurIsUp s && !h.on (Reg.SPU_STAT_UP s) then h.spurUp s
  else if !h.spurIsUp s && h.on (Reg.SPU_STAT_UP s) then h.spurDown s
  else h

/-- What a spur's receiver shows of its lane. -/
def HDie.spurShow (h : HDie) (s : Nat) (block hiber lf rf fec : Bool) : HDie :=
  (((((h.wr (Reg.SPU_STAT_BLOCK s) (b2n block)).wr (Reg.SPU_STAT_HIBER s) (b2n hiber)).wr (Reg.SPU_STAT_LF s) (b2n lf)).wr
    (Reg.SPU_STAT_RF s) (b2n rf)).wr (Reg.SPU_STAT_FECLOCK s) (b2n fec))

/-- A spur is reset (Table 16.2): it goes down, and its PCS restarts without block lock. -/
def HDie.spurReset (h : HDie) (s : Nat) : HDie := (h.spurShow s false false false false false).spurFollow s

/-- SPUR_LINK_CHANGE (R128): block lock, high error ratio, local and remote fault as the receiver sees them; the spur is up while it has block lock
and none of the others, and its lane does not send PRBS (log 162). FEC is at 25GBASE-R alone: `fec` its lock, `corr` and `unc` its codewords since the last report. A lane
without power, of a disabled spur or in Rest, shows nothing (R30). -/
def HDie.spurLink (h0 : HDie) (s : Nat) (block hiber lf rf fec : Bool) (corr unc : Nat) : HDie :=
  if !h0.on (Reg.SPU_CFG_EN s) || !(h0.spur s).lane then h0
  else
    let coded := h0.on (Reg.SPU_CFG_RATE s) && h0.on (Reg.SPU_CFG_FEC s)
    let h := if coded then (h0.bump (Reg.SPU_FECCORR_COUNT s) corr).bump (Reg.SPU_FECUNC_COUNT s) unc else h0
    (h.spurShow s block hiber lf rf (coded && fec)).spurFollow s

def execSpurLinkChange (sp : Fin 4) (block hiber lf rf fec : Bool) (corr unc : Nat) (s : State) : Host.Outcome State Fault Refusal :=
  onH (fun h => h.spurLink sp block hiber lf rf fec corr unc) s

/-- A write to SPU_CFG_s (R30, R134, R164, R179): EN 1 leaves Rest, and powers the lane at once, or with the exit's end; EN 0 takes the spur's port down with H acting as 0, and its lane off. -/
def HDie.spurCfg (h : HDie) (s v : Nat) : HDie :=
  let en := v % 2
  let was := h.on (Reg.SPU_CFG_EN s)
  let h1 := (((((((h.wr (Reg.SPU_CFG_EN s) en).wr (Reg.SPU_CFG_RATE s) (fieldOf v 1 1)).wr (Reg.SPU_CFG_FEC s) (fieldOf v 2 1)).wr
    (Reg.SPU_CFG_PRBS_MODE s) (fieldOf v 3 1)).wr (Reg.SPU_CFG_PRBS s) (fieldOf v 4 3)).wr (Reg.SPU_CFG_CHK s) (fieldOf v 7 1)).wr
    (Reg.SPU_CFG_TC s) (fieldOf v 8 3)).wr (Reg.SPU_CFG_MAXLEN s) (fieldOf v 16 14)
  if en == 1 then
    let h2 := h1.restTrigger
    let h3 := if h2.rd Reg.PWM_REST_STATE < 2 then { h2 with spurs := h2.spurs.set s { h2.spur s with lane := true } } else h2
    h3.spurFollow s
  else if !was then h1
  else
    let h2 := if h.on (Reg.SPU_STAT_UP s) then h1.spurDown s else h1
    let h3 := if h2.portState (2 + s) == 1 then (h2.setPortState (2 + s) 2).flushPort (2 + s) else h2
    let h4 := { h3 with spurs := h3.spurs.set s { h3.spur s with lane := false } }
    h4.spurShow s false false false false false

def execSpurEnableWrite (sp : Fin 4) (v : Word) (s : State) : Host.Outcome State Fault Refusal :=
  onH (fun h => if lacksSpur h.variant sp then h else h.spurCfg sp v.toNat) s

/-- SPUR_INJECT_ONE (R126, R134): one bit of the spur's next block is inverted. -/
def execSpurInjectOne (sp : Fin 4) (s : State) : Host.Outcome State Fault Refusal :=
  onH (fun h => if lacksSpur h.variant sp then h else h.hitSpur sp) s

/-- SPUR_INJECT_FCS (R134): the next frame is sent with a bad FCS. -/
def execSpurInjectFcs (sp : Fin 4) (s : State) : Host.Outcome State Fault Refusal :=
  onH (fun h => if lacksSpur h.variant sp then h else { h with spurs := h.spurs.set sp { h.spur sp with injFcs := true } }) s

end Sys2Proof.Machine
end

