-- ==== Sys2Proof/Machine/Redundancy.lean ====
section
/-! DEFINITION. Redundancy and the lead (chapter 5): PATH_STATE, SYNC and the followed lead, takeover and handover, HEALTH. What a lost member
means for a peer's functions stands in Machine/SplitFn.lean. -/
namespace Sys2Proof.Machine

/-- PATH_STATE_PERIODIC (R150). -/
def execPathStatePeriodic (s : State) : Host.Outcome State Fault Refusal := onH (fun h => h.sendPath) s

/-- The link states that a PATH_STATE payload reports (Table 5.7). -/
def pathOf (src now : Nat) (p : List Byte) : PathSt :=
  let w := beWord p 0
  let eUp := bitOf w 23
  let wUp := bitOf w 22
  { hub := src, eUp := eUp, wUp := wUp, fec := (eUp && bitOf w 21) || (wUp && bitOf w 20),
    fb := (eUp && bitOf w 19) || (wUp && bitOf w 18), eNeigh := fieldOf w 8 7, wNeigh := fieldOf w 0 7, time := now, absent := false }

/-- A PATH_STATE updates the sender's link states, the membership list and the ring state (R151, R445). -/
def HDie.pathIn (h : HDie) (f : Frame) : HDie :=
  let src := hSrc f.hdr
  if !h.numbered || src == h.hubNum || 120 ≤ src || subtypeOf f != 1 then h
  else
    let h1 := { h with red.paths := pathOf src h.tb.now f.payload :: h.red.paths.filter fun (p : PathSt) => p.hub != src }
    (h1.addMember src).ringUpdate

/-- The cycle number `a` is newer than `b`, both modulo 2^32 (R155, R234). -/
def newer (a b : Nat) : Bool := let d := (a + 2 ^ 32 - b) % 2 ^ 32; d != 0 && d < 2 ^ 31

/-- (prio, hub) is a higher lead than (prio', hub'): of equal PRIO the lower hub number is the higher (R153). -/
def higherLead (prio hub prio' hub' : Nat) : Bool := prio' < prio || (prio == prio' && hub < hub')

/-- The in-step comparison of a standby at an accepted SYNC (R156). -/
def HDie.compareStep (h : HDie) (n start crc : Nat) : HDie :=
  let own := h.cycleStart n
  let off := if own ≤ start then start - own else own - start
  let plan := match h.sw.inForce with
    | some p => p.crc
    | none => 0
  let ok := n == h.rd Reg.TIM_CYCNUM_N && off ≤ ofNs (h.rd Reg.RED_STEPTOL_NS) && crc == plan
  let h1 := { h with red.lastCmp := n, red.planOk := crc == plan, red.maxOff := max h.red.maxOff (off / 2 ^ 32),
                     red.inStep := if ok then min 16 (h.red.inStep + 1) else 0,
                     red.missed := if ok then h.red.missed else h.red.missed + 1 }
  let h2 := if ok then h1 else (h1.bump Reg.RED_STEPERR_COUNT).raise Reg.RED_LEADEVT_OUT_OF_STEP
  h2.updateReady

/-- The offset takes a good copy of the followed lead's SYNC (R240): the first copy of a newer SYNC, or of another lead's, ends the wait for the last one, and a late
copy of an older one is not used. -/
def HDie.offsetCopy (h : HDie) (src n path start stamp : Nat) (loop : Option (Nat × Nat)) : HDie :=
  let fresh : SyncRx := { src := src, cycle := n, start := start, a := none, b := none, loop := loop, done := false }
  let (h0, x0, late) := match h.tb.sync with
    | none => (h, fresh, false)
    | some x =>
      if x.src == src && x.cycle == n then (h, x, x.done)
      else if x.src == src && !newer n x.cycle then (h, x, true)
      else (h.closeOffset, fresh, false)
  if late then h0
  else
    let x1 := if path == 0 then { x0 with a := some stamp } else { x0 with b := some stamp }
    let h1 := { h0 with tb.sync := some x1 }
    if x1.a.isSome && x1.b.isSome then h1.computeOffset x1 else h1

/-- What an accepted SYNC does to the lead machine (Table 5.5). -/
def HDie.syncMachine (h : HDie) (n start crc prio term src : Nat) (handToMe : Bool) : HDie :=
  match h.rd Reg.RED_LEADSTAT_STATE with
  | 1 => { (h.wr Reg.RED_LEADSTAT_STATE 2).wr Reg.RED_LEADSTAT_READY 0 with red.inStep := 0 }
  | 2 =>
    let h1 := h.compareStep n start crc
    if handToMe then h1.enterLead (term + 1) false else h1
  | 3 => (((h.leaveLead 2).raise Reg.RED_LEADEVT_OVERLAP).raise Reg.RED_LEADEVT_STEPDOWN).follow src prio term
  | 4 => ((((h.leaveLead 2).raise Reg.RED_LEADEVT_OVERLAP).raise Reg.RED_LEADEVT_STEPDOWN).raise
      Reg.RED_LEADEVT_HANDOVER_REFUSED).follow src prio term
  | _ => h

/-- A standby's takeover request, and a decision not yet acted on, are dropped with the deadline that a SYNC cancels (R159). -/
def HDie.cancelMst (h : HDie) : HDie :=
  let g := match h.spl.reqs.find? fun r => r.func == 4 with
    | some r => h.dropReq 4 r.cookie
    | none => h
  { g with red.mstStay := none }

/-- A SYNC copy (R153 to R156, R158, R240): ignored when not newer, or when duplicate discard dropped it (`dup`, R138); accepted from the followed lead, a higher one, the target of a handover, or
any while none is followed or none has come for 1.5 cycles; else counted as a lower lead's. -/
def HDie.syncIn (h : HDie) (f : Frame) (stamp : Nat) (dup : Bool) : HDie :=
  let d := f.hdr
  let src := hSrc d
  let n := hCycle d
  let p := f.payload
  let prio := fieldOf (beWord p 0) 24 8
  let handover := bitOf (beWord p 0) 22
  let target := fieldOf (beWord p 0) 15 7
  let term := beWord p 1
  let start := mkTime (beWord p 5 + 2 ^ 32 * (beWord p 4 % 65536)) (beWord p 6) 0
  let loop := if bitOf (beWord p 9) 31 then some (beWord p 7, beWord p 8) else none
  if !h.numbered || src == h.hubNum then h
  else
    let lead := h.rd Reg.RED_LEADSTAT_LEAD_HUB
    let lprio := h.rd Reg.RED_LEADSTAT_LEAD_PRIO
    let fresh := !dup && (!ahas h.red.syncSeen src || newer n (aget h.red.syncSeen src 0))
    let tie := lead != 0x7F && lead != src && prio == lprio
    let h0 := if fresh && tie then h.raise Reg.RED_LEADEVT_DUP_PRIO else h
    let leading := h.leads
    let accept := lead == 0x7F || src == lead || higherLead prio src lprio lead
      || (!leading && (h.red.handTo == some src || h.red.open_))
    let h1 :=
      if !fresh then h0
      else
        let h2 := { h0 with red.highTerm := max h0.red.highTerm term }
        if !accept then (h2.bump Reg.RED_LOWSYNC_COUNT).raise Reg.RED_LEADEVT_OVERLAP
        else
          let h3 := { h2 with red.syncSeen := aput h2.red.syncSeen src n, red.lastAcc := some n, red.accTime := h2.tb.now,
                              red.open_ := false }
          let h4 := if leading then h3
            else if src == lead then (h3.wr Reg.RED_LEADSTAT_LEAD_PRIO prio).wr Reg.RED_TERM_TERM term
            else h3.follow src prio term
          let heir := if handover then some target else if src == lead then h4.red.handTo else none
          let h5 := (if leading then h4 else { h4 with red.handTo := heir }).cancelMst
          let h6 := h5.syncMachine n start (beWord p 2) prio term src (handover && target == h5.hubNum)
          if leading then { h6 with red.handTo := if handover then some target else none } else h6
    if !h1.leads && h1.rd Reg.RED_LEADSTAT_LEAD_HUB == src then h1.offsetCopy src n (hPath d) start stamp loop else h1

/-- SYNC_RECEIVED: a good SYNC copy with its referred ingress stamp. -/
def execSyncReceived (f : Frame) (stamp : Nat) (s : State) : Host.Outcome State Fault Refusal :=
  onH (fun h => (h.takeInbox f).syncIn f stamp (h.sw.inbox.any fun b => decide (b.frame = f) && b.dup)) s

/-- OFFSET_WAIT_TIMEOUT (R240): S_N + 2 × WCL + 2 µs has passed, by the hub's own time; on a hub other than the lead. -/
def HDie.offsetWait (h : HDie) : HDie :=
  match h.tb.sync with
  | none => h
  | some x =>
    if h.leads || x.done then h
    else (h.advance (h.cycleStart x.cycle + ofNs (2 * h.rd Reg.RED_WCL_WCL_NS) + ofUs 2)).closeOffset

def execOffsetWaitTimeout (s : State) : Host.Outcome State Fault Refusal := onH (fun h => h.offsetWait) s

/-- The instant `halves` half cycle times after the later of the last accepted SYNC and the setting of TIM_CYCLE.EN (R155). -/
def HDie.syncDue (h : HDie) (halves : Nat) : Nat := max h.red.accTime h.tb.enAt + ofNs (halves * h.rd Reg.TIM_CYCLE_NS) / 2

/-- LEAD_FOLLOW_TIMEOUT (R155): 1.5 cycle times without an accepted SYNC; the next SYNC of any PRIO is accepted. Not judged while TIM_CYCLE.EN is 0,
nor by a lead. -/
def HDie.followOver (h : HDie) : HDie :=
  if h.on Reg.TIM_CYCLE_EN && !h.leads then { h.advance (h.syncDue 3) with red.open_ := true } else h

def execLeadFollowTimeout (s : State) : Host.Outcome State Fault Refusal := onH (fun h => h.followOver) s

/-- LEAD_LOST_TIMEOUT (R155): 3 cycle times without an accepted SYNC; LEAD_HUB shows none, and with it LEAD_PRIO (log 165). -/
def HDie.leadLost (h : HDie) : HDie :=
  if h.on Reg.TIM_CYCLE_EN && !h.leads && h.rd Reg.RED_LEADSTAT_LEAD_HUB != 0x7F then
    let h0 := h.advance (h.syncDue 6)
    let h1 := h0.noLead.raise Reg.RED_LEADEVT_LEAD_LOST
    if h1.hostAttached then h1.event 0xC 0 0x7F 0 else h1
  else h

def execLeadLostTimeout (s : State) : Host.Outcome State Fault Refusal := onH (fun h => h.leadLost) s

/-- The order of the lead's reports: PRIO, highest first, and of equal PRIO the lower hub number (R153, R157). -/
def placeHealth (e : Health) : List Health → List Health
  | [] => [e]
  | x :: r => if higherLead e.prio e.hub x.prio x.hub then e :: x :: r else x :: placeHealth e r

/-- HEALTH_RECEIVED (R157): the lead shows the report; every other hub shows none. -/
def HDie.healthIn (h : HDie) (f : Frame) : HDie :=
  let p := f.payload
  let w := beWord p 0
  if !h.leads || subtypeOf f != 2 then h
  else
    let e : Health := { hub := hSrc f.hdr, prio := fieldOf w 16 8, ready := bitOf w 15, match_ := bitOf w 14, single := bitOf w 13,
                        maxOff := beWord p 1 % 65536, miss := beWord p 1 / 65536, cycle := beWord p 2, seen := h.rd Reg.TIM_CYCNUM_N }
    h.setHealth (placeHealth e (h.red.health.filter fun x => x.hub != e.hub))

def execHealthReceived (f : Frame) (s : State) : Host.Outcome State Fault Refusal :=
  onH (fun h => (h.takeInbox f).healthIn f) s

/-- HEALTH_ENTRY_TIMEOUT (R157): the report of a standby from which no HEALTH came for 4 × 2^HPER cycles, by the lead's own HPER, is cleared. -/
def HDie.healthGone (h : HDie) (hub : Nat) : HDie :=
  let limit := 4 * 2 ^ h.rd Reg.RED_LEADCFG_HPER
  h.setHealth (h.red.health.filter fun x => x.hub != hub || decide ((h.rd Reg.TIM_CYCNUM_N + 2 ^ 32 - x.seen) % 2 ^ 32 < limit))

def execHealthEntryTimeout (hub : Fin 120) (s : State) : Host.Outcome State Fault Refusal := onH (fun h => h.healthGone hub) s

/-- LEAD_CONFIG_WRITE (R155, R158): RED_LEADCFG is written and the lead machine leaves or enters OFF as Table 5.5 states; a lead shows its own PRIO. -/
def HDie.leadCfg (h : HDie) (v : Nat) : HDie :=
  let h1 := (((h.wr Reg.RED_LEADCFG_PRIO (v % 256)).wr Reg.RED_LEADCFG_CAND (fieldOf v 8 1)).wr Reg.RED_LEADCFG_HPER (fieldOf v 12 4)).leadEval
  if h1.leads then h1.wr Reg.RED_LEADSTAT_LEAD_PRIO (v % 256) else h1

def execLeadConfigWrite (v : Word) (s : State) : Host.Outcome State Fault Refusal := onH (fun h => h.leadCfg v.toNat) s

/-- LISTEN_TIMER_EXPIRY (Table 5.5): LISTEN to LEAD, in a term above the highest seen. -/
def execListenTimerExpiry (s : State) : Host.Outcome State Fault Refusal :=
  onH (fun h =>
    if h.rd Reg.RED_LEADSTAT_STATE == 1 then (h.advance h.red.listenAt).enterLead (h.red.highTerm + 1) false else h) s

/-- Clear the standby's takeover request (R159). -/
def HDie.dropMst (h : HDie) : HDie :=
  match h.spl.reqs.find? fun r => r.func == 4 with
  | some r => h.dropReq 4 r.cookie
  | none => h

/-- TAKEOVER_DEADLINE (R158, R159): S_(N+1) + C / 2. A READY standby takes over unless MST decided to stay; a request without a decision defaults to
taking over. -/
def HDie.takeoverDue (h : HDie) : HDie :=
  if h.rd Reg.RED_LEADSTAT_STATE != 2 then h
  else
    let at_ := match h.red.lastAcc with
      | some n => h.cycleStart (n + 1) + ofNs (h.rd Reg.TIM_CYCLE_NS) / 2
      | none => 0
    let h1 := h.advance at_
    let asked := h1.spl.reqs.any fun r => r.func == 4
    let h2 := if asked then (h1.bump (Reg.SPL_FCNT_DEFAULTED 4)).dropMst else h1
    let stay := h2.red.mstStay == some true
    let h3 := { h2 with red.mstStay := none }
    if h3.on Reg.RED_LEADSTAT_READY && !stay then h3.enterLead (h3.rd Reg.RED_TERM_TERM + 1) true else h3

def execTakeoverDeadline (s : State) : Host.Outcome State Fault Refusal := onH (fun h => h.takeoverDue) s

/-- MST_REQUEST (R159, Table 17.1): once a deadline, at S_(N+1) + WCL a standby with MST in an HA mode asks whether to take over. -/
def HDie.mstAsk (h : HDie) : HDie :=
  if h.rd Reg.RED_LEADSTAT_STATE != 2 || h.modeOf 4 == 0 || h.red.mstStay.isSome || (h.spl.reqs.any fun r => r.func == 4) then h
  else
    let n := h.red.lastAcc.getD 0
    let h0 := h.advance (h.cycleStart (n + 1) + ofNs (h.rd Reg.RED_WCL_WCL_NS))
    if h0.mayAsk 4 then h0.ask 4 (n + h0.rd Reg.RED_LEADSTAT_LEAD_HUB * 2 ^ 32) (h0.rd Reg.RED_TERM_TERM) n
    else h0.bump (Reg.SPL_FCNT_DEFAULTED 4)

def execMstRequest (s : State) : Host.Outcome State Fault Refusal := onH (fun h => h.mstAsk) s

/-- HANDOVER (Table 5.5): a lead hands over to a standby that its reports show VALID and READY; else the command is refused. -/
def HDie.handover (h : HDie) (target : Nat) : HDie :=
  let ok := h.rd Reg.RED_LEADSTAT_STATE == 3
    && (upto 8).any fun k => h.rd (Reg.RED_HEALTH_HUB k) == target && h.on (Reg.RED_HEALTH_VALID k) && h.on (Reg.RED_HEALTH_READY k)
  if ok then { h.wr Reg.RED_LEADSTAT_STATE 4 with red.handTo := some target, red.handSent := false }
  else h.raise Reg.RED_LEADEVT_HANDOVER_REFUSED

def execHandover (target : Fin 128) (s : State) : Host.Outcome State Fault Refusal := onH (fun h => h.handover target) s

end Sys2Proof.Machine
end

