-- ==== Sys2Proof/Machine/Switch.lean ====
section
/-! DEFINITION. The commands of the switch core (chapter 6) other than frames: lost cells and planes (R168, R169), the rate (R171), the buffer's
division (R172), residue (R176), hold times (R179, R180) and watermark notices (R182). -/
namespace Sys2Proof.Machine

/-- Retire a plane: it receives no new cell, and drains (R169). -/
def HDie.retirePlane (h : HDie) (k : Nat) : HDie :=
  if h.sw.retiring.contains k || h.rd Reg.SWC_PLANE_RETIRED >>> k % 2 == 1 then h
  else { h with sw.retiring := h.sw.retiring ++ [k] }

/-- RSQ decides on a plane at STRIKES (R169, Table 6.6). -/
def HDie.planeStrikes (h : HDie) (out k n : Nat) : HDie :=
  if h.modeOf 3 == 0 then h.retirePlane k
  else if h.spl.reqs.any fun r => r.func == 3 && r.ctx == k then h
  else if h.mayAsk 3 then h.ask 3 (out + k * 16 + min n 255 * 256) 0 k
  else (h.bump (Reg.SPL_FCNT_DEFAULTED 3)).retirePlane k

/-- The plane that carried a cell of a stored frame (R166). -/
def HDie.planeOf (h : HDie) (fid cell : Nat) : Option Nat := (h.getStored fid).bind fun s => s.planes[cell]?

/-- CELL_LOST_TIMEOUT (R168, R169): a cell of a frame for queue q is declared lost, the one for which the resequencer waits, or another that was upset; the frame is dropped there, or ends stomped if it has begun to
leave; the loss is a strike against the plane that carried it. -/
def HDie.cellLost (h : HDie) (fid q cell : Nat) : HDie :=
  let mine := h.sw.copies.find? fun c => c.fid == fid && c.q == q
  match mine, h.planeOf fid ((mine.bind (·.lost)).getD cell) with
  | some c, some k =>
    let h1 := h.bump (Reg.SWC_RSQLOST_COUNT (q / 8))
    let h2 := if c.leaving then
        { h1 with sw.copies := h1.sw.copies.map fun (x : Copy) => if x.fid == fid && x.q == q then { x with stomp := true } else x }
      else h1.dropCopy fid q
    let l := (h2.sw.strikes.filter fun x => h2.tb.now < x.2 + secT) ++ [(k, h2.tb.now)]
    let h3 := { h2 with sw.strikes := l }
    let n := (l.filter fun x => x.1 == k).length
    if max 1 (h3.rd Reg.SWC_RSQCFG_STRIKES) ≤ n then h3.planeStrikes (q / 8) k n else h3
  | _, _ => h

def execCellLostTimeout (fid : Nat) (q : Fin 80) (cell : Nat) (s : State) : Host.Outcome State Fault Refusal :=
  onH (fun h => h.cellLost fid q cell) s

/-- RSQ's decision KEEP (Table 6.6): the plane stays in service, and its strike count is reset. -/
def HDie.keepPlane (h : HDie) (k : Nat) : HDie := { h with sw.strikes := h.sw.strikes.filter fun x => x.1 != k }

/-- PLANE_RETIRE_DRAINED (R169): the plane's bit in RETIRED, the event and the fault. -/
def HDie.planeDrained (h : HDie) (k : Nat) : HDie :=
  if !h.sw.retiring.contains k then h
  else
    let h1 := { h with sw.retiring := h.sw.retiring.filter fun x => x != k }
    ((h1.wr Reg.SWC_PLANE_RETIRED (h1.rd Reg.SWC_PLANE_RETIRED ||| 2 ^ k)).raise Reg.SWC_EVT_PLANE_RETIRED).fault 11 0x20 k

def execPlaneRetireDrained (plane : Fin 4) (s : State) : Host.Outcome State Fault Refusal := onH (fun h => h.planeDrained plane) s

/-- PLANE_ENABLE_WRITE (R169): a write that leaves no plane enabled is refused; a plane's EN going from 0 to 1 returns it to service. -/
def HDie.planeEnable (h : HDie) (v : Nat) : HDie :=
  if v % 16 == 0 then h.raise Reg.SWC_EVT_CFG_REFUSED
  else
    let old := h.rd Reg.SWC_PLANE_EN
    let back := (upto 4).filter fun k => !old.testBit k && v.testBit k
    let ret := back.foldl (fun r k => if r.testBit k then r - 2 ^ k else r) (h.rd Reg.SWC_PLANE_RETIRED)
    { (h.wr Reg.SWC_PLANE_EN v).wr Reg.SWC_PLANE_RETIRED ret with
      sw.retiring := h.sw.retiring.filter fun k => !back.contains k,
      sw.strikes := h.sw.strikes.filter fun x => !back.contains x.1 }

def execPlaneEnableWrite (v : Fin 16) (s : State) : Host.Outcome State Fault Refusal := onH (fun h => h.planeEnable v) s

/-- Planes in service (R171). -/
def HDie.planes (h : HDie) : Nat := h.inService.length

/-- RATE_MEASUREMENT (R171): the slowest plane's rate and the forwarding capacity; a rate below the floor starts the 1 ms. -/
def HDie.rateMeasured (h : HDie) (hs : Nat) : HDie :=
  let cap := h.planes * hs * 256 / 1000
  let h1 := (h.wr Reg.SWC_RATE_HS (min hs 0xFFFF)).wr Reg.SWC_RATE_CAP_GBPS (min cap 0xFFFF)
  if cap < h1.rd Reg.SWC_RATECFG_FLOOR then
    { h1 with sw.rateLow := some (h1.sw.rateLow.getD h1.tb.now) }
  else { h1 with sw.rateLow := none }

def execRateMeasurement (hs : Nat) (s : State) : Host.Outcome State Fault Refusal := onH (fun h => h.rateMeasured hs) s

/-- RATE_LOW_TIMEOUT (R171): the capacity has stayed below the floor for 1 ms. -/
def execRateLowTimeout (s : State) : Host.Outcome State Fault Refusal :=
  onH (fun h =>
    match h.sw.rateLow with
    | none => h
    | some t => ((h.advance (t + ofMs 1)).raise Reg.SWC_EVT_RATE_LOW).fault 11 0x21 (h.rd Reg.SWC_RATE_CAP_GBPS)) s

/-- What changes a reserve may turn its cells in use into pool cells, or back (R181, R187): the pool's depth rises from what it was. -/
def HDie.resized (h : HDie) (g : HDie → HDie) : HDie :=
  let u := h.poolUsed
  let h1 := g h
  (h1.rose 80 u h1.poolUsed).showBuf

/-- BUFFER_CONFIG_WRITE (R172): SWC_BUFCFG, or SWC_QCFG_q; one that would leave fewer than 4,096 pool cells leaves the register unchanged. -/
def HDie.bufferCfg (h : HDie) (q : Option Nat) (v : Nat) : HDie :=
  match q with
  | none =>
    let r := v % 4096
    if 32768 < h.minSum + r + 3 * h.sw.rsv + 4096 then h.raise Reg.SWC_EVT_CFG_REFUSED
    else h.resized fun g => g.wr Reg.SWC_BUFCFG_RSP_RSV r
  | some k =>
    let m := v % 4096
    if 32768 < h.minSum - h.rd (Reg.SWC_QCFG_MIN k) + m + h.rd Reg.SWC_BUFCFG_RSP_RSV + 3 * h.sw.rsv + 4096 then
      h.raise Reg.SWC_EVT_CFG_REFUSED
    else
      (((h.wr (Reg.SWC_QCFG_MIN k) m).wr (Reg.SWC_QCFG_WEIGHT k) (fieldOf v 12 4)).wr (Reg.SWC_QCFG_MAX k) (fieldOf v 16 16)).showBuf

def execBufferConfigWrite (q : Option (Fin 80)) (v : Word) (s : State) : Host.Outcome State Fault Refusal :=
  onH (fun h => h.bufferCfg (q.map fun x => x.val) v.toNat) s

/-- The residue of a stored frame (R176): its queued copies other than a sourced frame's two ring copies. -/
def HDie.residue (h : HDie) (s : Stored) : List Copy :=
  h.sw.copies.filter fun c => c.fid == s.fid && !c.leaving && !(s.own && c.q < 16)

/-- Drop residue copies, counted in SWC_QRESID_q (R176). -/
def dropResidue : List Copy → HDie → HDie
  | [], h => h
  | c :: cs, h => dropResidue cs ((h.bump (Reg.SWC_QRESID_COUNT c.q)).dropCopy c.fid c.q)

/-- DETAIL0 of an MCR request (Table 17.1). -/
def mcrDetail (cs : List Copy) (d : Hdr) : Nat :=
  let mask := cs.foldl (fun m c => m ||| 2 ^ (c.q / 8)) 0
  mask + hSrc d * 2 ^ 10 + hStream d * 2 ^ 17 + hSeq d * 2 ^ 29

/-- When the residue of a frame is due (R176, Table 6.6): TMO_US after its first copy began to leave, longer by an extension; for a CYCLIC frame its deadline D_N. -/
def HDie.residueAt (h : HDie) (s : Stored) : Option Nat :=
  let more := ((h.residue s).map (·.extra)).foldl max 0
  let base := if hType s.frame.hdr == 4 then s.due else s.left.map fun t => t + ofUs (max 1 (h.rd Reg.SWC_MCRCFG_TMO_US))
  base.map (· + ofUs more)

/-- RESIDUE_TIMEOUT (R176, Table 6.6): the residue of a multicast frame is due. -/
def HDie.residueDue (h0 : HDie) (fid : Nat) : HDie :=
  match h0.getStored fid with
  | none => h0
  | some s =>
    let cs := h0.residue s
    let h := h0.advance ((h0.residueAt s).getD 0)
    if s.left.isNone || cs.isEmpty || (h0.residueAt s).isNone then h0
    else if h.modeOf 1 == 0 || cs.any (fun c => c.extra != 0) then dropResidue cs h
    else if h.spl.reqs.any fun r => r.func == 1 && r.ctx == fid then h
    else if h.mayAsk 1 then h.ask 1 (mcrDetail cs s.frame.hdr) (hTc s.frame.hdr) fid
    else dropResidue cs (h.bump (Reg.SPL_FCNT_DEFAULTED 1))

def execResidueTimeout (fid : Nat) (s : State) : Host.Outcome State Fault Refusal := onH (fun h => h.residueDue fid) s

/-- MCR's outcome on a frame: drop its residue. -/
def HDie.mcrDrop (h : HDie) (fid : Nat) : HDie :=
  match h.getStored fid with
  | none => h
  | some s => dropResidue (h.residue s) h

/-- MCR's decision EXTEND, once, up to TMO_US (Table 6.6). -/
def HDie.mcrExtend (h : HDie) (fid us : Nat) : HDie :=
  let e := max 1 (min us (max 1 (h.rd Reg.SWC_MCRCFG_TMO_US)))
  { h with sw.copies := h.sw.copies.map fun (c : Copy) => if c.fid == fid && !c.leaving then { c with extra := e } else c }

/-- The queues of port p are CLOSED and flushed (Table 6.3). -/
def HDie.closePort (h : HDie) (p : Nat) : HDie :=
  if h.portState p == 1 then
    { (h.setPortState p 2).flushPort p with sw.holds := adel h.sw.holds p, sw.holdExt := adel h.sw.holdExt p }
  else h

/-- Residue copies whose time comes in the same instant are dropped first, as residue (R180, Table 6.8). -/
def residueFirst (p : Nat) : List Stored → HDie → HDie
  | [], h => h
  | s :: ss, h =>
    residueFirst p ss
      (if (h.residueAt s).any (fun t => decide (t ≤ h.tb.now)) && (h.residue s).any (fun c => c.q / 8 == p) then h.residueDue s.fid else h)

/-- HOLD_TIMER_EXPIRY (R179): HELD to CLOSED, every queued frame flushed. A port that has returned is not flushed. -/
def HDie.holdOver_ (h : HDie) (p : Nat) : HDie :=
  if h.portState p == 1 then
    let h1 := h.advance (aget h.sw.holds p 0 + ofUs (h.holdUs p))
    (residueFirst p h1.sw.stored h1).closePort p
  else h

def execHoldTimerExpiry (p : Fin 10) (s : State) : Host.Outcome State Fault Refusal := onH (fun h => h.holdOver_ p) s

/-- A hold whose time has passed ends at once. -/
def HDie.holdCheck (h : HDie) (p : Nat) : HDie :=
  if h.portState p == 1 && aget h.sw.holds p 0 + ofUs (h.holdUs p) ≤ h.tb.now then h.closePort p else h

/-- HOLD_TIME_WRITE (R180): applies at once, measured from the start of the hold. -/
def HDie.holdWrite (h : HDie) (p v : Nat) : HDie :=
  ({ h.wr (Reg.SWC_HOLD_US p) (v % 2 ^ 20) with sw.holdExt := adel h.sw.holdExt p }).holdCheck p

def execHoldTimeWrite (p : Fin 10) (v : Word) (s : State) : Host.Outcome State Fault Refusal := onH (fun h => h.holdWrite p v.toNat) s

/-- HLD's decision EXTEND (Tables 6.6 and 17.1): the present hold lasts ARG µs, at most 1 s; SWC_HOLD_p stays (log 23). -/
def HDie.hldExtend (h : HDie) (p us : Nat) : HDie :=
  if h.portState p == 1 then ({ h with sw.holdExt := aput h.sw.holdExt p (min us 1000000) }).holdCheck p else h

/-- WATERMARK_HOLDOFF_EXPIRY (R182): a holdoff in which crossings occurred ends with one notice of them all and begins anew. -/
def HDie.holdoffEnd (h : HDie) (q : Nat) : HDie :=
  let w := h.wm q
  match w.hold with
  | none => h
  | some t =>
    let h1 := (h.advance t).setWm { w with hold := none }
    if w.xing = 0 then h1 else h1.notice q

def execWatermarkHoldoffExpiry (q : Fin 81) (s : State) : Host.Outcome State Fault Refusal := onH (fun h => h.holdoffEnd q) s

end Sys2Proof.Machine
end

