-- ==== Sys2Proof/Machine/Plan.lean ====
section
/-! DEFINITION. Cyclic admission and the launch of images (R183 to R187, R26): the plan's CRC and checks, its activation, and a hub's
burst. -/
namespace Sys2Proof.Machine

/-- The staging registers as a plan (R184). -/
def HDie.staged (h : HDie) : Plan :=
  { m := h.rd Reg.SWC_PLANCFG_M, k := h.rd Reg.SWC_PLANCFG_K, ofs := h.rd Reg.SWC_PLANOFS_NS, crc := h.rd Reg.SWC_PLANCRC_CRC,
    act := h.rd Reg.SWC_PLANACT_CYCLE, fast := true,
    ins := (upto 120).map fun i => h.rd (Reg.SWC_PLANI_IN_LEN i),
    outs := (upto 120).map fun i => (h.rd (Reg.SWC_PLANO_OUT_LEN i), h.rd (Reg.SWC_PLANO_OUT_SRC i)) }

/-- The CRC-32C of a plan: PLANCFG, PLANOFS, then PLANI_h and PLANO_h of each hub, each most significant byte first (R184). -/
def planCrc (p : Plan) : Nat :=
  crc32c (beBytes 4 (p.m + p.k * 256) ++ beBytes 4 p.ofs
    ++ (upto 120).flatMap fun i =>
      let o := p.outs.getD i (0, 0)
      beBytes 4 (p.ins.getD i 0) ++ beBytes 4 (o.1 + o.2 * 2 ^ 16))

/-- Wire time of one image in ns at R Gb/s; an empty image takes none (R185). -/
def imageNs (r l : Nat) : Nat := if l = 0 then 0 else ceilDiv ((l + 52) * 8) r

/-- The slot T_h (R185). -/
def slotNs (p : Plan) (r i : Nat) : Nat :=
  imageNs r (p.ins.getD i 0) + ((p.outs.filter fun o => o.2 == i).map fun o => imageNs r o.1).sum

/-- The load: the sum of IN_LEN over all hubs. -/
def planLoad (p : Plan) : Nat := p.ins.sum

/-- RSV (R187). -/
def planRsv (p : Plan) : Nat :=
  let one := fun (l : Nat) => if l = 0 then 0 else ceilDiv (l + 44) 256
  (p.ins.map one).sum + (p.outs.map fun o => one o.1).sum

/-- The span (R185), with P the per-hop allowance. -/
def planSpan (p : Plan) (r hop : Nat) : Nat := p.ofs + ((upto p.m).map (slotNs p r)).sum + (p.m - 1) * hop

/-- SHAPE fails (R185, code 2). -/
def badShape (p : Plan) : Bool :=
  p.m == 0 || 120 < p.m || p.ins.any (fun l => 4096 < l) || p.outs.any (fun o => 4096 < o.1)
    || (p.ins.drop p.m).any (fun l => l != 0) || (p.outs.drop p.m).any (fun o => o.1 != 0)
    || p.outs.any (fun o => o.1 != 0 && p.m ≤ o.2)

/-- The port payload rate of the ring as RED shows it (R185): 20 when any ring port is at fallback rate. -/
def HDie.ringRate (h : HDie) : Nat := if h.presentPaths.any (fun p => p.fb) then 20 else 50

/-- What a run of the checks found: the refusal code, 0 none, and the load, budget, span and RSV reached (R185). -/
structure CyaResult where
  code   : Nat
  load   : Nat
  budget : Nat
  span   : Nat
  rsv    : Nat

/-- Checks 1 to 6 in order (R185). -/
def HDie.cyaCheck (h : HDie) (p : Plan) : CyaResult :=
  let r := h.ringRate
  let c := h.rd Reg.TIM_CYCLE_NS
  let timed := h.on Reg.TIM_CYCLE_EN
  let load := planLoad p
  let budget := r * c / 10
  let span := planSpan p r h.hopNs
  let rsv := planRsv p
  let ahead := (p.act + 2 ^ 32 - h.rd Reg.TIM_CYCNUM_N) % 2 ^ 32
  if planCrc p != p.crc then ⟨1, 0, 0, 0, 0⟩
  else if badShape p then ⟨2, 0, 0, 0, 0⟩
  else if timed && budget < load then ⟨3, load, budget, 0, 0⟩
  else if timed && (p.k + 1) * c < span then ⟨4, load, budget, span, 0⟩
  else
    let res := fun (code : Nat) => if timed then CyaResult.mk code load budget span rsv else CyaResult.mk code 0 0 0 rsv
    if 32768 < 3 * rsv + h.minSum + h.rd Reg.SWC_BUFCFG_RSP_RSV + 4096 then res 5
    else if !timed || ahead < 2 || 2 ^ 31 ≤ ahead then res 6
    else res 0

/-- PLAN_ADMIT (R184): a copy of the staging registers is checked; ignored while a check runs. -/
def HDie.planAdmit (h : HDie) : HDie :=
  if h.rd Reg.SWC_CYASTAT_STATE == 1 then h
  else { h.wr Reg.SWC_CYASTAT_STATE 1 with sw.checking := some h.staged }

def execPlanAdmit (s : State) : Host.Outcome State Fault Refusal := onH (fun h => h.planAdmit) s

/-- The plan is refused with a code (R185): what is in force and what awaits its cycle stay. -/
def HDie.cyaRefuse (h : HDie) (code : Nat) : HDie :=
  let st := if h.sw.admitted.isSome then 2 else if h.sw.inForce.isSome then 3 else 0
  { ((h.wr Reg.SWC_CYASTAT_STATE st).wr Reg.SWC_CYASTAT_REFUSE code).raise Reg.SWC_EVT_CYA_REFUSED with sw.checking := none }

/-- The plan is admitted (R185): it replaces one that still awaits its cycle. -/
def HDie.cyaAdmit (h : HDie) : HDie :=
  match h.sw.checking with
  | none => h
  | some p =>
    { (h.wr Reg.SWC_CYASTAT_STATE 2).wr Reg.SWC_CYASTAT_REFUSE 0 with
      sw.checking := none, sw.admitted := some { p with fast := h.ringRate == 50 } }

/-- CYA_CHECK_DONE (R185, Table 6.6): the checks end; in an HA mode the function decides on a plan that passed checks 1 to 6. -/
def HDie.cyaDone (h : HDie) : HDie :=
  match h.sw.checking with
  | none => h
  | some p =>
    if h.spl.reqs.any fun r => r.func == 15 then h
    else
      let r := h.cyaCheck p
      let h1 := (((h.wr Reg.SWC_CYALOAD_BYTES r.load).wr Reg.SWC_CYABUDGET_BYTES r.budget).wr Reg.SWC_CYASPAN_NS r.span).wr
        Reg.SWC_CYCRSV_RSV r.rsv
      if r.code != 0 then h1.cyaRefuse r.code
      else if h1.modeOf 15 == 0 then h1.cyaAdmit
      else if h1.mayAsk 15 then h1.ask 15 (r.load + r.span * 2 ^ 20) p.crc 0
      else (h1.bump (Reg.SPL_FCNT_DEFAULTED 15)).cyaAdmit

def execCyaCheckDone (s : State) : Host.Outcome State Fault Refusal := onH (fun h => h.cyaDone) s

/-! ### The plan in force -/

/-- The hub's launch offset (R186). -/
def launchNs (p : Plan) (self : Nat) : Nat :=
  p.ofs + ((upto self).map (slotNs p (if p.fast then 50 else 20))).sum

/-- SWC_LAUNCH shows the hub's own launch offset under the plan in force (R186): of a hub within the plan. -/
def HDie.showLaunch (h : HDie) : HDie :=
  match h.sw.inForce with
  | none => h
  | some p => h.wr Reg.SWC_LAUNCH_NS (if h.self < p.m then launchNs p h.self else 0)

/-- PLAN_ACTIVATION (R185, R187): the admitted plan is loaded at the start of its activation cycle; its images are launched from this cycle on. -/
def HDie.activate (h : HDie) (n : Nat) : HDie :=
  match h.sw.admitted with
  | none => h
  | some p =>
    if n % 2 ^ 32 != p.act && !newer (n % 2 ^ 32) p.act then h
    else
      let h1 := (upto 120).foldl (fun g i =>
        let o := p.outs.getD i (0, 0)
        ((g.wr (Reg.SWC_APLANI_IN_LEN i) (p.ins.getD i 0)).wr (Reg.SWC_APLANO_OUT_LEN i) o.1).wr (Reg.SWC_APLANO_OUT_SRC i) o.2) h
      let h2 := (h1.wr Reg.SWC_APLANCRC_CRC p.crc).raise Reg.SWC_EVT_PLAN_ACTIVE
      let h3 := if h2.rd Reg.SWC_CYASTAT_STATE == 1 then h2 else h2.wr Reg.SWC_CYASTAT_STATE 3
      (h3.resized fun g =>
        { g with sw.admitted := none, sw.inForce := some p, sw.lastIn := [], sw.rsv := planRsv p, sw.burst := n }).showLaunch

/-- The payload of a CYCLIC frame (Table 6.5). -/
def cyclicPayload (kind crc : Nat) (image : List Byte) : List Byte :=
  beBytes 4 (kind * 2 ^ 28 + image.length % 2 ^ 13) ++ beBytes 4 crc ++ beBytes 4 0 ++ beBytes 4 0 ++ image

/-- The output image of cycle n for a target hub: the slices last accepted by the output maps, 0 where none feeds it, and whether a slice is stale
(R79); that of a map which a PCIe reset removed among them, also where a new map feeds the same bytes (log 75). -/
def HDie.outputImage (h : HDie) (n target len : Nat) : List Byte × Bool :=
  let ms := h.hostq.maps.filter fun m => m.dir == 1 && m.hub == target && m.inForce n
  ((ms.foldl (fun b m => patch b m.off m.last) (List.replicate len 0)).take len, ms.any (fun m => m.stale))

/-- Source a CYCLIC frame (R186): the first of a burst has the burst's launch time, the others follow it back to back. `jump`: a change of time passed the launch
time, so that it leaves at once, and each port copy is counted in TIM_LAUNCHJMP (R241). -/
def HDie.sendImage (h : HDie) (inp stream dst : Nat) (stale : Bool) (n : Nat) (payload : List Byte) (at_ : Option Nat) (jump : Bool) : HDie :=
  let r := h.source inp 4 6 stream dst 0 stale n h.hubNum payload (if jump then none else at_) h.tb.now []
  if jump && r.2.1 then r.1.bump Reg.TIM_LAUNCHJMP_COUNT (b2n (h.active 0) + b2n (h.active 1)) else r.1

/-- Send the output images that this hub sources, in increasing target number; its own goes to its field die (R186). -/
def sendOutputs (p : Plan) (n : Nat) (jump : Bool) : Option Nat → List (Nat × Nat × Nat) → HDie → HDie
  | _, [], h => h
  | at_, (t, len, src) :: r, h =>
    if src != h.hubNum || len = 0 then sendOutputs p n jump at_ r h
    else
      let im := h.outputImage n t len
      if t == h.hubNum then sendOutputs p n jump none r (h.imageToField n im.1)
      else sendOutputs p n jump none r (h.sendImage 6 0xFC1 t im.2 n (cyclicPayload 2 p.crc im.1) at_ jump)

/-- The input image to be sent for cycle n, and whether it is stale (R26): this cycle's if it has fully crossed, else the last complete one. -/
def HDie.inputImage (h : HDie) (n : Nat) : Option (List Byte × Bool) :=
  match h.sw.lastIn.find? fun x => x.1 % 4096 == n % 4096 with
  | some x => some (x.2, false)
  | none => h.sw.lastIn.head?.map fun x => (x.2, true)

/-- What is kept of the crossed input images once cycle n is launched: the last complete one, and those of later cycles, which a capture lead above the cycle time
brings ahead of their launch (R26, R270). -/
def imagesKept (n : Nat) : List (Nat × List Byte) → List (Nat × List Byte)
  | [] => []
  | x :: xs => x :: xs.filter fun y => y.1 % 4096 != n % 4096 && (y.1 % 4096 + 4096 - n % 4096) % 4096 < 2048

/-- The launch time of the burst of cycle n, a full number (R186). -/
def HDie.burstAt (h : HDie) (n : Nat) : Nat := h.epoch + n * ofNs (h.rd Reg.TIM_CYCLE_NS) + ofNs (h.rd Reg.SWC_LAUNCH_NS)

/-- The images of cycle n are launched (R26, R186): the input image, or none counted; then the output images. A hub outside the plan sources nothing. The
hub's own host receives its own input image too (R78). `jump`: a change of time passed the launch time (R241). -/
def HDie.launchBurst (h : HDie) (n : Nat) (jump : Bool) : HDie :=
  match h.sw.inForce with
  | none => h
  | some p =>
    if !h.numbered || p.m ≤ h.hubNum || !h.on Reg.TIM_CYCLE_EN then h
    else
      let t := some (h.burstAt n)
      let len := p.ins.getD h.hubNum 0
      let h0 := { h with sw.burst := n + 1, sw.lastIn := imagesKept n h.sw.lastIn }
      let h1 :=
        if len = 0 then h0
        else
          match h.inputImage n with
          | none =>
            let g := h0.bump Reg.SWC_INSTALE_NONE
            if g.hostAttached then g.imageToMaps g.hubNum n none false else g
          | some (im, stale) =>
            let g := if stale then h0.bump Reg.SWC_INSTALE_STALE else h0
            let g1 := g.sendImage 7 0xFC0 127 stale n (cyclicPayload 1 p.crc im) t jump
            if g1.hostAttached then g1.imageToMaps g1.hubNum n (some im) stale else g1
      sendOutputs p n jump (if len = 0 || (h.inputImage n).isNone then t else none) ((indexed p.outs).map fun x => (x.1, x.2.1, x.2.2))
        (h1.lateSlices p (n % 2 ^ 32))

/-- Launch the bursts of cycles whose launch time a change of time passed (R235, R241). -/
def launchPassed (since : Nat) : List Nat → HDie → HDie
  | [], h => h
  | n :: ns, h =>
    launchPassed since ns
      (if h.sw.inForce.isSome && h.sw.burst ≤ n && since < h.burstAt n && h.burstAt n ≤ h.tb.now then h.launchBurst n true else h)

/-- The cycle whose burst comes next: the first not yet launched whose launch time has not passed, or else the running one (R186). -/
def HDie.burstDue (h : HDie) (running : Nat) : Nat :=
  let c := ofNs (h.rd Reg.TIM_CYCLE_NS)
  let e := h.burstAt 0
  max h.sw.burst (min running (if h.tb.now ≤ e then 0 else if c = 0 then 0 else ceilDiv (h.tb.now - e) c))

/-- CYCLIC_LAUNCH (R26, R186): the hub's launch offset in a cycle is reached; each cycle's images are launched once. A cycle that was taken as already
running acts on nothing (R234). -/
def HDie.cyclicLaunch (h : HDie) : HDie :=
  match h.tb.running with
  | none => h
  | some r =>
    let n := h.burstDue r
    if r < n || h.sw.inForce.isNone then h else (h.advance (h.burstAt n)).launchBurst n false

def execCyclicLaunch (s : State) : Host.Outcome State Fault Refusal := onH (fun h => h.cyclicLaunch) s

end Sys2Proof.Machine
end

