-- ==== Sys2Proof/Machine/BridgeOps.lean ====
section
/-! DEFINITION. The ring bridge's own side (chapter 8): ring addresses (R35), the outcomes of an access (R204), REQUEST and RESPONSE frames (R211,
R212), non-posted accesses and their ends (R206, R214, R215), posted writes and their settlement (R217 to R220). -/
namespace Sys2Proof.Machine

/-! ### Addresses and outcomes -/

/-- HUB of a ring address. -/
def raHub (a : Nat) : Nat := fieldOf a 37 7
/-- ENDPOINT of a ring address. -/
def raEp (a : Nat) : Nat := fieldOf a 27 10
/-- OFFSET of a ring address. -/
def raOff (a : Nat) : Nat := fieldOf a 0 27

/-- The outcome of an access: a ring status 0x0 to 0x8 of Table 8.3, or 16 refused under R36 or R52, 17 the originator's
deadline, 18 no path for a posted write that is resent. -/
abbrev End := Nat

/-- The completion status of an outcome (Table 8.3, Table 3.10). -/
def endStatus (e : End) : Nat :=
  match e with
  | 0 => 0
  | 1 => 9
  | 2 => 5
  | 3 => 6
  | 8 => 7
  | 16 => 4
  | 17 => 7
  | 18 => 6
  | _ => 8

/-- The fault kind of an outcome (Table 8.3, Table 16.4). -/
def endKind (e : End) : Nat :=
  match e with
  | 1 => 6
  | 2 => 2
  | 3 => 3
  | 8 => 5
  | 16 => 1
  | 17 => 5
  | 18 => 3
  | _ => 4

/-- The ring status that a fault shows; an outcome without one shows 0 (log 34). -/
def endRing (e : End) : Nat := if e < 16 then e else if e = 18 then 3 else 0

/-- A non-posted access of this kind came through BAR4. -/
def isBar4 (kind : Nat) : Bool := kind == 1 || kind == 4

/-- The access type of a request (Table 8.2): BAR4 reads and writes for master 0x40. -/
def accessCode (kind op : Nat) (bcast : Bool) : Nat :=
  if bcast then 7
  else if isBar4 kind then (if op = 1 then 2 else 3)
  else if op = 1 then 4 else if op = 2 then 5 else 6

/-! ### Frames -/

/-- The payload of a REQUEST (Table 8.5). -/
def requestPayload (op master len off try_ rnum : Nat) (data : List Byte) : List Byte :=
  beBytes 4 (op * 2 ^ 28 + master * 2 ^ 20 + len) ++ beBytes 4 off ++ beBytes 4 (min try_ 15 * 2 ^ 16 + rnum % 2 ^ 16) ++ beBytes 4 0 ++ data

/-- The payload of a RESPONSE (Table 8.6). -/
def responsePayload (op master status rnum : Nat) (data : List Byte) : List Byte :=
  beBytes 4 (op * 2 ^ 28 + master * 2 ^ 20 + status * 2 ^ 16 + data.length) ++ beBytes 4 (rnum % 2 ^ 16) ++ beBytes 4 0 ++ beBytes 4 0 ++ data

/-- Send a REQUEST frame on stream 0xFC4 (R211), and the stored frame that holds it. -/
def HDie.requestFrame (h : HDie) (hub ep : Nat) (payload : List Byte) : HDie × Option Nat :=
  let r := h.source 6 2 5 0xFC4 hub ep false 0 h.hubNum payload none h.tb.now []
  (r.1, r.2.2)

/-- Send a REQUEST frame on stream 0xFC4 (R211). -/
def HDie.sendRequest (h : HDie) (hub ep : Nat) (payload : List Byte) : HDie := (h.requestFrame hub ep payload).1

/-- The REMOTE_WRITE `ser` of a queue completes once its frame has left on each port that is up, at once where no queue took it (R69, R74). Other masters
have no descriptor. -/
def HDie.departing (h : HDie) (master ser : Nat) (fid : Option Nat) : HDie :=
  if 64 ≤ master then h
  else
    match fid with
    | some k => { h with hostq.departs := h.hostq.departs ++ [{ fid := k, q := master, ser := ser }] }
    | none => h.finish master ser 0 0

/-- Send a RESPONSE frame on stream 0xFC5 (R212): only a read that was performed carries data. An unnumbered hub answers too, under its number 0x7F (R38,
R39). -/
def HDie.respond (h : HDie) (src op master status rnum : Nat) (data : List Byte) : HDie :=
  (h.source 8 3 4 0xFC5 src 0 false 0 h.self (responsePayload op master status rnum (if status = 0 && op == 1 then data else [])) none h.tb.now []).1

/-- The next RNUM of a master towards a hub, and the die with it counted (R213). -/
def HDie.takeRnum (h : HDie) (master hub : Nat) : Nat × HDie :=
  let k := master * 128 + hub
  let n := aget h.brg.rnums k 0
  (n, { h with brg.rnums := aput h.brg.rnums k ((n + 1) % 2 ^ 16) })

/-- BRG_NPOUT, BRG_PWOUT and PW_FULL show what is outstanding (R217, R228). -/
def HDie.showBrg (h : HDie) : HDie :=
  ((h.wr Reg.BRG_NPOUT_COUNT h.brg.nps.length).wr Reg.BRG_PWOUT_COUNT h.brg.posted.length).wr Reg.BRG_STATUS_PW_FULL
    (b2n (decide (512 ≤ h.brg.posted.length)))

/-- BRG_STATUS.ORD_FULL (R228). -/
def HDie.showOrd (h : HDie) : HDie := h.wr Reg.BRG_STATUS_ORD_FULL (b2n (decide (512 ≤ h.brg.orders.length)))

/-! ### Ends of non-posted accesses -/

/-- Reverse the byte order within each group of four (R210). -/
def swapGroups : List Byte → List Byte
  | a :: b :: c :: d :: r => d :: c :: b :: a :: swapGroups r
  | l => l

/-- A BAR read's completion reaches the host (R206). -/
def HDie.hostRead (h : HDie) (a : HostRd) : HDie := { h with brg.reads := h.brg.reads ++ [a] }

/-- BAR4 reads complete in order of arrival (R206): those at the front that have ended return. -/
def flushBar4 : Nat → HDie → HDie
  | 0, h => h
  | n + 1, h =>
    match h.brg.nps.find? fun r => r.kind == 1 && r.op == 1 with
    | none => h
    | some r =>
      if r.phase != 2 then h
      else
        let g := { h with brg.nps := dropFirst (fun x => x.ser == r.ser) h.brg.nps }
        flushBar4 n (g.hostRead { bar := 4, addr := r.raddr, data := r.data, ur := r.ur })

/-- A BAR4 read has its data, or is refused (R206, R209). -/
def HDie.bar4Done (h : HDie) (ser : Nat) (bs : List Byte) (ur : Bool) : HDie :=
  (flushBar4 h.brg.nps.length
    { h with brg.nps := h.brg.nps.map fun (x : NpReq) => if x.ser == ser then { x with phase := 2, data := bs, ur := ur } else x }).showBrg

/-- The data of a read reaches its descriptor: in the completion with INLINE, else in host memory (R72, R84); a failed read returns all ones. Where the write
to host memory fails, the completion carries DMA_ERROR, or the status of the failed access (Table 3.10; log 149). -/
def HDie.readDone (h : HDie) (q ser : Nat) (e : End) (data : List Byte) : HDie :=
  match (h.sq q).started.find? fun s => s.ser == ser with
  | none => h
  | some s =>
    let len := s.desc.d1.fld 0 9
    let bs := if e = 0 then slice data 0 len else allOnes len
    if dInline s.desc then h.finish q ser (endStatus e) (leNat bs)
    else if !s.dmaOk then h.finish q ser (if e = 0 then 3 else endStatus e) 0
    else (h.dma (two s.desc.d4 s.desc.d5) bs).finish q ser (endStatus e) 0

/-- A non-posted access of this hub ends (R204): its fault, and what its origin receives. -/
def HDie.endNp (h : HDie) (r : NpReq) (e : End) (data : List Byte) : HDie :=
  let h1 := if e = 0 then h
    else h.bridgeFault (endKind e) r.master (accessCode r.kind r.op false) r.raddr (endRing e) r.hub r.rnum h.tb.now
  let bs := if e = 0 then slice data 0 r.len else allOnes r.len
  let h2 :=
    match r.kind with
    | 0 =>
      let g := { h1 with brg.nps := h1.brg.nps.filter fun x => x.ser != r.ser }
      if r.op = 1 then g.readDone r.q r.ser e data else g.finish r.q r.ser (endStatus e) 0
    | 1 =>
      if r.op = 1 then h1.bar4Done r.ser (if r.swap then swapGroups bs else bs) false
      else { h1 with brg.nps := h1.brg.nps.filter fun x => x.ser != r.ser }
    | k =>
      let g := { h1 with brg.nps := h1.brg.nps.filter fun x => x.ser != r.ser }
      if r.op = 1 && k == 2 then { g with brg.coreRd := g.brg.coreRd ++ [({ bar := 8, addr := r.raddr, data := bs, ur := false } : HostRd)] } else g
  h2.showBrg

/-- The outstanding request that a response names. -/
def HDie.findNp (h : HDie) (hub master rnum : Nat) : Option NpReq :=
  h.brg.nps.find? fun r => r.hub == hub && r.master == master && r.rnum == rnum && r.phase < 2

/-- The exchange slot of hub X is occupied (R215). -/
def HDie.slotTaken (h : HDie) (hub : Nat) : Bool := h.brg.nps.any fun r => r.hub == hub && r.phase == 0

/-! ### Posted writes -/

/-- RNUM `a` is at or before `b`. -/
def rnumLe (a b : Nat) : Bool := (b + 65536 - a) % 65536 < 32768

/-- The context that names a posted write to the split: hub, master, RNUM and the outcome. -/
def pwKey (hub master rnum e : Nat) : Nat := hub + 2 ^ 7 * master + 2 ^ 15 * rnum + 2 ^ 31 * e

/-- A failed posted write is reported (R219): a PWE fault with its send time, a PWE event, its counts, and its failure for a FENCE. -/
def HDie.reportPw (h : HDie) (w : PostedW) (e : End) : HDie :=
  let h1 := h.bridgeFault 8 w.master (accessCode (if w.master = 0x40 then 1 else 0) 2 false) w.raddr (endRing e)
    (if w.hub = 128 then h.self else w.hub) (if w.hub = 128 then 0 else w.rnum) w.time
  let h2 := if h1.hostAttached then
      h1.post { kind := 3, func := 0, ha := false, origin := w.master, count := 1, cookie := 0, time := w.time, detail0 := w.raddr,
                detail1 := w.master + endStatus e * 256 }
    else h1
  if w.master < 64 then
    let h3 := (h2.bump (Reg.PCI_SQPWERR_COUNT w.master)).bump Reg.BRG_PWFAIL_COUNT
    { h3 with brg.fails := h3.brg.fails ++ [{ ser := w.orig, master := w.master }] }
  else h2.bump Reg.BRG_PWFAIL_COUNT

/-- PWE is asked about a posted write. -/
def HDie.pwAsked (h : HDie) (w : PostedW) : Bool :=
  h.spl.reqs.any fun r => r.func == 13 && r.ctx % 2 ^ 31 == pwKey w.hub w.master w.rnum 0

/-- What the entries of received ACKs settle (R218): an entry's writes, once as many reports among them are held as it names failures; those that
PWE is asked about wait for its decision. -/
def settleEntries : List AckDue → HDie → HDie
  | [], h => h
  | a :: as_, h =>
    let mine := fun (hub master rnum : Nat) => hub == a.src && master == a.master && rnumLe rnum a.rnum
    let held := (h.brg.reports.filter fun r => mine r.hub r.master r.rnum).length
    if held < a.fails && h.brg.posted.any (fun (w : PostedW) => mine w.hub w.master w.rnum) then settleEntries as_ { h with brg.ackIn := h.brg.ackIn ++ [a] }
    else
      settleEntries as_
        { h with brg.posted := h.brg.posted.filter fun (w : PostedW) => !mine w.hub w.master w.rnum || h.pwAsked w,
                 brg.reports := h.brg.reports.filter fun (r : PwReport) => !mine r.hub r.master r.rnum }

/-- Look again at every entry that still waits, and at the fences. -/
def HDie.settlePw (h : HDie) : HDie := ((settleEntries h.brg.ackIn { h with brg.ackIn := [] }).showBrg).fences

/-- A posted write fails (R219, R220): PWE decides, in HW as REPORT. A write that was already resent is reported. -/
def HDie.failPw (h : HDie) (w : PostedW) (e : End) : HDie :=
  if w.resent || h.modeOf 13 == 0 then h.reportPw w e
  else if h.mayAsk 13 then h.ask 13 w.raddr (w.master + endStatus e * 256) (pwKey w.hub w.master w.rnum e)
  else (h.bump (Reg.SPL_FCNT_DEFAULTED 13)).reportPw w e

/-- Take a posted write out of the store. -/
def HDie.dropPw (h : HDie) (w : PostedW) : HDie :=
  { h with brg.posted := h.brg.posted.filter fun (x : PostedW) => !(x.hub == w.hub && x.master == w.master && x.rnum == w.rnum) }

/-- The posted write that hub, master and RNUM name. -/
def HDie.findPw (h : HDie) (hub master rnum : Nat) : Option PostedW :=
  h.brg.posted.find? fun w => w.hub == hub && w.master == master && w.rnum == rnum

/-- The place that a posted write takes in the store. -/
def HDie.pwSlot (h : HDie) : Nat := ((upto 512).find? fun k => !h.brg.posted.any fun w => w.slot == k).getD 0

/-- A posted write is stored in its place. -/
def HDie.pwStore (h : HDie) (slot : Nat) : HDie := h.writeWords 49 (pwWords * slot) pwWords

/-- A posted write is read from the store, to be sent again: the flag says that it cannot be (Table 15.2). -/
def HDie.pwLoad (h : HDie) (w : PostedW) : HDie × Bool := h.readWords w.master 0xE 49 (pwWords * w.slot) pwWords

/-- Send a posted write and keep it until it is settled (R213, R217). -/
def HDie.sendPw (h : HDie) (ser orig master raddr : Nat) (data : List Byte) (resent : Bool) : HDie × Option Nat :=
  let hub := raHub raddr
  let r := h.takeRnum master hub
  let w : PostedW := { ser := ser, master := master, hub := hub, rnum := r.1, raddr := raddr, data := data, time := r.2.tb.now, orig := orig,
                       resent := resent, wait := false, resends := 0, slot := r.2.pwSlot, fid := none }
  let g := { r.2.pwStore w.slot with brg.posted := r.2.brg.posted ++ [w] }
  let t := g.requestFrame hub (raEp raddr) (requestPayload 2 master data.length (raOff raddr) 0 r.1 data)
  let leaves := fun (x : PostedW) => if x.hub == hub && x.master == master && x.rnum == r.1 then { x with fid := t.2 } else x
  ({ t.1 with brg.posted := t.1.brg.posted.map leaves }.showBrg, t.2)

/-- PWE's decision on a posted write (R395): 1 REPORT, 2 RESEND, once, with a new RNUM. -/
def HDie.pwDecide (h : HDie) (ctx d : Nat) : HDie :=
  let e := ctx / 2 ^ 31
  match h.findPw (ctx % 2 ^ 7) (fieldOf ctx 7 8) (fieldOf ctx 15 16) with
  | none => h
  | some w =>
    let l := if d == 2 then h.pwLoad w else (h, false)
    let h1 := if l.2 then l.1.reportPw w 7
      else if d == 2 then (l.1.sendPw w.ser w.orig w.master w.raddr w.data true).1
      else h.reportPw w e
    let passed := decide (w.time + ofUs (max 1 (h.rd Reg.BRG_RCFG_PW_US)) ≤ h.tb.now)
    (if d == 2 || e == 17 || e == 18 || e == 1 || passed then h1.dropPw w else h1).settlePw

end Sys2Proof.Machine
end

