-- ==== Sys2Proof/Machine/FieldOps.lean ====
section
/-! DEFINITION. The named operations that commands of the field die share: its registers and counters, free values, fault messages (R373,
R387) and stream messages (R222, R223). -/
namespace Sys2Proof.Machine

/-- A field of an F-die register. -/
def FDie.rd (f : FDie) (F : Fld) : Nat := regGet f.regs F

/-- Set a field of an F-die register. -/
def FDie.wr (f : FDie) (F : Fld) (v : Nat) : FDie := { f with regs := regPut f.regs F v }

/-- Set a one-bit field. -/
def FDie.raise (f : FDie) (F : Fld) : FDie := f.wr F 1

/-- The variant lacks CAN_n (R3). -/
def FDie.lacksCan (f : FDie) (n : Nat) : Bool := Sys2Proof.Machine.lacksCan f.variant n

/-- The variant lacks cluster c (R3). -/
def FDie.lacksCluster (f : FDie) (c : Nat) : Bool := Sys2Proof.Machine.lacksCluster f.variant c

/-- The variant lacks the unit that spill FIFO q belongs to (R3). -/
def FDie.lacksFifo (f : FDie) (q : Nat) : Bool :=
  if q < 256 then f.lacksCluster (q % 128 / 8) else q < 288 && f.lacksCan ((q - 256) % 16)

/-- What runs on the field die (Table 13.1): 0 everything, 1 what STANDBY runs, 2 what SLEEP runs, which lasts until the microcode runs again (R322);
without FVSUP nothing does. -/
def FDie.power (f : FDie) : Nat :=
  if f.rd Reg.FGL_PWRSTAT_STATE == 2 || f.stage == 1 || f.stage == 2 || f.stage == 4 then 2 else if f.rd Reg.FGL_PWRSTAT_STATE == 1 then 1 else 0

/-- A request message and a WAKE message end STANDBY (R322). -/
def FDie.toRun (f : FDie) : FDie := if f.rd Reg.FGL_PWRSTAT_STATE == 1 then f.wr Reg.FGL_PWRSTAT_STATE 0 else f

/-- Count in a saturating counter (R56). -/
def FDie.bump (f : FDie) (F : Fld) (n : Nat := 1) : FDie := { f with regs := regBump f.regs F n }

/-- Whether a one-bit field is set. -/
def FDie.on (f : FDie) (F : Fld) : Bool := f.rd F != 0

/-- A value that the spec leaves open, and the state with the free-value counter advanced (log 5). -/
def FDie.openValue (f : FDie) : Nat × FDie := (Config.freeValue f.free, { f with free := f.free + 1 })

/-- The words F0 to F6 of a fault message (Table 16.3); `step` and `esc` are the collector's. -/
def faultWords (m : FaultMsg) (step : Nat) : List Nat :=
  [ m.source % 1024 + m.kind % 64 * 2 ^ 10 + m.master % 256 * 2 ^ 16 + m.access % 16 * 2 ^ 24 + b2n m.conseq * 2 ^ 28
      + b2n m.injected * 2 ^ 29 + b2n (step != 0) * 2 ^ 30 + b2n m.addrValid * 2 ^ 31,
    m.addr % 2 ^ 32, m.addr / 2 ^ 32 % 2 ^ 16 + step * 2 ^ 16, m.time % 2 ^ 32, m.time / 2 ^ 32 % 2 ^ 32, m.detail % 2 ^ 32,
    m.detail / 2 ^ 32 % 2 ^ 32, 0]

/-- The fault message that a FAULT barrier message carries (R373). REACT of an injected message travels in M0's position that Table 16.3 keeps
for the collector's ESCALATED bit (log 25). -/
def faultOf (b : BarMsg) : FaultMsg :=
  { source := b.m1.fld 0 10, kind := b.m1.fld 10 6, master := b.m1.fld 16 8, access := b.m1.fld 24 4, conseq := false,
    injected := b.m1.fld 29 1 == 1, react := b.m1.fld 29 1 == 0 || b.m1.fld 30 1 == 1, addrValid := b.m1.fld 31 1 == 1,
    addr := b.m2.toNat + b.m3.fld 0 16 * 2 ^ 32, time := b.m4.toNat + b.m5.toNat * 2 ^ 32, detail := b.m6.toNat + b.m7.toNat * 2 ^ 32 }

/-- A FAULT barrier message (R373). -/
def faultMsg (m : FaultMsg) : BarMsg :=
  let ws := faultWords m (b2n (m.injected && m.react))
  mkMsg 0x03 0 [ws.getD 0 0, ws.getD 1 0, ws.getD 2 0 % 2 ^ 16, ws.getD 3 0, ws.getD 4 0, ws.getD 5 0, ws.getD 6 0]

/-- An F-die detector reports a fault (R387): it crosses the barrier, or is kept, up to 16, while the link is lost. -/
def FDie.report (f : FDie) (m : FaultMsg) : FDie :=
  if f.linkUp then (f.toHost (faultMsg m)).bump Reg.FFL_SENT_COUNT
  else if f.held.length < 16 then { f.wr Reg.FFL_STAT_HELD (f.held.length + 1) with held := f.held ++ [m] }
  else f.bump Reg.FFL_HOLDDROP_COUNT

/-- A fault without an access, detected now. -/
def FDie.fault (f : FDie) (source kind detail : Nat) : FDie := f.report (plainFault source kind detail (timeWord f.tb.now))

/-- A condition of the field die goes out of range, which is reported, or returns (R374, R384). A die in SLEEP reports none (log 176). -/
def FDie.outOf (f : FDie) (src item kind detail : Nat) (out : Bool) : FDie :=
  let was := f.outs.contains (src, item)
  let rest := f.outs.filter fun x => !(x == (src, item))
  let f1 := { f with outs := if out then (src, item) :: rest else rest }
  if out && !was && (f.power != 2 || f.stage == 3) then f1.fault src kind detail else f1

/-- HELD_FAULT_SEND (R387): at link-up the messages kept are sent, each with its original time. -/
def FDie.sendHeld (f : FDie) : FDie :=
  let g := f.held.foldl (fun x m => (x.toHost (faultMsg m)).bump Reg.FFL_SENT_COUNT) f
  { g.wr Reg.FFL_STAT_HELD 0 with held := [] }

/-- A block of bytes as STREAM messages of stream `n`, the last with LAST where `last` (Table 8.10). -/
def streamMsgs (n : Nat) (last : Bool) : Nat → List Byte → List BarMsg
  | 0, _ => []
  | k + 1, bs =>
    let here := bs.take 24
    let rest := bs.drop 24
    let m := mkMsg 0x40 0 ((n + here.length * 2 ^ 9 + b2n (last && rest.isEmpty) * 2 ^ 31) :: msgWords here)
    if rest.isEmpty then [m] else m :: streamMsgs n last k rest

/-- A time in the format of R264: SEC[33:0] in [63:30], NS in [29:0]. -/
def stampOf (t : Nat) : Nat := 2 ^ 30 * (timeSec t % 2 ^ 34) + timeNs t

/-- The field time is moved forward to an instant that a command names; never backward (log 9). -/
def FDie.advance (f : FDie) (t : Nat) : FDie := { f with tb.now := max f.tb.now t }

end Sys2Proof.Machine
end

