-- ==== Sys2Proof/Machine/MemField.lean ====
section
/-! DEFINITION. Stored-data integrity on the field die (chapter 15): its memory instances, and the instruction memory's words. -/
namespace Sys2Proof.Machine

/-- A request of a function of the split (R394), or, as function 100, what MEM's common registers count of the field die (R370). -/
def FDie.want (f : FDie) (func d0 d1 ctx : Nat) : FDie :=
  { f with asks := f.asks ++ [{ func := func, detail0 := d0, detail1 := d1, ctx := ctx }] }

/-- The field die's instances at work, with its copy of MEM_CFG (log 61). -/
def FDie.mem (f : FDie) : Mem :=
  { master := 0xFF, regs := f.regs, ctxs := f.mems, now := f.tb.now, win := f.rd Reg.MEM_CFG_CE_WIN_MS, ces := 0, ues := 0, refused := false, faults := [], cands := [] }

/-- Report faults of memory instances on the field die. -/
def fieldReports : List MemFault → FDie → FDie
  | [], f => f
  | x :: xs, f => fieldReports xs ({ f with free := f.free + 1 }.report (memFaultMsg x (Config.freeValue f.free) (timeWord f.tb.now)))

/-- What the instances' work counts, reports and asks, on the field die. `full`: an instance has no entry free. -/
def FDie.memDone (f : FDie) (m : Mem) (full : Bool) : FDie :=
  let f1 := fieldReports m.faults { f with regs := m.regs, mems := m.ctxs }
  let f2 := if m.ces = 0 && m.ues = 0 && !m.refused && !full then f1 else f1.want 100 (m.ces + m.ues * 2 ^ 32) (b2n m.refused + b2n full * 2) 0
  m.cands.foldl (fun g c => g.want 14 (scbDetail c.inst c.addr c.cause) 0 (c.inst + c.addr * 256)) f2

/-- SCB decides on a candidate of the field die as in HW (Table 15.3): it is remapped. -/
def FDie.memRemap (f : FDie) (i a : Nat) : FDie :=
  let r := f.mem.remap i a
  f.memDone r.1 r.2

/-- The word of instruction memory that holds instruction k of bank b (Table 15.1): instance 64 + c, word w holds 2w and 2w + 1. -/
def imemWord (b k : Nat) : Nat := (512 * b + k) / 2

/-- `n` words of instance i are read, for an access of a master: uncorrectable where one of them is. -/
def FDie.readWords (f : FDie) (master access i a n : Nat) : FDie × Bool :=
  if f.mem.idle i then (f, false)
  else
    let r := Mem.reads i access n a { f.mem with master := master }
    (f.memDone r.1 false, r.2)

/-- `n` words of instance i are written whole. -/
def FDie.writeWords (f : FDie) (i a n : Nat) : FDie :=
  if f.mem.idle i then { f with mems := (f.mem.validate i a n).ctxs } else f.memDone (f.mem.writes i a n) false

/-- Bytes of word `a` of instance i are written, those of a mask (R362). -/
def FDie.narrowWord (f : FDie) (i a mask : Nat) : FDie := f.memDone (f.mem.narrow i a mask) false

/-- The word of an instruction is read: uncorrectable where it is (Table 15.2). -/
def FDie.fetchCheck (f : FDie) (master access c b k : Nat) : FDie × Bool := f.readWords master access (64 + c) (imemWord b k) 1

/-- Half a word of instruction memory is written (R362). -/
def FDie.imemStore (f : FDie) (c b k : Nat) : FDie :=
  f.narrowWord (64 + c) (imemWord b k) (if k % 2 = 0 then 0x0F else 0xF0)

end Sys2Proof.Machine
end

