-- ==== Sys2Proof/Machine/Fifo.lean ====
section
/-! DEFINITION. The spill FIFOs of the field die (chapter 7): storing and visibility (R193, R195, R196), empty and full (R197, R198), meetings
(R199), enabling (R194, R200). -/
namespace Sys2Proof.Machine

/-- The register fields of a FIFO (Table 7.4b). -/
structure FifoRegs where
  en : Fld
  pkt : Fld
  nb : Fld
  mid : Fld
  depth : Fld
  opn : Fld
  underrun : Fld
  overflow : Fld
  pktErr : Fld
  refused : Fld
  meet : Fld
  full : Fld
  stored : Fld
  ovf : Fld
  unf : Fld
  last : Fld

/-- The registers of FIFO q (R201). -/
def fifoRegs (q : Nat) : FifoRegs :=
  if q < 128 then
    let c := q / 8
    let k := q % 8
    ⟨Reg.MAR_TXQCFG_EN c k, Reg.MAR_TXQCFG_PKT c k, Reg.MAR_TXQCFG_NBPUSH c k, Reg.MAR_TXQCFG_MID c k, Reg.MAR_TXQSTAT_DEPTH c k,
      Reg.MAR_TXQSTAT_OPEN c k, Reg.MAR_TXQSTAT_UNDERRUN c k, Reg.MAR_TXQSTAT_OVERFLOW c k, Reg.MAR_TXQSTAT_PKT_ERR c k,
      Reg.MAR_TXQSTAT_REFUSED c k, Reg.MAR_TXQSTAT_MEET c k, Reg.MAR_TXQSTAT_FULL c k, Reg.MAR_TXQSTAT_STORED c k,
      Reg.MAR_TXQCNT_OVF c k, Reg.MAR_TXQCNT_UNF c k, Reg.MAR_TXQLAST_VALUE c k⟩
  else if q < 256 then
    let c := (q - 128) / 8
    let k := (q - 128) % 8
    ⟨Reg.MAR_RXQCFG_EN c k, Reg.MAR_RXQCFG_PKT c k, Reg.MAR_RXQCFG_NBPUSH c k, Reg.MAR_RXQCFG_MID c k, Reg.MAR_RXQSTAT_DEPTH c k,
      Reg.MAR_RXQSTAT_OPEN c k, Reg.MAR_RXQSTAT_UNDERRUN c k, Reg.MAR_RXQSTAT_OVERFLOW c k, Reg.MAR_RXQSTAT_PKT_ERR c k,
      Reg.MAR_RXQSTAT_REFUSED c k, Reg.MAR_RXQSTAT_MEET c k, Reg.MAR_RXQSTAT_FULL c k, Reg.MAR_RXQSTAT_STORED c k,
      Reg.MAR_RXQCNT_OVF c k, Reg.MAR_RXQCNT_UNF c k, Reg.MAR_RXQLAST_VALUE c k⟩
  else if q < 272 then
    let n := q - 256
    ⟨Reg.CAN_TSQCFG_EN n, Reg.CAN_TSQCFG_PKT n, Reg.CAN_TSQCFG_NBPUSH n, Reg.CAN_TSQCFG_MID n, Reg.CAN_TSQSTAT_DEPTH n,
      Reg.CAN_TSQSTAT_OPEN n, Reg.CAN_TSQSTAT_UNDERRUN n, Reg.CAN_TSQSTAT_OVERFLOW n, Reg.CAN_TSQSTAT_PKT_ERR n, Reg.CAN_TSQSTAT_REFUSED n,
      Reg.CAN_TSQSTAT_MEET n, Reg.CAN_TSQSTAT_FULL n, Reg.CAN_TSQSTAT_STORED n, Reg.CAN_TSQCNT_OVF n, Reg.CAN_TSQCNT_UNF n,
      Reg.CAN_TSQLAST_VALUE n⟩
  else if q < 288 then
    let n := q - 272
    ⟨Reg.CAN_RSQCFG_EN n, Reg.CAN_RSQCFG_PKT n, Reg.CAN_RSQCFG_NBPUSH n, Reg.CAN_RSQCFG_MID n, Reg.CAN_RSQSTAT_DEPTH n,
      Reg.CAN_RSQSTAT_OPEN n, Reg.CAN_RSQSTAT_UNDERRUN n, Reg.CAN_RSQSTAT_OVERFLOW n, Reg.CAN_RSQSTAT_PKT_ERR n, Reg.CAN_RSQSTAT_REFUSED n,
      Reg.CAN_RSQSTAT_MEET n, Reg.CAN_RSQSTAT_FULL n, Reg.CAN_RSQSTAT_STORED n, Reg.CAN_RSQCNT_OVF n, Reg.CAN_RSQCNT_UNF n,
      Reg.CAN_RSQLAST_VALUE n⟩
  else
    let i := q - 288
    ⟨Reg.FGL_BQCFG_EN i, Reg.FGL_BQCFG_PKT i, Reg.FGL_BQCFG_NBPUSH i, Reg.FGL_BQCFG_MID i, Reg.FGL_BQSTAT_DEPTH i, Reg.FGL_BQSTAT_OPEN i,
      Reg.FGL_BQSTAT_UNDERRUN i, Reg.FGL_BQSTAT_OVERFLOW i, Reg.FGL_BQSTAT_PKT_ERR i, Reg.FGL_BQSTAT_REFUSED i, Reg.FGL_BQSTAT_MEET i,
      Reg.FGL_BQSTAT_FULL i, Reg.FGL_BQSTAT_STORED i, Reg.FGL_BQCNT_OVF i, Reg.FGL_BQCNT_UNF i, Reg.FGL_BQLAST_VALUE i⟩

/-- Words stored: visible ones, those of an open packet, and its reserved slot (R195). -/
def Fifo.stored (x : Fifo) : Nat :=
  x.words.length + (match x.opn with | some l => l.length + 1 | none => 0)

/-- The length word (Table 7.2). -/
def lenWord (n : Nat) (err : Bool) : Nat := n % 2 ^ 16 + b2n err * 2 ^ 31

/-- The words become visible behind their length word. -/
def Fifo.close (x : Fifo) (l : List Nat) (err : Bool) : Fifo :=
  { x with words := x.words ++ lenWord l.length err :: l, opn := none, err := false }

/-- A word enters the tail (R193, R195, R196): none where there is no room. The flag says that the hub closed the packet itself. -/
def Fifo.pushed (x : Fifo) (cap : Nat) (pkt : Bool) (w : Nat) : Option (Fifo × Bool) :=
  if pkt then
    match x.opn with
    | some l =>
      if cap ≤ x.stored then none
      else if x.stored + 1 = cap then some (x.close (l ++ [w]) true, true)
      else some ({ x with opn := some (l ++ [w]) }, false)
    | none =>
      if cap < x.stored + 2 then none
      else if x.stored + 2 = cap then some (x.close [w] true, true)
      else some ({ x with opn := some [w], err := false }, false)
  else if cap ≤ x.stored then none
  else some ({ x with words := x.words ++ [w] }, false)

/-- The open packet is committed (R195); with none open, a packet with WORDS 0, where there is room. -/
def Fifo.committed (x : Fifo) (cap : Nat) : Option Fifo :=
  match x.opn with
  | some l => some (x.close l x.err)
  | none => if cap ≤ x.stored then none else some (x.close [] x.err)

/-- The state of FIFO q; one not listed is empty. -/
def FDie.fifo (f : FDie) (q : Nat) : Fifo :=
  (f.fifos.find? fun x => x.q == q).getD
    { q := q, words := [], opn := none, err := false, waiting := [], popWait := 0, left := 0, mark := (false, false, false),
      pages := if 288 ≤ q then (upto 32).map (32 * (q - 288) + ·) else [], put := 0, got := 0 }

/-- Words FIFO q can store: 8 + 32 × MID, a MID above 32 as 32 (R193, R194). -/
def FDie.fifoCap (f : FDie) (q : Nat) : Nat := 8 + 32 * min 32 (f.rd (fifoRegs q).mid)

/-- Replace the state of a FIFO; DEPTH, OPEN, FULL and STORED show it (R195). -/
def FDie.setFifo (f : FDie) (x : Fifo) : FDie :=
  let r := fifoRegs x.q
  let f1 := { f with fifos := x :: f.fifos.filter fun y => y.q != x.q }
  (((f1.wr r.depth x.words.length).wr r.opn (b2n x.opn.isSome)).wr r.stored x.stored).wr r.full (b2n (decide (f.fifoCap x.q ≤ x.stored)))

/-! ### The middle (R193, Table 15.1, log 181) -/

/-- The memory instance of a FIFO's middle, and the word and half of it that hold the middle's j-th word. -/
def Fifo.place (x : Fifo) (j : Nat) : Nat × Nat × Nat :=
  let k := j % (32 * max 1 x.pages.length)
  (if x.q < 256 then 80 + x.q % 128 / 8 else 96, 16 * x.pages.getD (k / 32) 0 + k % 32 / 2, k % 2)

/-- The tail's oldest words move to the middle until it holds all beyond the eight of head and tail. -/
def FDie.spill (f : FDie) (q : Nat) : FDie :=
  let x := f.fifo q
  if x.stored ≤ 8 + (x.put - x.got) then f
  else
    let n := x.stored - 8 - (x.put - x.got)
    let g := (upto n).foldl (fun (g : FDie) k => let w := x.place (x.put + k); g.narrowWord w.1 w.2.1 (if w.2.2 = 0 then 0x0F else 0xF0)) f
    g.setFifo { g.fifo q with put := x.put + n }

/-- The fourth of the FIFO's words, visible or of the open packet, reads 0. -/
def Fifo.lose (x : Fifo) : Fifo :=
  if 3 < x.words.length then { x with words := x.words.set 3 0 }
  else { x with opn := x.opn.map fun l => if x.words.length < 3 then l.set (2 - x.words.length) 0 else l }

/-- The head takes the middle's oldest word, which reads 0 where it is uncorrectable (Table 15.2). -/
def FDie.refillHead (f : FDie) (q : Nat) : FDie :=
  let x := f.fifo q
  if x.put ≤ x.got then f
  else
    let w := x.place x.got
    let r := f.readWords 0xFF 0xE w.1 w.2.1 1
    r.1.setFifo (let y := { r.1.fifo q with got := x.got + 1 }; if r.2 then y.lose else y)

/-- What an operation found at the FIFO, for the next to meet (R199). -/
def FDie.found (f : FDie) (x : Fifo) (pop : Bool) : Bool × Bool × Bool :=
  (pop, x.words.isEmpty, decide (f.fifoCap x.q ≤ x.stored))

/-- MEET (Table 7.3): where the first of the two found DEPTH 0 or a full FIFO, which went first; else BOTH. -/
def meetCode (m : Bool × Bool × Bool) : Nat := if m.2.1 || m.2.2 then (if m.1 then 1 else 2) else 3

/-- An operation meets the one before it within one field clock (R199): of a push and a pop, MEET keeps the outcome. -/
def FDie.meets (f : FDie) (q : Nat) (pop met : Bool) : FDie :=
  let m := (f.fifo q).mark
  if met && m.1 != pop then f.wr (fifoRegs q).meet (meetCode m) else f

/-- The FIFO is enabled. -/
def FDie.fifoOn (f : FDie) (q : Nat) : Bool := f.on (fifoRegs q).en

/-- A push is dropped (R198): counted, and an open packet is marked. -/
def FDie.dropPush (f : FDie) (q : Nat) : FDie :=
  let x := f.fifo q
  ((f.raise (fifoRegs q).overflow).bump (fifoRegs q).ovf).setFifo { x with err := x.err || x.opn.isSome, mark := f.found x false }

/-- A push of one word: done (true), or, where there is no room, false with nothing but the mark of the meeting changed. While EN is 0 a push is ignored (R200). -/
def FDie.push (f : FDie) (q w : Nat) : FDie × Bool :=
  if !f.fifoOn q then (f, true)
  else
    let x := f.fifo q
    match x.pushed (f.fifoCap q) (f.on (fifoRegs q).pkt) w with
    | none => (f.setFifo { x with mark := f.found x false }, false)
    | some (y, auto_) =>
      let f1 := (f.setFifo { y with mark := f.found x false }).spill q
      (if auto_ then f1.raise (fifoRegs q).pktErr else f1, true)

/-- A non-blocking push (R198). -/
def FDie.pushNb (f : FDie) (q w : Nat) : FDie :=
  let r := f.push q w
  if r.2 then r.1 else r.1.dropPush q

/-- A commit: done, or false where there is no room for an empty packet. In a FIFO with PKT 0 there is nothing to close. -/
def FDie.commit (f : FDie) (q : Nat) : FDie × Bool :=
  if !f.fifoOn q || !f.on (fifoRegs q).pkt then (f, true)
  else
    let x := f.fifo q
    match x.committed (f.fifoCap q) with
    | none => (f.setFifo { x with mark := f.found x false }, false)
    | some y => ((f.setFifo { y with mark := f.found x false }).spill q, true)

/-- The blocking pushes that wait, in order, while there is room (R198). -/
def drainPushes (q : Nat) : List (Option Nat) → FDie → FDie
  | [], f => f
  | p :: ps, f =>
    let r := match p with
      | some w => f.push q w
      | none => f.commit q
    if r.2 then drainPushes q ps (r.1.setFifo { r.1.fifo q with waiting := ps }) else r.1

/-- A blocking push end gives words, and perhaps the closing of the packet: what finds no room waits behind what waits already. -/
def FDie.pushWait (f : FDie) (q : Nat) (ps : List (Option Nat)) : FDie :=
  let x := f.fifo q
  let all := x.waiting ++ ps
  if !f.fifoOn q then f else drainPushes q all (f.setFifo { x with waiting := all })

/-- What is left of the packet being popped, after one more word (R195, Table 7.2). -/
def popLeft (pkt : Bool) (left w : Nat) : Nat := if !pkt then 0 else if left = 0 then w % 2 ^ 16 else left - 1

/-- A pop takes the oldest visible word (R193): QLAST keeps it, and a waiting push may go on. None at DEPTH 0 or while EN is 0. -/
def FDie.pop (f : FDie) (q : Nat) : FDie × Option Nat :=
  let x := f.fifo q
  match x.words with
  | [] => (f, none)
  | w :: ws =>
    if !f.fifoOn q then (f, none)
    else
      let left := popLeft (f.on (fifoRegs q).pkt) x.left w
      let f1 := ((f.setFifo { x with words := ws, left := left, mark := f.found x true }).refillHead q).wr (fifoRegs q).last w
      (drainPushes q x.waiting f1, some w)

/-- Pop up to k words. -/
def popMany (q : Nat) : Nat → FDie → FDie × List Nat
  | 0, f => (f, [])
  | k + 1, f =>
    match f.pop q with
    | (g, none) => (g, [])
    | (g, some w) =>
      let r := popMany q k g
      (r.1, w :: r.2)

/-- A software read of the data window (R197): at DEPTH 0 it returns QLAST, with UNDERRUN. -/
def FDie.softPop (f : FDie) (q : Nat) : FDie × Nat :=
  match f.pop q with
  | (g, some w) => (g, w)
  | (g, none) =>
    let x := g.fifo q
    (((g.raise (fifoRegs q).underrun).bump (fifoRegs q).unf).setFifo { x with mark := g.found x true }, f.rd (fifoRegs q).last)

/-- The FIFOs that share the spill memory of FIFO q (R194). -/
def sharing (q : Nat) : List Nat :=
  if q < 256 then (upto 8).map (fun k => q % 128 / 8 * 8 + k) ++ (upto 8).map (fun k => 128 + q % 128 / 8 * 8 + k)
  else (upto 36).map fun k => 256 + k

/-- The units of 32 words that the enabled FIFOs of a FIFO's spill memory hold, this one left out (R194). -/
def FDie.midSum (f : FDie) (q : Nat) : Nat :=
  (((sharing q).filter fun p => p != q && f.fifoOn p).map fun p => min 32 (f.rd (fifoRegs p).mid)).sum

/-- The lowest free units of FIFO q's spill memory, as many as its middle takes. -/
def FDie.freePages (f : FDie) (q : Nat) : List Nat :=
  let used := ((sharing q).filter fun p => p != q && f.fifoOn p).flatMap fun p => (f.fifo p).pages
  let n := min 32 (f.rd (fifoRegs q).mid)
  ((upto (used.length + n)).filter fun k => !used.contains k).take n

/-- The units of 32 words of a FIFO's spill memory: 8,192 words, or 16,384 (R194). -/
def midRoom (q : Nat) : Nat := if q < 256 then 256 else 512

/-- With PKT cleared every stored word is visible (R195): those of an open packet behind its reserved slot, whose content is open (log 5). -/
def FDie.unpacket (f : FDie) (q : Nat) : FDie :=
  let x := f.fifo q
  match x.opn with
  | none => f
  | some l =>
    let r := f.openValue
    r.2.setFifo { x with words := x.words ++ r.1 % 2 ^ 32 :: l, opn := none, err := false }

/-- A write of QCFG (R194, R195, R200): MID is ignored while EN is 1; EN is refused where the memory would overflow; clearing EN discards what
is stored. NBPUSH exists in MAR_RXQ only. -/
def FDie.fifoCfg (f : FDie) (q v : Nat) : FDie :=
  let r := fifoRegs q
  let was := f.fifoOn q
  let en := bitOf v 0
  let f1 := f.wr r.pkt (fieldOf v 1 1)
  let f2 := if 128 ≤ q && q < 256 then f1.wr r.nb (fieldOf v 2 1) else f1
  let f3 := if was then f2 else f2.wr r.mid (fieldOf v 8 6)
  let f4 := if f.on r.pkt && !bitOf v 1 then f3.unpacket q else f3
  if was && !en then
    (f4.wr r.en 0).setFifo { f4.fifo q with words := [], opn := none, err := false, waiting := [], left := 0, pages := [], put := 0, got := 0 }
  else if !was && en then
    if midRoom q < f4.midSum q + min 32 (f4.rd r.mid) then f4.raise r.refused
    else (f4.wr r.en 1).setFifo { f4.fifo q with pages := f4.freePages q }
  else f4

/-! ### The barrier queues (R191): FGL_BQ_0 and FGL_BQ_1 hold images and streams for the transmitter, FGL_BQ_2 and FGL_BQ_3 those received, each message as
its eight words (log 174) -/

/-- LAST of CYC_IN, CYC_OUT and STREAM. -/
def isLast (m : BarMsg) : Bool := m.m1.fld 31 1 == 1
/-- Stream of STREAM. -/
def strNo (m : BarMsg) : Nat := m.m1.fld 0 9
/-- Bytes of STREAM. -/
def strBytes (m : BarMsg) : Nat := m.m1.fld 9 5

/-- The words of a message. -/
def msgSplit (m : BarMsg) : List Nat :=
  [m.m0.toNat, m.m1.toNat, m.m2.toNat, m.m3.toNat, m.m4.toNat, m.m5.toNat, m.m6.toNat, m.m7.toNat]

/-- The message that eight words make. -/
def msgJoin (ws : List Nat) : BarMsg :=
  let w := fun (i : Nat) => BitVec.ofNat 32 (ws.getD i 0)
  { m0 := w 0, m1 := w 1, m2 := w 2, m3 := w 3, m4 := w 4, m5 := w 5, m6 := w 6, m7 := w 7 }

/-- The message at the head of barrier queue q, once all its words are visible. -/
def FDie.bqHead (f : FDie) (q : Nat) : Option BarMsg :=
  let ws := (f.fifo q).words.take 8
  if ws.length < 8 || !f.fifoOn q then none else some (msgJoin ws)

/-- The transmitter may take a message of a class (R224): the link is up and a credit is held beside those of messages that it already has. -/
def FDie.canSend (f : FDie) (m : BarMsg) : Bool :=
  let c := classOf (mType m)
  f.linkUp && (c == 4 || f.bar.used.getD c 0 + (f.bar.tx.filter fun x => classOf (mType x) == c).length < f.bar.granted.getD c 0)

/-- A message of a kind that barrier queue q of the transmitter holds: images in FGL_BQ_0; streams, and what keeps its order with them, in FGL_BQ_1. -/
def bqKind (q : Nat) (m : BarMsg) : Bool := if q == 288 then mType m == 0x20 else mType m == 0x40 || mType m == 0x51

/-- The barrier transmitter pops messages from queue q while it may send them; words that make no message of the queue's kind are lost. -/
def pumpLoop (q : Nat) : Nat → FDie → FDie
  | 0, f => f
  | k + 1, f =>
    match f.bqHead q with
    | none => f
    | some m =>
      if bqKind q m then (if f.canSend m then pumpLoop q k ((popMany q 8 f).1.toHost m) else f)
      else pumpLoop q k (popMany q 8 f).1

/-- Both queues of the transmitter. -/
def FDie.pump (f : FDie) : FDie :=
  let n := fun (g : FDie) (q : Nat) => (g.fifo q).words.length + (g.fifo q).waiting.length
  let f1 := pumpLoop 288 (n f 288) f
  pumpLoop 289 (n f1 289) f1

/-- A hardware pop that waits at DEPTH 0 of barrier queue q takes the word that is pushed now: the push was first (Table 7.3). `waits`: its popper is waiting. -/
def FDie.bqMeet (f : FDie) (q : Nat) (waits : Bool) : FDie :=
  if waits && f.fifoOn q && (f.fifo q).words.isEmpty then f.wr (fifoRegs q).meet 2 else f

/-- A producer's message of rank 3 or 5 enters its barrier queue, blocking (R191). The transmitter waits there while it holds a credit (R197). -/
def FDie.bqSend (f : FDie) (m : BarMsg) : FDie :=
  let q := if mType m == 0x20 then 288 else 289
  ((f.bqMeet q (f.canSend m)).pushWait q ((msgSplit m).map some)).pump

/-- A message of rank 5 that is no stream: behind the streams that wait in FGL_BQ_1, since messages of one rank keep their order (R16), else at once. -/
def FDie.rank5 (f : FDie) (m : BarMsg) : FDie :=
  let x := f.fifo 289
  if x.words.isEmpty && x.waiting.isEmpty then f.toHost m else f.bqSend m

/-- The FIFO that a stream towards the field die fills (R223): MAR_TXQ_n or CAN_TSQ_n. -/
def streamFifo (n : Nat) : Nat := if n < 0x80 then n else 256 + (n - 0x80)

/-- A STREAM message for a cyclic engine's MAR_TXQ_n counts as out of range (R222, R267). -/
def FDie.cyclicStream (f : FDie) (m : BarMsg) : Bool := strNo m < 128 && f.on (Reg.MAR_EIMGI_CYC (strNo m / 8) (strNo m % 8))

/-- A STREAM message's words, the last filled with zeros, and the closing of the packet enter the FIFO of the stream (R223). -/
def FDie.streamTo (f : FDie) (m : BarMsg) : FDie :=
  let bs := msgBytes m (strBytes m)
  let ws := (upto (ceilDiv bs.length 4)).map fun i => some (leNat (slice bs (4 * i) 4))
  f.pushWait (streamFifo (strNo m)) (ws ++ (if isLast m then [none] else []))

/-- The distributor waits at a full FIFO of an engine or a controller (R191, R198). -/
def FDie.distBusy (f : FDie) : Bool := f.fifos.any fun x => (x.q < 128 || (256 ≤ x.q && x.q < 272)) && !x.waiting.isEmpty

/-- The distributor pops the next STREAM message from FGL_BQ_3 (R191); its space at the receiver is free again (R224). -/
def FDie.distribute (f : FDie) : Option FDie :=
  if f.distBusy then none
  else
    (f.bqHead 291).map fun m =>
      let g := (popMany 291 8 f).1
      let g1 := { g with bar := g.bar.freed 0x40 }
      if mType m == 0x40 && strNo m < 0x90 then g1.streamTo m else g1

/-- Every message that the distributor can take now. -/
def distLoop : Nat → FDie → FDie
  | 0, f => f
  | k + 1, f =>
    match f.distribute with
    | none => f
    | some g => distLoop k g

/-- The receiver pushes a STREAM message into FGL_BQ_3 (R191); disabled, the queue ignores it (R200), and its space is free. -/
def FDie.streamIn (f : FDie) (m : BarMsg) : FDie :=
  if f.fifoOn 291 then
    let g := (f.bqMeet 291 (!f.distBusy)).pushWait 291 ((msgSplit m).map some)
    distLoop ((g.fifo 291).words.length + 1) g
  else { f with bar := f.bar.freed 0x40 }

/-- Messages that the image distributor pops from FGL_BQ_2. -/
def bqTake : Nat → FDie → FDie × List BarMsg
  | 0, f => (f, [])
  | k + 1, f =>
    match f.bqHead 290 with
    | none => (f, [])
    | some m =>
      let r := bqTake k (popMany 290 8 f).1
      (r.1, m :: r.2)

/-- The receiver pushes a CYC_OUT message into FGL_BQ_2, and the distributor takes what stands there (R191). -/
def FDie.cycTake (f : FDie) (m : BarMsg) : FDie × List BarMsg :=
  let g := (f.bqMeet 290 true).pushWait 290 ((msgSplit m).map some)
  bqTake ((g.fifo 290).words.length + 1) g

/-- A barrier queue is emptied. -/
def FDie.bqClear (f : FDie) (q : Nat) : FDie :=
  if f.fifos.any (fun x => x.q == q) then f.setFifo { f.fifo q with words := [], opn := none, err := false, waiting := [], left := 0, put := 0, got := 0 } else f

/-! ### Pops by the barrier (R191, R197, R223) -/

/-- Whether the barrier takes words from FIFO q: the receive FIFOs, but not those of a cyclic engine (R191, R267). -/
def FDie.barrierPops (f : FDie) (q : Nat) : Bool :=
  128 ≤ q && q < 288 && !(256 ≤ q && q < 272) && f.linkUp &&
    !(q < 256 && f.on (Reg.MAR_EIMGI_CYC ((q - 128) / 8) ((q - 128) % 8)))

/-- The stream number of a receive FIFO (Table 8.10). -/
def streamOf (q : Nat) : Nat := if q < 256 then q - 128 else 0x80 + (q - 272)

/-- The barrier pops a word of FIFO q into a STREAM message, LAST at the end of a packet; at DEPTH 0, while EN is 0, or while FGL_BQ_1 is full, the pop waits. -/
def FDie.streamPop (f : FDie) (q : Nat) : FDie :=
  let wait := fun (g : FDie) (why : Nat) => g.setFifo { g.fifo q with popWait := why }
  if !(f.fifo 289).waiting.isEmpty then wait f 2
  else
    match f.pop q with
    | (g, none) => wait g 1
    | (g, some w) =>
      let g1 := g.setFifo { g.fifo q with popWait := 0 }
      let last := g1.on (fifoRegs q).pkt && (g1.fifo q).left == 0
      (streamMsgs (streamOf q) last 1 (leBytes 4 w)).foldl (fun x m => x.bqSend m) g1

/-- Pops that wait go on where a word has become visible: one that waited for the word meets its push, which came first (Table 7.3). -/
def FDie.servePops (f : FDie) : FDie :=
  (f.fifos.filter fun x => x.popWait != 0).foldl
    (fun g x =>
      if g.barrierPops x.q && g.fifoOn x.q && !(g.fifo x.q).words.isEmpty && (g.fifo 289).waiting.isEmpty then
        let h := g.streamPop x.q
        if x.popWait == 1 then h.wr (fifoRegs x.q).meet 2 else h
      else g) f

/-- The ends of the FIFOs that hardware serves go on. -/
def FDie.flow (f : FDie) : FDie := (distLoop ((f.fifo 291).words.length + 1) f).servePops.pump

end Sys2Proof.Machine
end

