-- ==== Sys2Proof/Machine/Pins.lean ====
section
/-! DEFINITION. Discrete lines (R254 to R257, R269, R271) and strings (R261 to R263) as engines and software reach them; the F-die event
stream (R222, R287). -/
namespace Sys2Proof.Machine

/-! ### Lines -/

/-- A line's output holder (R255). -/
def FDie.holder (f : FDie) (n : Nat) : Bool := f.on (Reg.FIO_IN_DRIVEN n)

/-- A line's input after R257. -/
def FDie.level (f : FDie) (n : Nat) : Bool := f.on (Reg.FIO_IN_LEVEL n)

/-- A line's output at the ball as its driver has it, before FVIO (R255, R257): none for high impedance. -/
def FDie.driven (f : FDie) (n : Nat) : Option Bool :=
  let v := f.holder n != f.on (Reg.FIO_CFG_INV n)
  match f.rd (Reg.FIO_CFG_MODE n) with
  | 1 => some v
  | 2 => if v then none else some false
  | _ => none

/-- A number put into a rising list of numbers, once. -/
def insertUp (x : Nat) : List Nat → List Nat
  | [] => [x]
  | y :: ys => if x < y then x :: y :: ys else if x = y then y :: ys else y :: insertUp x ys

/-- A bank has good FVIO (R256). -/
def FDie.bankGood (f : FDie) (b : Nat) : Bool := f.on (Reg.FIO_BSTAT_PRESENT b) && !f.on (Reg.FIO_BSTAT_MISMATCH b)

/-- The windows of Table 21.8 for FVIO_b, in mV: 1.2 V makes it present; VSEL 0 takes 2.85 V to 3.75 V, VSEL 1 1.62 V to 1.98 V. -/
def fvioPresent (mv : Nat) : Bool := 1200 ≤ mv

def fvioFits (vsel mv : Nat) : Bool := if vsel = 0 then 2850 ≤ mv && mv ≤ 3750 else 1620 ≤ mv && mv ≤ 1980

/-- FIO_BSTAT_b shows FVIO_b, judged by the window that VSEL selects (R256, R461; log 176). -/
def FDie.showFvio (f : FDie) (b : Nat) : FDie :=
  let mv := f.fvio.getD b 0
  (f.wr (Reg.FIO_BSTAT_PRESENT b) (b2n (fvioPresent mv))).wr (Reg.FIO_BSTAT_MISMATCH b)
    (b2n (fvioPresent mv && !fvioFits (f.rd (Reg.FIO_BCFG_VSEL b)) mv))

/-- The ball of a line (R255, R256): high impedance while its bank has no good FVIO; its safe level while FIO_SAFE.ACTIVE reads 1. In SLEEP the pad
keepers need no more than that FVIO_b is present (R321). -/
def FDie.ball (f : FDie) (n : Nat) : Option Bool :=
  if !(f.bankGood (n / 32) || (2 ≤ f.rd Reg.FGL_PWRSTAT_STATE && f.on (Reg.FIO_BSTAT_PRESENT (n / 32)))) then none
  else if f.on Reg.FIO_SAFE_ACTIVE then (f.safeSnap.find? fun e => e.1 == n).map (·.2)
  else f.driven n

/-- The level that SAFE gives a line: 0 holds what the line drives (R255). -/
def FDie.safeLevel (f : FDie) (n : Nat) : Option Bool :=
  match f.rd (Reg.FIO_CFG_SAFE n) with
  | 0 => f.driven n
  | 1 => some false
  | 2 => some true
  | _ => none

/-- Every pin takes the state that SAFE names (R255, R321). -/
def FDie.goSafe (f : FDie) : FDie :=
  if f.on Reg.FIO_SAFE_ACTIVE then f
  else
    { f.wr Reg.FIO_SAFE_ACTIVE 1 with
        safeSnap := (upto 256).filterMap fun n => (f.safeLevel n).map fun v => (n, v) }

/-- The driver gives a line a value (R255); FIO_OUT_n.VALUE and FIO_IN_n.DRIVEN show it (R257). -/
def FDie.hold (f : FDie) (n : Nat) (v : Bool) : FDie := (f.wr (Reg.FIO_OUT_VALUE n) (b2n v)).wr (Reg.FIO_IN_DRIVEN n) (b2n v)

/-- Software gives a line's output a value: it reaches the holder while DRV is 0xFF (R254, R274). -/
def FDie.softOut (f : FDie) (n : Nat) (v : Bool) : FDie :=
  if f.rd (Reg.FIO_CFG_DRV n) == 0xFF then f.hold n v else f.wr (Reg.FIO_OUT_VALUE n) (b2n v)

/-- Software gives the outputs of a bank's lines that `mask` names the bits of `v`. -/
def FDie.softBank (f : FDie) (b mask v : Nat) : FDie :=
  (upto 32).foldl (fun g i => if bitOf mask i then g.softOut (32 * b + i) (bitOf v i) else g) f

/-- The level of line n's input after R257: the accepted level, inverted by INV; 0 while its bank has no good FVIO (R256). -/
def FDie.inLevel (f : FDie) (n : Nat) : Bool := f.bankGood (n / 32) && (f.high.contains n != f.on (Reg.FIO_CFG_INV n))

/-- FIO_CFG_n is written (R254): refused where DRV names an engine outside the line's cluster and its two neighbours, one that the part lacks,
or a reserved value. INV changes LEVEL at once, which is no change of the input (log 176). -/
def FDie.fioCfg (f : FDie) (n v : Nat) : FDie :=
  let d := v % 256
  let c := n / 16
  let ec := d / 8
  let near := ec == c || ec == (c + 1) % 16 || ec == (c + 15) % 16
  if d == 0xFF || (d < 128 && near && !f.lacksCluster ec) then
    let g := (((((((f.wr (Reg.FIO_CFG_DRV n) d).wr (Reg.FIO_CFG_MODE n) (fieldOf v 8 2)).wr (Reg.FIO_CFG_PULL n) (fieldOf v 10 2)).wr
      (Reg.FIO_CFG_INV n) (fieldOf v 12 1)).wr (Reg.FIO_CFG_SLEW n) (fieldOf v 13 1)).wr (Reg.FIO_CFG_SAFE n) (fieldOf v 14 2)).wr
      (Reg.FIO_CFG_FILT n) (fieldOf v 16 4))
    g.wr (Reg.FIO_IN_LEVEL n) (b2n (g.inLevel n))
  else f.raise (Reg.FIO_EVT_REFUSED n)

/-! ### Engines' registers -/

/-- A field of engine n. -/
def FDie.er (f : FDie) (F : Nat → Nat → Fld) (n : Nat) : Nat := f.rd (F (n / 8) (n % 8))

/-- Set a field of engine n. -/
def FDie.ew (f : FDie) (F : Nat → Nat → Fld) (n v : Nat) : FDie := f.wr (F (n / 8) (n % 8)) v

/-- Line number of window pin W of engine n (R253). -/
def winLine (n w : Nat) : Nat := ((n / 8 + 15) % 16 * 16 + w) % 256

/-- Line of output group pin i of engine n. -/
def FDie.outLine (f : FDie) (n i : Nat) : Nat := winLine n (f.er Reg.MAR_EPIN_OUT_BASE n + i)

/-- Line of input group pin i of engine n. -/
def FDie.inLine (f : FDie) (n i : Nat) : Nat := winLine n (f.er Reg.MAR_EPIN_IN_BASE n + i)

/-- Engine n drives output group pin i (R254): one beyond the group has no effect; a line that names another driver keeps its value, and
NODRV is set. -/
def FDie.drive (f : FDie) (n i : Nat) (v : Bool) : FDie :=
  if f.er Reg.MAR_EPIN_OUT_CNT n ≤ i then f
  else
    let l := f.outLine n i
    if f.rd (Reg.FIO_CFG_DRV l) == n then f.hold l v else f.ew Reg.MAR_EEVT_NODRV n 1

/-- Engine n gives output group pins from `base`, `cnt` of them, the bits of v (R282). -/
def FDie.driveMany (f : FDie) (n base cnt v : Nat) : FDie :=
  (upto cnt).foldl (fun g i => g.drive n (base + i) (bitOf v i)) f

/-- Input group pin i of engine n; 0 at or beyond IN_CNT (R282). -/
def FDie.inPin (f : FDie) (n i : Nat) : Bool := i < f.er Reg.MAR_EPIN_IN_CNT n && f.level (f.inLine n i)

/-- The first k input group pins as a number (R282). -/
def FDie.inPins (f : FDie) (n k : Nat) : Nat := ((upto k).map fun i => b2n (f.inPin n i) * 2 ^ i).sum

/-! ### Strings -/

/-- String S of engine cluster c (R281). -/
def FDie.string (f : FDie) (c s : Nat) : Bool :=
  if s < 32 then bitOf (f.rd Reg.MAR_GSTRLO_G) s
  else if s < 64 then bitOf (f.rd Reg.MAR_GSTRHI_G) (s - 32)
  else bitOf (f.rd (Reg.MAR_CSTR_L c)) (s - 64)

/-- A number with one bit set or cleared. -/
def setBit (v i : Nat) (b : Bool) : Nat := if b then v ||| 2 ^ i else v - (v &&& 2 ^ i)

/-- Give string S of cluster c a value. -/
def FDie.setString (f : FDie) (c s : Nat) (b : Bool) : FDie :=
  if s < 32 then f.wr Reg.MAR_GSTRLO_G (setBit (f.rd Reg.MAR_GSTRLO_G) s b)
  else if s < 64 then f.wr Reg.MAR_GSTRHI_G (setBit (f.rd Reg.MAR_GSTRHI_G) (s - 32) b)
  else f.wr (Reg.MAR_CSTR_L c) (setBit (f.rd (Reg.MAR_CSTR_L c)) (s - 64) b)

/-- A set and a plain clear of one string met in one field clock (R262). -/
def FDie.conflict (f : FDie) (c s : Nat) : FDie :=
  if s < 64 then (f.raise Reg.MAR_STREVT_CONFLICT).wr Reg.MAR_STREVT_STR s
  else (f.raise (Reg.MAR_CEVT_CONFLICT c)).wr (Reg.MAR_CEVT_STR c) (s - 64)

/-- A set of a string; `met`: a plain clear of it falls in the same field clock (R262). -/
def FDie.strSet (f : FDie) (c s : Nat) (met : Bool) : FDie :=
  let f1 := f.setString c s true
  if met then f1.conflict c s else f1

/-- A plain clear of a string; `met`: a set of it falls in the same field clock, and the string is as the set leaves it (R262), taken already by a
waiting TAKE or not. -/
def FDie.strClr (f : FDie) (c s : Nat) (met : Bool) : FDie :=
  if met then f.conflict c s else f.setString c s false

/-! ### Event messages -/

/-- One message on the F-die event stream (R287, R316, R355), naming the unit and what happened: M2 the unit's kind (0 engine, 1 CAN controller,
2 feed) in [23:16] and number in [7:0], M3 the code or bit. The layout is the model's (log 26). -/
def FDie.eventMsg (f : FDie) (kind n code : Nat) : FDie :=
  f.bqSend (mkMsg 0x40 0 [0x0A0 + 8 * 2 ^ 9 + 2 ^ 31, n + kind * 2 ^ 16, code])

end Sys2Proof.Machine
end

