-- ==== Sys2Proof/Machine/Time.lean ====
section
/-! DEFINITION. The time base and its field copy (chapter 9): increment, STEP and SET, capture, cycles and their starts, IEEE 1588 stamp
FIFOs, TIME messages and holdover. -/
namespace Sys2Proof.Machine

/-! ### The host die's time base -/

/-- The TIME message (R244, Table 9.6), with STEP when the time was stepped or set since the last. -/
def HDie.timeMsg (h : HDie) : HDie :=
  let t := h.tb.now
  let m := mkMsg 0x01 0 [timeNs t, timeSec t % 2 ^ 32, timeSec t / 2 ^ 32 + timeFrac t * 2 ^ 16, h.tb.inc % 2 ^ 32,
    h.tb.inc / 2 ^ 32 % 256 + b2n h.tb.stepped * 256, h.brg.timeSeq % 65536]
  { h.toField m with tb.stepped := false, brg.timeSeq := h.brg.timeSeq + 1 }

/-- TIM_INCFR_WRITE (R231, R56): the write commits the pair with the high word most recently written; an increment below 1.998 or above 2.002 ns is
refused and leaves the old one in force. -/
def HDie.incWrite (h : HDie) (fr : Nat) : HDie :=
  let int := aget h.hiHold 0x70014 (h.rd Reg.TIM_INCINT_INT) % 256
  let v := 2 ^ 32 * int + fr
  if 1000 * v < 1998 * 2 ^ 32 || 2002 * 2 ^ 32 < 1000 * v then h.raise Reg.TIM_EVT_INC_REFUSED
  else
    { (h.wr Reg.TIM_INCINT_INT int).wr Reg.TIM_INCFR_FRAC fr with tb.inc := v, hiHold := adel h.hiHold 0x70014 }

def execTimIncfrWrite (fr : Word) (s : State) : Host.Outcome State Fault Refusal := onH (fun h => h.incWrite fr.toNat) s

/-- The cycles that have started and whose bursts may still be to come (R186). -/
def HDie.openBursts (h : HDie) : List Nat :=
  match h.tb.running with
  | none => []
  | some r => (upto (r + 1 - h.sw.burst)).map (h.sw.burst + ·)

/-- A change of time is accepted (R233, R241, R244): a forward change launches at once every frame whose time it passed, and the next TIME message,
which carries STEP, leaves at once. -/
def HDie.changeTime (h : HDie) (t : Nat) : HDie :=
  let h1 := { h with tb.now := t, tb.stepped := true }.raise Reg.TIM_EVT_STEPPED
  let h2 := if h.tb.now < t then launchDue true h1.hostq.launches h1 else h1
  (if h.tb.now < t && h2.sw.inForce.isSome then launchPassed h.tb.now h2.openBursts h2 else h2).timeMsg

/-- TIM_STEPNS and TIM_STEPFR as a signed time (R233). -/
def HDie.stepSize (h : HDie) : Int := 2 ^ 32 * signed 32 (h.rd Reg.TIM_STEPNS_NS) + ((2 ^ 16 * h.rd Reg.TIM_STEPFR_FRAC : Nat) : Int)

/-- A new time is refused when it lies further than TIM_JUMP.NS from the present and FORCE is not written with it (R233). -/
def HDie.moveTime (h : HDie) (t : Int) (force : Bool) : HDie :=
  let d := t - (h.tb.now : Int)
  if (ofNs (h.rd Reg.TIM_JUMP_NS) : Int) < (d.natAbs : Int) && !force then h.raise Reg.TIM_EVT_JUMP_REFUSED
  else h.changeTime t.toNat

/-- TIME_STEP (R233). -/
def execTimeStep (force : Bool) (s : State) : Host.Outcome State Fault Refusal :=
  onH (fun h => h.moveTime ((h.tb.now : Int) + h.stepSize) force) s

/-- The SET registers as a time, FRAC 0. -/
def HDie.setTime (h : HDie) : Nat := mkTime (h.rd Reg.TIM_SETSL_SEC + 2 ^ 32 * h.rd Reg.TIM_SETSH_SEC) (h.rd Reg.TIM_SETNS_NS) 0

/-- TIME_SET (R233). -/
def execTimeSet (force : Bool) (s : State) : Host.Outcome State Fault Refusal :=
  onH (fun h => h.moveTime (h.setTime : Int) force) s

/-- TIME_CAPTURE (R232): a read of TIM_NOWFR captures the whole of the time, which the other three registers then return. -/
def HDie.capture (h : HDie) : HDie :=
  let t := h.tb.now
  { (((h.wr Reg.TIM_NOWFR_FRAC (timeFrac t)).wr Reg.TIM_NOWNS_NS (timeNs t)).wr Reg.TIM_NOWSL_SEC (timeSec t % 2 ^ 32)).wr Reg.TIM_NOWSH_SEC
      (timeSec t / 2 ^ 32) with tb.cap := t }

def execTimeCapture (s : State) : Host.Outcome State Fault Refusal := onH (fun h => h.capture) s

/-! ### Cycles -/

/-- Write a register of the field die from the hub itself (R245): a request of master 0xFF that no access waits for. -/
def HDie.fieldWrite (h : HDie) (addr v : Nat) : HDie := h.toField (mkMsg 0x31 0 [addr + 4 * 2 ^ 24, 0xFF, v])

/-- The hub writes the cycle registers of the field copy (R245). -/
def HDie.copyCycle (h : HDie) : HDie :=
  (((h.fieldWrite 0x8C0024 (h.rd Reg.TIM_EPNS_NS)).fieldWrite 0x8C0028 (h.rd Reg.TIM_EPSL_SEC)).fieldWrite 0x8C002C
    (h.rd Reg.TIM_EPSH_SEC)).fieldWrite 0x8C0020 (h.rd Reg.TIM_CYCLE_NS + h.rd Reg.TIM_CYCLE_EN * 2 ^ 31)

/-- CYCLE_CONFIG_WRITE (R234): TIM_CYCLE is written. EN with NS out of range is refused; NS does not change while EN is 1; EN is not cleared while
the lead machine is not OFF or a plan is in force. Setting EN takes the present cycle as already running. -/
def HDie.cycleCfg (h : HDie) (v : Nat) : HDie :=
  let ns := v % 2 ^ 23
  let en := bitOf v 31
  if en then
    if h.on Reg.TIM_CYCLE_EN then h
    else if ns < 31250 || 8000000 < ns then h.raise Reg.TIM_EVT_CFG_REFUSED
    else
      let h1 := (h.wr Reg.TIM_CYCLE_NS ns).wr Reg.TIM_CYCLE_EN 1
      let before := h1.tb.now < h1.epoch
      let n := h1.cycleAt h1.tb.now
      let h2 := { h1.wr Reg.TIM_CYCNUM_N (if before then 0 else n % 2 ^ 32) with
                  tb.running := none, tb.firstAct := if before then 0 else n + 1, tb.enAt := h1.tb.now }
      (h2.leadEval).copyCycle
  else if h.on Reg.TIM_CYCLE_EN then
    if h.rd Reg.RED_LEADSTAT_STATE != 0 || h.rd Reg.SWC_CYASTAT_STATE == 3 || h.sw.inForce.isSome then h.raise Reg.TIM_EVT_CFG_REFUSED
    else ({ h.wr Reg.TIM_CYCLE_EN 0 with tb.running := none }).copyCycle
  else h.wr Reg.TIM_CYCLE_NS ns

def execCycleConfigWrite (v : Word) (s : State) : Host.Outcome State Fault Refusal := onH (fun h => h.cycleCfg v.toNat) s

/-- The payload of SYNC n (R154, R237, Tables 5.4 and 9.2). -/
def HDie.syncPayload (h : HDie) (n : Nat) (hand : Bool) : List Byte :=
  let target := if hand then h.red.handTo.getD 0x7F else 0x7F
  let plan := match h.sw.inForce with
    | some p => p.crc
    | none => 0
  let s := h.cycleStart n
  let m := (n + 2 ^ 32 - 1) % 2 ^ 32
  let loop : Option (Nat × Nat) :=
    match h.tb.loopRet.find? fun x => x.1 == m with
    | some (_, some a, some b) => if (h.tb.closedAt.find? fun x => x.1 == m).any (fun x => x.2) then some (a, b) else none
    | _ => none
  beBytes 4 (h.rd Reg.RED_LEADCFG_PRIO * 2 ^ 24 + b2n h.red.tkSync * 2 ^ 23 + b2n hand * 2 ^ 22 + target * 2 ^ 15)
    ++ beBytes 4 (h.rd Reg.RED_TERM_TERM) ++ beBytes 4 plan ++ beBytes 4 0
    ++ beBytes 4 (timeSec s / 2 ^ 32) ++ beBytes 4 (timeSec s % 2 ^ 32) ++ beBytes 4 (timeNs s)
    ++ beBytes 4 ((loop.map fun x => x.1).getD 0) ++ beBytes 4 ((loop.map fun x => x.2).getD 0) ++ beBytes 4 (b2n loop.isSome * 2 ^ 31)

/-- SYNC_SEND (R155, R158, R237, R241): the lead sends SYNC n on every port in ACTIVE with the launch time S_N, and counts as having accepted it. A change of time that
passed S_N is counted for each port copy. -/
def HDie.sendSync (h : HDie) (n : Nat) (hand : Bool) : HDie :=
  let t := h.cycleStart n
  let late := decide (t + ofNs 3 < h.tb.now)
  let r := h.source 8 5 7 0xFFF 127 0 false (n % 2 ^ 32) h.hubNum (h.syncPayload (n % 2 ^ 32) hand) (if late then none else some t) h.tb.now []
  let h1 := if !h.numbered then h
    else if late && r.2.1 then r.1.bump Reg.TIM_LAUNCHJMP_COUNT (b2n (h.active 0) + b2n (h.active 1)) else r.1
  { h1 with red.tkSync := false, red.lastAcc := some (n % 2 ^ 32), red.accTime := h1.tb.now, red.handSent := h1.red.handSent || hand }

/-- What the lead machine does at cycle start n (Table 5.5): a lead sends SYNC; in HANDING the first carries HANDOVER, and at the next start the
target is followed instead. -/
def HDie.leadCycle (h : HDie) (n : Nat) : HDie :=
  match h.rd Reg.RED_LEADSTAT_STATE with
  | 2 => if n % 2 ^ h.rd Reg.RED_LEADCFG_HPER == 0 then h.sendHealth else h
  | 3 => h.sendSync n false
  | 4 =>
    if !h.red.handSent then h.sendSync n true
    else
      let t := h.red.handTo.getD 0x7F
      let prio := ((h.red.health.find? fun x => x.hub == t).map fun x => x.prio).getD 0
      { (h.leaveLead 2).follow t prio (h.rd Reg.RED_TERM_TERM) with red.handTo := some t }
  | _ => h

/-- The actions of cycle start n (R76, R158, R185, R237). -/
def HDie.cycleActs (h : HDie) (n : Nat) : HDie :=
  let h1 := (h.activate n).applyMaps n
  let h2 := { h1 with tb.closedAt := ((n % 2 ^ 32, h1.rd Reg.RED_RING_STATE == 0) :: h1.tb.closedAt).take 4 }
  h2.leadCycle n

/-- TIM_OFFSTAT.VALID at a cycle start (R240, R248): whether the offset was updated in the last cycle; on a lead it reads 1. -/
def HDie.offsetAge (h : HDie) : HDie :=
  { (if h.leads || h.tb.offNew then h else h.wr Reg.TIM_OFFSTAT_VALID 0) with tb.offNew := false }

/-- CYCLE_START (R234, R235): the next cycle starts at its own S_N; when the time has already passed further starts, the newest of them starts and
those between are counted, and launches that were passed over leave at once. -/
def HDie.cycleStarts (h : HDie) : HDie :=
  if !h.on Reg.TIM_CYCLE_EN then h
  else
    let c := ofNs (h.rd Reg.TIM_CYCLE_NS)
    let next := match h.tb.running with
      | some n => n + 1
      | none => h.tb.firstAct
    let h0 := h.advance (h.epoch + next * c)
    let now := max next (h0.cycleAt h0.tb.now)
    let h1 := { h0.offsetAge.wr Reg.TIM_CYCNUM_N (now % 2 ^ 32) with tb.running := some now }.resAge
    let h2 := if next < now then (h1.bump Reg.TIM_CYCSKIP_COUNT (now - next)).raise Reg.TIM_EVT_CYCSKIP else h1
    let h3 := launchDue false h2.hostq.launches h2
    let passed := fun (l : List Nat) (g : HDie) => if g.sw.inForce.isSome then launchPassed 0 (l.filter fun k => decide (g.burstAt k + ofNs 3 < g.tb.now)) g else g
    passed [now] ((passed ((upto (now - next)).map (next + ·)) h3).cycleActs now)

/-- What the field die is told of the plan in force (R267, R268). -/
def HDie.fieldPlan (h : HDie) : Option FPlan :=
  h.sw.inForce.map fun (p : Plan) =>
    { launch := h.rd Reg.SWC_LAUNCH_NS, inLen := p.ins.getD h.self 0, outLen := (p.outs.getD h.self (0, 0)).1 }

/-- CYCLE_START on both dies: at a plan's activation every slice starts as 0, and the plan is copied to the field die while the barrier link is up
(R267, R268). -/
def cycleBoth (s : State) : State :=
  let h := s.h.cycleStarts
  if s.h.sw.admitted.isSome && h.sw.admitted.isNone then
    { s with h := h, f.plan := if h.on Reg.BAR_STAT_UP then h.fieldPlan else s.f.plan, f.slices := [] }
  else { s with h := h }

/-- The field die learns whether an admitted plan that awaits its cycle gives the hub an image (R185, R320; log 51). -/
def State.tellPlan (s : State) : State :=
  let img := fun (p : Plan) => p.ins.getD s.h.self 0 != 0 || (p.outs.getD s.h.self (0, 0)).1 != 0
  if s.linked then { s with f.dueImage := s.h.sw.admitted.any img } else s

def execCycleStart (s : State) : Host.Outcome State Fault Refusal := onBoth cycleBoth s

/-! ### IEEE 1588 stamp FIFOs -/

/-- The registers of a spur's stamp FIFO: ID, NS, SL, SH, and its count (Table 9.8). -/
def ptpRegs (s : Nat) (tx : Bool) : Fld × Fld × Fld × Fld × Fld :=
  if tx then (Reg.TIM_PTPTXID_ENTRY s, Reg.TIM_PTPTXNS_ENTRY s, Reg.TIM_PTPTXSL_ENTRY s, Reg.TIM_PTPTXSH_ENTRY s, Reg.TIM_PTPSTAT_TXN s)
  else (Reg.TIM_PTPRXID_ENTRY s, Reg.TIM_PTPRXNS_ENTRY s, Reg.TIM_PTPRXSL_ENTRY s, Reg.TIM_PTPRXSH_ENTRY s, Reg.TIM_PTPSTAT_RXN s)

/-- PTP_FIFO_READ_ID (R243): a read of the ID register fixes the head entry, which the four registers then show; all 0 when empty. -/
def HDie.ptpId (h : HDie) (s : Nat) (tx : Bool) : HDie :=
  let l := if tx then h.tb.ptpTx else h.tb.ptpRx
  let k := 2 * s + b2n tx
  let r := ptpRegs s tx
  match l.find? fun x => x.1 == s with
  | none =>
    { (((h.wr r.1 0).wr r.2.1 0).wr r.2.2.1 0).wr r.2.2.2.1 0 with tb.ptpHead := adel h.tb.ptpHead k }
  | some (_, e) =>
    { (((h.wr r.1 e.id).wr r.2.1 (timeNs e.time)).wr r.2.2.1 (timeSec e.time % 2 ^ 32)).wr r.2.2.2.1
        (timeSec e.time / 2 ^ 32 + timeFrac e.time * 2 ^ 16) with tb.ptpHead := aput h.tb.ptpHead k e }

def execPtpFifoReadId (sp : Fin 4) (tx : Bool) (s : State) : Host.Outcome State Fault Refusal := onH (fun h => h.ptpId sp tx) s

/-- PTP_FIFO_READ_SH (R243): a read of the SH register removes the entry that was fixed. -/
def HDie.ptpSh (h : HDie) (s : Nat) (tx : Bool) : HDie :=
  let k := 2 * s + b2n tx
  let r := ptpRegs s tx
  if !ahas h.tb.ptpHead k then h
  else
    let h1 := h.wr r.2.2.2.2 (h.rd r.2.2.2.2 - 1)
    if tx then { h1 with tb.ptpHead := adel h.tb.ptpHead k, tb.ptpTx := dropFirst (fun x => x.1 == s) h.tb.ptpTx }
    else { h1 with tb.ptpHead := adel h.tb.ptpHead k, tb.ptpRx := dropFirst (fun x => x.1 == s) h.tb.ptpRx }

def execPtpFifoReadSh (sp : Fin 4) (tx : Bool) (s : State) : Host.Outcome State Fault Refusal := onH (fun h => h.ptpSh sp tx) s

/-! ### The field copy -/

/-- TIME_MESSAGE_PERIOD (R244): every 1 µs. -/
def execTimeMessagePeriod (s : State) : Host.Outcome State Fault Refusal := onH (fun h => h.timeMsg) s

/-- The epoch of the field copy (R245). -/
def FDie.epoch (f : FDie) : Nat := mkTime (f.rd Reg.FTM_EPSL_SEC + 2 ^ 32 * f.rd Reg.FTM_EPSH_SEC) (f.rd Reg.FTM_EPNS_NS) 0

/-- The field cycle in which a time lies (R245). -/
def FDie.cycleAt (f : FDie) (t : Nat) : Nat := cycleOf f.epoch (ofNs (f.rd Reg.FTM_CYCLE_NS)) t

/-- The start of field cycle n. -/
def FDie.cycleStart (f : FDie) (n : Nat) : Nat := f.epoch + ofNs (fullCycle (f.cycleAt f.tb.now) n * f.rd Reg.FTM_CYCLE_NS)

/-- The rate that a TIME message steers the field time to (R244, R246): that of the host's increment, which the message carries, with a correction that the spec does not give
and that stays within the drift of R246, 20 µs in a second (log 169). -/
def FDie.steer (f : FDie) (inc : Nat) : FDie :=
  let d := inc / 50000
  let v := f.openValue
  { v.2 with tb.rate := inc - d + v.1 % (2 * d + 1) }

/-- What a TIME message does to the field time (R244): set to the host value when STEP is set, the error exceeds 64 ns, or it is the first since
link-up; else only the rate is steered. LOCKED follows 16 and 4 successive errors; holdover ends (R246). -/
def FDie.timeIn (f : FDie) (b : BarMsg) : FDie :=
  let t := mkTime (b.m2.toNat + 2 ^ 32 * b.m3.fld 0 16) (b.m1.fld 0 30) (b.m3.fld 16 16) + 2 ^ 24 * f.rd Reg.FTM_LAT_LAT
  let e : Int := (in8 t : Int) - (in8 f.tb.now : Int)
  let step := b.m5.fld 8 1 == 1
  let far := 64 * 256 < e.natAbs
  let near := e.natAbs ≤ 4 * 256
  let clip : Int := if 32767 < e then 32767 else if e < -32768 then -32768 else e
  let f1 := ((f.bump Reg.FTM_MSGCNT_COUNT).wr Reg.FTM_ERR_ERR (unsigned 16 clip)).wr Reg.FTM_STAT_HOLDOVER 0
  let f2 := if step || far || f.tb.first then { f1.raise Reg.FTM_EVT_STEPPED with tb.now := t }
    else f1.steer (b.m4.toNat + 2 ^ 32 * b.m5.fld 0 8)
  if f.tb.first then { f2 with tb.first := false, tb.good := 0, tb.bad := 0 }
  else
    let good := if near then min 16 (f.tb.good + 1) else 0
    let bad := if near then 0 else min 4 (f.tb.bad + 1)
    let f3 := { f2 with tb.good := good, tb.bad := bad }
    if good = 16 then (f3.wr Reg.FTM_STAT_LOCKED 1).wr Reg.FTM_STAT_EVER 1
    else if bad = 4 && f3.on Reg.FTM_STAT_LOCKED then (f3.wr Reg.FTM_STAT_LOCKED 0).raise Reg.FTM_EVT_UNLOCK
    else f3

/-- A read of FTM_NOWFR (R232). -/
def FDie.capture (f : FDie) : FDie :=
  let t := f.tb.now
  (((f.wr Reg.FTM_NOWFR_FRAC (timeFrac t)).wr Reg.FTM_NOWNS_NS (timeNs t)).wr Reg.FTM_NOWSL_SEC (timeSec t % 2 ^ 32)).wr Reg.FTM_NOWSH_SEC
    (timeSec t / 2 ^ 32)

/-- FTM_CYCLE is written by the hub (R245): as R234 states for TIM_CYCLE.EN. -/
def FDie.cycleCfg (f : FDie) (v : Nat) : FDie :=
  let f1 := (f.wr Reg.FTM_CYCLE_NS (v % 2 ^ 23)).wr Reg.FTM_CYCLE_EN (v / 2 ^ 31)
  if bitOf v 31 then
    if f.on Reg.FTM_CYCLE_EN then f1
    else
      let before := f1.tb.now < f1.epoch
      let n := f1.cycleAt f1.tb.now
      { f1.wr Reg.FTM_CYCNUM_N (if before then 0 else n % 2 ^ 32) with tb.running := none, tb.firstAct := if before then 0 else n + 1 }
  else { f1 with tb.running := none }

/-- The field time copy runs on without messages (R246). -/
def FDie.holdover (f : FDie) : FDie :=
  { ((f.wr Reg.FTM_STAT_HOLDOVER 1).raise Reg.FTM_EVT_HOLD).wr Reg.FTM_STAT_LOCKED 0 with tb.good := 0, tb.bad := 0 }

end Sys2Proof.Machine
end

