-- ==== Sys2Proof/Machine/CanOps.lean ====
section
/-! DEFINITION. CAN controllers (chapter 12): elements and filters (R299 to R302), transmit buffers (R305 to R309), error counters (R310), events
(R316), as the commands of the bus, of software and of network management use them. -/
namespace Sys2Proof.Machine

/-- The hidden state of controller n. -/
def FDie.can (f : FDie) (n : Nat) : CanCtx :=
  aget f.cans n
    { order := [], active := none, errTx := false, hits := [], seen := [], modeWait := false, recov := false, armed := false, latch := false,
      kaWait := false, wups := 0, lateAt := [] }

/-- Replace it. -/
def FDie.setCan (f : FDie) (n : Nat) (c : CanCtx) : FDie := { f with cans := aput f.cans n c }

/-- Whether the transmit output of controller n stands recessive whatever comes (R440): without supply or running microcode, in SLEEP, and in INIT. -/
def FDie.canRecessive (f : FDie) (n : Nat) : Bool := f.stage != 0 || f.power == 2 || f.rd (Reg.CAN_STAT_MODE n) == 0

/-- An event of controller n rises (R316): if it was clear and is enabled, one message on the F-die event stream. -/
def FDie.canEvt (f : FDie) (n : Nat) (F : Fld) : FDie :=
  if f.on F then f
  else
    let g := f.raise F
    if bitOf (f.rd (Reg.CAN_EVTEN_EN n)) F.lsb then g.eventMsg 1 n F.lsb else g

/-! ### Elements (Table 12.2) -/

/-- Where an element stands: transmit buffer k of controller n. -/
def txKey (n k : Nat) : Nat := 512 * n + k
/-- Element i of RXQ_j. -/
def rxKey (n j i : Nat) : Nat := 512 * n + 64 + 64 * j + i
/-- The last-frame slot of filter k. -/
def slotKey (n k : Nat) : Nat := 512 * n + 256 + k

/-- The twenty words of an element; one that nothing has written holds 0 (log 29). -/
def FDie.elem (f : FDie) (k : Nat) : List Nat := aget f.elems k (List.replicate 20 0)

/-- Replace an element's words. -/
def FDie.setElem (f : FDie) (k : Nat) (ws : List Nat) : FDie := { f with elems := aput f.elems k ws }

/-- Instance and first word of an element in element memory: 32 transmit buffers, 128 receive elements and 128 slots of ten words each (Table 15.1,
log 181). -/
def elemWord (key : Nat) : Nat × Nat :=
  let o := key % 512
  (97 + key / 512, 10 * (if o < 64 then o else if o < 256 then o - 32 else o - 96))

/-- An element is stored whole. -/
def FDie.storeElem (f : FDie) (k : Nat) (ws : List Nat) : FDie := (f.writeWords (elemWord k).1 (elemWord k).2 10).setElem k ws

/-- Word i of an element. -/
def wordAt (e : List Nat) (i : Nat) : Nat := e.getD i 0

/-- The data bytes that DLC and FDF give (ISO 11898-1): FD codes 9 to 15 stand for 12, 16, 20, 24, 32, 48 and 64. -/
def codeBytes (e1 : Nat) : Nat :=
  let d := e1 % 16
  if d ≤ 8 then d
  else if !bitOf e1 5 then 8
  else [12, 16, 20, 24, 32, 48, 64].getD (d - 9) 64

/-- The data bytes of a frame; a remote frame has none. -/
def dlcBytes (e0 e1 : Nat) : Nat := if bitOf e0 29 then 0 else codeBytes e1

/-- The sixteen data words of an element: bytes beyond the length read 0 (R301). -/
def dataWords (bytes : List Byte) (len : Nat) : List Nat :=
  let b := bytes.take len
  (upto 16).map fun i => leNat (slice b (4 * i) 4)

/-- The data bytes of an element. -/
def elemBytes (e : List Nat) : List Byte := (e.drop 4).flatMap fun w => leBytes 4 w

/-- A receive element's words, with E1's WCNT and NEW (Table 12.2). -/
def rxWords (e0 e1 filter : Nat) (noMat : Bool) (wcnt : Nat) (new : Bool) (time : Nat) (bytes : List Byte) : List Nat :=
  let e1' := e1 % 64 + filter * 256 + b2n noMat * 2 ^ 15 + wcnt % 256 * 2 ^ 16 + b2n new * 2 ^ 31
  [e0, e1', stampOf time % 2 ^ 32, stampOf time / 2 ^ 32] ++ dataWords bytes (dlcBytes e0 e1)

/-- WCNT of an element. -/
def wcntOf (e : List Nat) : Nat := fieldOf (wordAt e 1) 16 8

/-- RX_ELEMENT_STORE (R302): a frame for RXQ_j. -/
def FDie.storeRx (f : FDie) (n j : Nat) (ws : Nat → List Nat) : FDie :=
  let put := f.rd (Reg.CAN_RXQSTAT_PUT n j)
  let fill := f.rd (Reg.CAN_RXQSTAT_FILL n j)
  let ovf := if j = 0 then Reg.CAN_EVT_RXQ0_OVF n else Reg.CAN_EVT_RXQ1_OVF n
  let got := if j = 0 then Reg.CAN_EVT_RXQ0 n else Reg.CAN_EVT_RXQ1 n
  let k := rxKey n j put
  let store := fun (g : FDie) => (g.storeElem k (ws (wcntOf (g.elem k) + 1))).wr (Reg.CAN_RXQSTAT_PUT n j) ((put + 1) % 64)
  if 64 ≤ fill then
    if f.on (Reg.CAN_RXQCFG_OVERWRITE n j) then
      let g := ((store f).wr (Reg.CAN_RXQSTAT_GET n j) ((f.rd (Reg.CAN_RXQSTAT_GET n j) + 1) % 64)).bump (Reg.CAN_RXQOVW_COUNT n j)
      (g.canEvt n ovf).canEvt n got
    else (f.bump (Reg.CAN_RXQLOST_COUNT n j)).canEvt n ovf
  else
    (((store f).wr (Reg.CAN_RXQSTAT_FILL n j) (fill + 1)).wr (Reg.CAN_RXQSTAT_FULL n j) (b2n (decide (fill + 1 = 64)))).canEvt n got

/-- Whether filter k of controller n takes a frame (R299). -/
def FDie.filterTakes (f : FDie) (n e0 : Nat) (k : Nat) : Bool :=
  let mask := f.rd (Reg.CAN_FMSK_MASK n k)
  let ide := fieldOf e0 30 1
  let m := if ide == 0 then mask / 2 ^ 18 * 2 ^ 18 else mask
  f.on (Reg.CAN_FID_EN n k) && ((e0 % 2 ^ 29) ^^^ f.rd (Reg.CAN_FID_ID n k)) &&& m == 0 &&
    (f.rd (Reg.CAN_FID_IDE n k) == ide || !f.on (Reg.CAN_FMSK_IDEM n k)) &&
    !(f.on (Reg.CAN_FCFG_RREJ n) && bitOf e0 29)

/-- The words of a packet, without waiting; the flag says that one was dropped. -/
def pushAll (q : Nat) : List Nat → FDie → FDie × Bool
  | [], f => (f, false)
  | w :: ws, f =>
    let r := f.push q w
    let rest := pushAll q ws (if r.2 then r.1 else r.1.dropPush q)
    (rest.1, rest.2 || !r.2)

/-- The frame goes to the receive stream as a packet (R300): its length word carries ERR where a word was dropped. WCNT and NEW of a packet are open (log 5). -/
def FDie.streamRx (f : FDie) (n e0 e1 filter time : Nat) (bytes : List Byte) : FDie :=
  let r := f.openValue
  let ws := rxWords e0 e1 filter false (r.1 % 256) (r.1 / 256 % 2 == 1) time bytes
  let g := pushAll (272 + n) (ws.take (4 + ceilDiv (dlcBytes e0 e1) 4)) r.2
  let x := g.1.fifo (272 + n)
  let c := (if g.2 then g.1.setFifo { x with err := true } else g.1).commit (272 + n)
  if c.2 then c.1 else (c.1.setFifo { c.1.fifo (272 + n) with err := false }).dropPush (272 + n)

/-- Filter k takes a frame (R300): its destination, its last-frame slot, its counts. -/
def FDie.filterGets (f : FDie) (n k e0 e1 time : Nat) (bytes : List Byte) : FDie :=
  let ws := fun (c : Nat) => rxWords e0 e1 k false c true time bytes
  let dest := f.rd (Reg.CAN_FMSK_DEST n k)
  let f1 := if dest == 0 then f.storeRx n 0 ws else if dest == 1 then f.storeRx n 1 ws
    else if dest == 2 then f.streamRx n e0 e1 k time bytes else f
  let f2 := (f1.storeElem (slotKey n k) (ws (wcntOf (f1.elem (slotKey n k)) + 1))).bump (Reg.CAN_FHIT_COUNT n k)
  let c := f2.can n
  f2.setCan n { c with hits := aput c.hits k (min 255 (aget c.hits k 0 + 1)), seen := if c.seen.contains k then c.seen else k :: c.seen }

/-- A validated frame meets the filters in increasing order (R299): the filter that took it, and the die after. -/
def FDie.offer (f : FDie) (n e0 e1 time : Nat) (bytes : List Byte) : FDie × Option Nat :=
  match (upto 128).find? fun k => f.filterTakes n e0 k with
  | some k => (f.filterGets n k e0 e1 time bytes, some k)
  | none =>
    let f1 := f.bump (Reg.CAN_NOMATCH_COUNT n)
    let ws := fun (c : Nat) => rxWords e0 e1 0 true c true time bytes
    let goesTo := f.rd (Reg.CAN_FCFG_NOMATCH n)
    (if goesTo == 1 then f1.storeRx n 0 ws else if goesTo == 2 then f1.storeRx n 1 ws else f1, none)

/-! ### Transmit buffers (R305 to R309) -/

/-- State of buffer k. -/
def FDie.txState (f : FDie) (n k : Nat) : Nat := f.rd (Reg.CAN_TXB_STATE n k)

/-- Buffer k enters a state; CAN_TXPEND_n shows the waiting ones. -/
def FDie.setTx (f : FDie) (n k st : Nat) : FDie :=
  let c := f.can n
  let order := c.order.filter fun x => x != k
  ((f.wr (Reg.CAN_TXB_STATE n k) st).wr (Reg.CAN_TXPEND_BUF n)
      (setBit (f.rd (Reg.CAN_TXPEND_BUF n)) k (1 ≤ st && st ≤ 3))).setCan n
    { c with order := if st = 2 then order ++ [k] else order,
             active := if st ≠ 3 && c.active.any (fun a => a.1 == k) then none else c.active }

/-- Buffer k belongs to the stream pool (R309). -/
def FDie.inPool (f : FDie) (n k : Nat) : Bool := f.on (Reg.CAN_TXSQ_EN n) && f.rd (Reg.CAN_TXSQ_BASE n) ≤ k

/-- Buffer k ends in DONE with an outcome (R305, R309). -/
def FDie.txDone (f : FDie) (n k outcome : Nat) : FDie :=
  let f1 := ((f.setTx n k 4).wr (Reg.CAN_TXB_OUTCOME n k) outcome).wr (Reg.CAN_TXB_CANPEND n k) 0
  let f2 := f1.wr (Reg.CAN_TXDONE_BUF n) (setBit (f1.rd (Reg.CAN_TXDONE_BUF n)) k true)
  let c := f2.can n
  let f3 := (f2.setCan n { c with lateAt := adel c.lateAt k }).canEvt n (Reg.CAN_EVT_TXDONE n)
  if f.inPool n k && outcome != 1 then (f3.bump (Reg.CAN_SQFAIL_COUNT n)).canEvt n (Reg.CAN_EVT_SQFAIL n) else f3

/-- The contents of a buffer are invalid (R305). -/
def FDie.txInvalid (f : FDie) (n k : Nat) : Bool :=
  let e := f.elem (txKey n k)
  let e0 := wordAt e 0
  let e1 := wordAt e 1
  (bitOf e1 5 && !f.on (Reg.CAN_CTL_FD_ALLOW n)) || (bitOf e1 4 && (!bitOf e1 5 || !f.on (Reg.CAN_CTL_SWITCH_ALLOW n))) ||
    (bitOf e0 29 && bitOf e1 5) || bitOf e0 31 || e1 / 128 != 0

/-- Buffer k, FREE or DONE, is requested (R305): `launch` says whether LAUNCH counts. -/
def FDie.txRequest (f : FDie) (n k : Nat) (launch : Bool) : FDie :=
  if f.txState n k != 0 && f.txState n k != 4 then f
  else
    let f1 := ((f.wr (Reg.CAN_TXB_OUTCOME n k) 0).wr (Reg.CAN_TXB_LATE n k) 0).wr (Reg.CAN_TXB_ATTEMPTS n k) 0
    if f1.txInvalid n k then (f1.txDone n k 5).canEvt n (Reg.CAN_EVT_TXINVALID n)
    else if launch && bitOf (wordAt (f1.elem (txKey n k)) 1) 6 then f1.setTx n k 1
    else f1.setTx n k 2

/-- The pool of controller n (R309): the lowest FREE or DONE pool buffer takes one packet of CAN_TSQ_n and is requested; a bad packet is discarded. The pop is blocking:
at DEPTH 0, or while EN is 0, it waits (R197, R200). -/
def FDie.poolLoad (f : FDie) (n : Nat) : FDie :=
  let q := 256 + n
  match (upto 32).find? fun k => f.inPool n k && (f.txState n k == 0 || f.txState n k == 4) with
  | none => f
  | some k =>
    if !f.on (fifoRegs q).pkt || (f.fifo q).left != 0 then f
    else
      match f.pop q with
      | (g, none) => g.setFifo { g.fifo q with popWait := 1 }
      | (g, some lw) =>
        let r := popMany q (lw % 2 ^ 16) (g.setFifo { g.fifo q with popWait := 0 })
        let e1 := wordAt r.2 1
        if bitOf lw 31 || r.2.length != 4 + ceilDiv (codeBytes e1) 4 then r.1.bump (Reg.CAN_SQBAD_COUNT n)
        else (r.1.storeElem (txKey n k) (r.2 ++ List.replicate (20 - r.2.length) 0)).txRequest n k true

/-- A pool whose pop waits takes the packet that has become visible, and meets its commit, which came first (Table 7.3). -/
def FDie.servePool (f : FDie) (n : Nat) : FDie :=
  let q := 256 + n
  if (f.fifo q).popWait != 0 && f.fifoOn q && !(f.fifo q).words.isEmpty then (f.poolLoad n).wr (fifoRegs q).meet 2 else f

/-- Every pool whose pop waits. -/
def FDie.servePools (f : FDie) : FDie :=
  (f.fifos.filter fun x => x.popWait != 0 && 256 ≤ x.q && x.q < 272).foldl (fun g x => g.servePool (x.q - 256)) f

/-- Cancel of buffer k (R308, R310): in bus-off an ACTIVE one ends as a PENDING one. -/
def FDie.txCancel (f : FDie) (n k : Nat) : FDie :=
  let st := f.txState n k
  if st == 1 || st == 2 || (st == 3 && f.rd (Reg.CAN_ECNT_STATE n) == 2) then f.txDone n k 2
  else if st == 3 then f.wr (Reg.CAN_TXB_CANPEND n k) 1
  else f

/-- The arbitration field of an element as a number whose lower value wins on the bus (ISO 11898-1). -/
def arbKey (e0 : Nat) : Nat :=
  let rtr := fieldOf e0 29 1
  if bitOf e0 30 then fieldOf e0 18 11 * 2 ^ 21 + 2 ^ 20 + 2 ^ 19 + e0 % 2 ^ 18 * 2 + rtr
  else fieldOf e0 18 11 * 2 ^ 21 + rtr * 2 ^ 20

/-- The buffer with the lowest key; the lowest number among equals. -/
def bestTx (key : Nat → Nat) : List Nat → Option Nat
  | [] => none
  | k :: ks =>
    match bestTx key ks with
    | none => some k
    | some j => if key j < key k || (key j == key k && j < k) then some j else some k

/-- The PENDING buffer that the commit point chooses (R306). -/
def FDie.chooseTx (f : FDie) (n : Nat) : Option Nat :=
  if f.on (Reg.CAN_CTL_TXORD n) then (f.can n).order.head?
  else bestTx (fun k => arbKey (wordAt (f.elem (txKey n k)) 0)) (f.can n).order

/-- The ACTIVE buffer of controller n did not get through (R306, R308): retried, or ended. -/
def FDie.txFail (f : FDie) (n k : Nat) : FDie :=
  let f1 := f.bump (Reg.CAN_TXB_ATTEMPTS n k)
  if f1.on (Reg.CAN_TXB_CANPEND n k) then f1.txDone n k 2
  else if f1.on (Reg.CAN_CTL_SINGLE_SHOT n) then f1.txDone n k 6
  else f1.setTx n k 2

/-! ### Error counters (R310) -/

/-- REC with the passive state beyond its seven bits. -/
def FDie.rec_ (f : FDie) (n : Nat) : Nat := f.rd (Reg.CAN_ECNT_REC n) + (if f.on (Reg.CAN_ECNT_RX_PASSIVE n) then 128 else 0)

/-- TEC and REC take values, and the state, WARN and their events follow (R310). TEC above 255 is bus-off; a REC above 128 stays at 128. -/
def FDie.setErr (f : FDie) (n tec rec_ : Nat) : FDie :=
  let rec1 := min rec_ 128
  let passive := 128 ≤ tec || 128 ≤ rec1
  let warn := 96 ≤ tec || 96 ≤ rec1
  let was := f.rd (Reg.CAN_ECNT_STATE n)
  let f1 := (((f.wr (Reg.CAN_ECNT_TEC n) (min tec 255)).wr (Reg.CAN_ECNT_REC n) (rec1 % 128)).wr (Reg.CAN_ECNT_RX_PASSIVE n)
    (b2n (decide (128 ≤ rec1))))
  let f2 := if warn && !f.on (Reg.CAN_ECNT_WARN n) then f1.canEvt n (Reg.CAN_EVT_EWARN n) else f1
  let f3 := f2.wr (Reg.CAN_ECNT_WARN n) (b2n warn)
  if 255 < tec && was != 2 then
    let c := f3.can n
    let f4 := ((f3.wr (Reg.CAN_ECNT_STATE n) 2).setCan n { c with recov := f3.on (Reg.CAN_CTL_AUTO_RECOVER n) }).canEvt n (Reg.CAN_EVT_BOFF n)
    (f4.bump (Reg.CAN_BOCNT_COUNT n)).fault (400 + n) 0x29 255
  else if was == 2 then f3
  else if passive then
    if was == 0 then (f3.wr (Reg.CAN_ECNT_STATE n) 1).canEvt n (Reg.CAN_EVT_EPASS n) else f3
  else f3.wr (Reg.CAN_ECNT_STATE n) 0

/-- Whether the controller takes part in the bus (R295, R310). -/
def FDie.canJoined (f : FDie) (n : Nat) : Bool :=
  f.rd (Reg.CAN_STAT_MODE n) != 0 && f.on (Reg.CAN_STAT_INTEG n) && f.rd (Reg.CAN_ECNT_STATE n) != 2

/-- The error that is signalled is over: another frame, or the bus idle (ISO 11898-1). -/
def FDie.errOver (f : FDie) (n : Nat) : FDie := if (f.can n).errTx then f.setCan n { f.can n with errTx := false } else f

/-- Bus integration begins again (R295, R311). -/
def FDie.integrate (f : FDie) (n : Nat) : FDie := (f.wr (Reg.CAN_STAT_INTEG n) 0).wr (Reg.CAN_STAT_ACT n) 3

/-! ### Bit timing (R296, R297) -/

/-- A configuration of the three timing registers that R297 refuses. -/
def timingBad (ar da sp : Nat) : Bool :=
  let ap := fieldOf ar 0 5 + 1
  let a1 := fieldOf ar 8 8 + 1
  let a2 := fieldOf ar 16 7 + 1
  let aj := fieldOf ar 24 7 + 1
  let dp := fieldOf da 0 5 + 1
  let d1 := fieldOf da 8 5 + 1
  let d2 := fieldOf da 16 4 + 1
  let dj := fieldOf da 24 4 + 1
  let an := ap * (1 + a1 + a2)
  let dn := dp * (1 + d1 + d2)
  a1 < 2 || a2 < aj || d2 < dj || an < 80 || dn < 10 || an < dn || (bitOf sp 15 && 2 < dp)

/-- The three timing registers as written words. -/
def FDie.timing (f : FDie) (n : Nat) : Nat × Nat × Nat :=
  (f.rd (Reg.CAN_ARBT_A_PRESC n) + f.rd (Reg.CAN_ARBT_A_PH1 n) * 2 ^ 8 + f.rd (Reg.CAN_ARBT_A_PH2 n) * 2 ^ 16 + f.rd (Reg.CAN_ARBT_A_SJW n) * 2 ^ 24,
    f.rd (Reg.CAN_DATT_D_PRESC n) + f.rd (Reg.CAN_DATT_D_PH1 n) * 2 ^ 8 + f.rd (Reg.CAN_DATT_D_PH2 n) * 2 ^ 16 + f.rd (Reg.CAN_DATT_D_SJW n) * 2 ^ 24,
    f.rd (Reg.CAN_SSP_SSP_OFS n) + f.rd (Reg.CAN_SSP_SSP_EN n) * 2 ^ 15)

/-- A write of CAN_ARBT_n (0), CAN_DATT_n (1) or CAN_SSP_n (2) (R297). -/
def FDie.timingWrite (f : FDie) (n which v : Nat) : FDie :=
  let t := f.timing n
  let bad := if which = 0 then timingBad v t.2.1 t.2.2 else if which = 1 then timingBad t.1 v t.2.2 else timingBad t.1 t.2.1 v
  if f.rd (Reg.CAN_STAT_MODE n) != 0 || bad then f.canEvt n (Reg.CAN_EVT_CFG_REFUSED n)
  else if which = 0 then
    (((f.wr (Reg.CAN_ARBT_A_PRESC n) (fieldOf v 0 5)).wr (Reg.CAN_ARBT_A_PH1 n) (fieldOf v 8 8)).wr (Reg.CAN_ARBT_A_PH2 n)
      (fieldOf v 16 7)).wr (Reg.CAN_ARBT_A_SJW n) (fieldOf v 24 7)
  else if which = 1 then
    (((f.wr (Reg.CAN_DATT_D_PRESC n) (fieldOf v 0 5)).wr (Reg.CAN_DATT_D_PH1 n) (fieldOf v 8 5)).wr (Reg.CAN_DATT_D_PH2 n)
      (fieldOf v 16 4)).wr (Reg.CAN_DATT_D_SJW n) (fieldOf v 24 4)
  else (f.wr (Reg.CAN_SSP_SSP_OFS n) (fieldOf v 0 7)).wr (Reg.CAN_SSP_SSP_EN n) (fieldOf v 15 1)

end Sys2Proof.Machine
end

