-- ==== Sys2Proof/Machine/EngineOps.lean ====
section
/-! DEFINITION. The engines as machines (chapters 10 and 11): issue, stalls, halts, faults (R251, R276, R288), swaps (R290, R291), shifting (R258 to
R260, R283), waiting and acting (R264, R265, R285, R286), and what a stalled engine does when its condition is met. -/
namespace Sys2Proof.Machine

/-- The hidden state of engine n. -/
def FDie.eng (f : FDie) (n : Nat) : EngCtx := aget f.engs n { ir := 0, last := 0, held := false }

/-- Replace it. -/
def FDie.setEng (f : FDie) (n : Nat) (e : EngCtx) : FDie := { f with engs := aput f.engs n e }

/-- Engine n is enabled (R252). -/
def FDie.engOn (f : FDie) (n : Nat) : Bool := bitOf (f.rd (Reg.MAR_CEN_EN (n / 8))) (n % 8)

/-- Engine n waits for the reason `r` (Table 10.1). -/
def FDie.stalledAt (f : FDie) (n r : Nat) : Bool := f.stage == 0 && f.er Reg.MAR_ESTAT_STATE n == 2 && f.er Reg.MAR_ESTAT_STALL n == r

/-- Engine n goes on: RUNNING, no stall. -/
def FDie.engGo (f : FDie) (n : Nat) : FDie := (f.ew Reg.MAR_ESTAT_STATE n 1).ew Reg.MAR_ESTAT_STALL n 0

/-- Engine n waits in instruction `w` for the reason `r`. On an empty transmit FIFO it asks the ENG function (Table 17.1). -/
def FDie.engStall (f : FDie) (n r w : Nat) : FDie :=
  let f1 := ((f.ew Reg.MAR_ESTAT_STATE n 2).ew Reg.MAR_ESTAT_STALL n r).setEng n { f.eng n with ir := w }
  if r == 1 then f1.want 6 (n + 1 * 256) (f.fifo n).stored n
  else if r == 3 then f1.want 6 (n + 2 * 256) (f.fifo n).stored n
  else f1

/-- The word that engine n issues next (R289). -/
def FDie.fetch (f : FDie) (n : Nat) : Nat :=
  f.rd (Reg.MAR_IMEM_WORD (n / 8) (512 * f.rd (Reg.MAR_CCTL_ACTIVE (n / 8)) + f.er Reg.MAR_ESTAT_PC n))

/-! ### Times of R264 -/

/-- A stamp plus a signed number of nanoseconds, with carry and borrow (R279). -/
def stampAdd (s : Nat) (v : Int) : Nat :=
  let t : Int := ((1000000000 * (s / 2 ^ 30) + s % 2 ^ 30 : Nat) : Int) + v
  let u := (t % ((2 ^ 34 * 1000000000 : Nat) : Int)).toNat
  2 ^ 30 * (u / 1000000000) + u % 1000000000

/-- The time that a stamp names. -/
def stampTime (s : Nat) : Nat := secT * (s / 2 ^ 30) + 2 ^ 32 * (s % 2 ^ 30)

/-- The field time has reached TCMP of engine n (R264). -/
def FDie.reached (f : FDie) (n : Nat) : Bool := decide (f.er Reg.MAR_ETCMP_TCMP n ≤ stampOf f.tb.now)

/-! ### Swaps (R290, R291) -/

/-- The engines of cluster c. -/
def engsOf (c : Nat) : List Nat := (upto 8).map fun k => 8 * c + k

/-- Every enabled engine of cluster c that is not HALTED waits at a SYNC. -/
def FDie.allAtSync (f : FDie) (c : Nat) : Bool :=
  (engsOf c).all fun n => !f.engOn n || f.er Reg.MAR_ESTAT_STATE n == 3 || f.stalledAt n 8

/-- Engine n starts at its ENTRY. -/
def FDie.toEntry (f : FDie) (n : Nat) : FDie := (f.engGo n).ew Reg.MAR_ESTAT_PC n (f.er Reg.MAR_ECFG_ENTRY n)

/-- BANK_SWAP (R290): with a swap pending and every engine at its SYNC, the banks swap and the engines go on at ENTRY. -/
def FDie.trySwap (f : FDie) (c : Nat) : FDie :=
  if f.on (Reg.MAR_CCTL_SWAP_PEND c) && f.allAtSync c then
    let f1 := (f.wr (Reg.MAR_CCTL_ACTIVE c) (1 - f.rd (Reg.MAR_CCTL_ACTIVE c))).wr (Reg.MAR_CCTL_SWAP_PEND c) 0
    (engsOf c).foldl (fun g n => if g.engOn n && g.stalledAt n 8 then g.toEntry n else g) f1
  else f

/-- A forced swap takes place (R291): a stalled or holding engine abandons its instruction. -/
def FDie.forceSwap (f : FDie) (c : Nat) : FDie :=
  let f1 := { f.wr (Reg.MAR_CCTL_ACTIVE c) (1 - f.rd (Reg.MAR_CCTL_ACTIVE c)) with forcing := f.forcing.filter fun x => x != c }
  (engsOf c).foldl
    (fun g n =>
      if !g.engOn n || g.er Reg.MAR_ESTAT_STATE n == 3 then g
      else
        let left := (g.er Reg.MAR_ESTAT_STATE n == 2 && !g.stalledAt n 8) || (g.eng n).held
        let g1 := if left then g.ew Reg.MAR_EEVT_ABANDON n 1 else g
        let g2 := if (g.eng n).held then g1.setEng n { g1.eng n with held := false } else g1
        g2.toEntry n)
    f1

/-- Engine n halts (R288). -/
def FDie.engHalt (f : FDie) (n cause pc : Nat) : FDie :=
  let f1 := ((((f.ew Reg.MAR_ESTAT_STATE n 3).ew Reg.MAR_ESTAT_STALL n 0).ew Reg.MAR_EEVT_FAULT n 1).ew Reg.MAR_EFLT_CAUSE n cause).ew
    Reg.MAR_EFLT_PC n pc
  (f1.fault (272 + n) 0x28 (cause + pc * 256)).trySwap (n / 8)

/-- MAR_CEN_c is written (R252): a bit that is set starts its engine at ENTRY, a bit that is cleared stops it. -/
def FDie.clusterEnable (f : FDie) (c v : Nat) : FDie :=
  let old := f.rd (Reg.MAR_CEN_EN c)
  let f1 := f.wr (Reg.MAR_CEN_EN c) (v % 256)
  let f2 := (upto 8).foldl
    (fun g k =>
      let n := 8 * c + k
      if bitOf v k && !bitOf old k then g.toEntry n
      else if !bitOf v k && bitOf old k then
        let g1 := (g.ew Reg.MAR_ESTAT_STATE n 0).ew Reg.MAR_ESTAT_STALL n 0
        if (g1.eng n).held then g1.setEng n { g1.eng n with held := false } else g1
      else g)
    f1
  f2.trySwap c

/-! ### Checks at issue (R277, R288) -/

/-- Bits that Table 11.2 leaves reserved for an opcode. -/
def reservedMask (op : Nat) : Nat :=
  match op with
  | 0x01 => 0x07FF0000
  | 0x02 => 0x00040000
  | 0x03 => 0x00010000
  | 0x04 => 0x00FFFFFF
  | 0x05 => 0x00FFFFFF
  | 0x06 => 0x07FFFFFF
  | 0x07 => 0x0007FFFF
  | 0x08 => 0x0007FFFF
  | 0x09 => 0x0007FFFF
  | 0x0A => 0x0007FFFF
  | 0x0B => 0x00300000
  | 0x0C => 0x0007FFFF
  | 0x0D => 0x000FFFFF
  | 0x0E => 0x000FFFFF
  | 0x0F => 0x0003FFFF
  | 0x10 => 0
  | 0x11 => 0x03FFFFFF
  | 0x12 => 0x07FF0000
  | _ => 0x07FFFFFF

/-- COUNT of a shift, 0 acting as 32. -/
def shCount (w : Nat) : Nat := if fieldOf w 21 6 = 0 then 32 else fieldOf w 21 6

/-- Bits per step of a shift. -/
def shWidth (w : Nat) : Nat := 2 ^ fieldOf w 19 2

/-- Operands that Table 11.5 calls BAD_OPERAND. -/
def badOperand (op w : Nat) : Bool :=
  match op with
  | 0x02 =>
    let src := fieldOf w 24 3
    let rel := fieldOf w 21 3
    let step := fieldOf w 19 2
    src == 7 || 6 ≤ rel || step == 3 || (step != 0 && src != 1 && src != 2) ||
      (src == 0 && (rel != 0 || step != 0 || fieldOf w 0 9 != 0))
  | 0x03 =>
    let dst := fieldOf w 23 4
    let o := fieldOf w 17 3
    9 ≤ dst || fieldOf w 20 3 == 7 || (5 ≤ dst && o != 0) || (1 ≤ o && o ≤ 5 && 2 ≤ dst)
  | 0x04 => 2 < fieldOf w 24 3
  | 0x05 => 3 < fieldOf w 24 3
  | 0x07 | 0x08 | 0x09 | 0x0A => 32 < fieldOf w 21 6 || shCount w % shWidth w != 0
  | 0x0D | 0x0E => 72 ≤ fieldOf w 20 7
  | 0x0F => 72 ≤ fieldOf w 20 7 || (bitOf w 18 && !bitOf w 19)
  | 0x10 =>
    let act := fieldOf w 25 2
    let arg := fieldOf w 16 8
    ((act == 0 || act == 2) && arg != 0) || (act == 1 && fieldOf arg 5 2 != 0) || (act == 3 && 72 ≤ arg % 128)
  | _ => false

/-- A pin at or beyond its group (Table 11.5). -/
def FDie.pinRange (f : FDie) (n op w : Nat) : Bool :=
  let ic := f.er Reg.MAR_EPIN_IN_CNT n
  match op with
  | 0x02 => fieldOf w 24 3 == 3 && fieldOf w 0 9 / 2 ^ ic != 0
  | 0x0C => ic ≤ fieldOf w 22 5
  | 0x10 => (bitOf w 24 && ic == 0) || (fieldOf w 25 2 == 1 && f.er Reg.MAR_EPIN_OUT_CNT n ≤ fieldOf w 16 5)
  | _ => false

/-- ENGINE_FAULT (R288): the first cause of Table 11.5 that an instruction meets, in the table's order (log 27). -/
def FDie.engFault (f : FDie) (n w : Nat) : Option Nat :=
  let op := fieldOf w 27 5
  if op == 0 || 0x14 ≤ op then some 1
  else if w &&& reservedMask op != 0 then some 2
  else if badOperand op w then some 3
  else if f.pinRange n op w then some 4
  else if op == 0x03 && fieldOf w 23 4 == 8 && !f.on Reg.FTM_CYCLE_EN then some 5
  else if op == 0x06 && !f.on (fifoRegs (128 + n)).pkt then some 6
  else none

/-- PUSH_LEN, STAMP, and MOV with a TCMP destination: what a forced swap holds (R291). -/
def twoClock (w : Nat) : Bool :=
  fieldOf w 27 5 == 6 || fieldOf w 27 5 == 0x11 || (fieldOf w 27 5 == 3 && 5 ≤ fieldOf w 23 4)

/-- Engine n, RUNNING, issues the word at PC if its opcode is `op` (R276): held unissued before a forced swap (R291), else checked (R288) and performed
with PC naming the next word (log 28). An uncorrectable word reads 0, and the engine halts (Table 15.2). Engines are stopped while no microcode
runs (R417). -/
def FDie.issue (f0 : FDie) (n op : Nat) (g : Nat → FDie → FDie) : FDie :=
  let pc := f0.er Reg.MAR_ESTAT_PC n
  let r := f0.fetchCheck 0xFF 0xB (n / 8) (f0.rd (Reg.MAR_CCTL_ACTIVE (n / 8))) pc
  let f := r.1
  let w := if r.2 then 0 else f0.fetch n
  if f0.er Reg.MAR_ESTAT_STATE n != 1 || (f0.eng n).held || f0.stage != 0 then f0
  else if r.2 then f.engHalt n 1 pc
  else if fieldOf w 27 5 != op then f0
  else
    if f.forcing.contains (n / 8) && twoClock w then f.setEng n { f.eng n with held := true }
    else
      match f.engFault n w with
      | some cause => f.engHalt n cause pc
      | none => g w (f.ew Reg.MAR_ESTAT_PC n ((pc + 1) % 512))

/-! ### Registers of an engine -/

/-- OSR is loaded with a word (R259, R260). -/
def FDie.loadOsr (f : FDie) (n v : Nat) : FDie :=
  ((f.ew Reg.MAR_EOSR_OSR n v).ew Reg.MAR_ECNT_OSR_CNT n 0).setEng n { f.eng n with last := v }

/-- ISR is loaded with a word. -/
def FDie.loadIsr (f : FDie) (n v : Nat) : FDie := (f.ew Reg.MAR_EISR_ISR n v).ew Reg.MAR_ECNT_ISR_CNT n 0

/-- A threshold of 0 or above 32 acts as 32 (R258). -/
def thr (v : Nat) : Nat := if v = 0 || 32 < v then 32 else v

/-- Bits left in OSR before PULL_THR. -/
def FDie.outLeft (f : FDie) (n : Nat) : Nat := thr (f.er Reg.MAR_ESHIFT_PULL_THR n) - f.er Reg.MAR_ECNT_OSR_CNT n

/-- Bits that ISR still takes before PUSH_THR. -/
def FDie.inLeft (f : FDie) (n : Nat) : Nat := thr (f.er Reg.MAR_ESHIFT_PUSH_THR n) - f.er Reg.MAR_ECNT_ISR_CNT n

/-- The number with its 32 bits in reverse order. -/
def reverse32 (v : Nat) : Nat := ((upto 32).map fun i => fieldOf v i 1 * 2 ^ (31 - i)).sum

/-! ### Inputs and WAIT_PIN (R256, R257, R285) -/

/-- A WAIT_PIN ends: TMO tells how. -/
def FDie.endWait (f : FDie) (n : Nat) (tmo : Bool) : FDie := (f.ew Reg.MAR_ECOND_TMO n (b2n tmo)).engGo n

/-- Whether a change to level v satisfies COND. -/
def condChange (cond : Nat) (v : Bool) : Bool := if cond == 0 || cond == 2 then !v else v

/-- The pin of a waiting WAIT_PIN has the level that COND 0 or COND 1 names (R285). -/
def FDie.levelMet (f : FDie) (n w : Nat) : Bool := fieldOf w 20 2 == b2n (f.inPin n (fieldOf w 22 5))

/-- WAIT_PIN_SATISFIED (R257, R285): the engines that wait on line l meet its change to level v. An edge that COND 2 or COND 3 waited for writes EDGE, the
time of the change at the ball. -/
def pinPass (l : Nat) (v : Bool) : List Nat → FDie → FDie
  | [], f => f
  | n :: ns, f =>
    let w := (f.eng n).ir
    let pin := fieldOf w 22 5
    if f.stalledAt n 5 && pin < f.er Reg.MAR_EPIN_IN_CNT n && f.inLine n pin == l && condChange (fieldOf w 20 2) v then
      let lag := ofNs 5 + ofNs (10 * f.rd (Reg.FIO_CFG_FILT l))
      let g := if fieldOf w 20 2 < 2 then f else f.ew Reg.MAR_EEDGE_EDGE n (stampOf (f.tb.now - lag))
      pinPass l v ns (g.endWait n false)
    else pinPass l v ns f

/-- An accepted change of line l's input (R257). -/
def FDie.levelChange (f : FDie) (l : Nat) (v : Bool) : FDie :=
  if f.level l == v then f
  else
    let f1 := (f.wr (Reg.FIO_IN_LEVEL l) (b2n v)).raise (if v then Reg.FIO_EVT_RISE l else Reg.FIO_EVT_FALL l)
    pinPass l v (f1.engs.map (·.1)) f1

/-- INPUT_LEVEL_CHANGE (R257): the synchroniser and the filter accept a level at the ball of line l; INV, and a bank without FVIO, follow. -/
def FDie.inputLevel (f : FDie) (l : Nat) (v : Bool) : FDie :=
  let f1 := { f with high := if v then insertUp l f.high else f.high.filter fun x => x != l }
  f1.levelChange l (f1.inLevel l)

/-- The inputs of a bank follow its FVIO (R256). -/
def FDie.bankInputs (f : FDie) (b : Nat) : FDie := (upto 32).foldl (fun g i => g.levelChange (32 * b + i) (g.inLevel (32 * b + i))) f

/-- FVIO_b is judged (R256, R461): outputs and inputs of the bank follow; its source raises a fault when it leaves its range (Table 16.4). -/
def FDie.judgeFvio (f : FDie) (b : Nat) : FDie :=
  let g := if f.power == 2 then f.showFvio b else (f.showFvio b).bankInputs b
  g.outOf (262 + b) 0 0x2B (g.rd (Reg.FIO_BSTAT_PRESENT b)) (!g.bankGood b)

/-! ### Shifting -/

/-- One step of W bits from OSR onto the output group (R258, R283): the bits that enter OSR behind them are open (log 5). -/
def FDie.outStep (f : FDie) (n w : Nat) : FDie :=
  let v := f.er Reg.MAR_EOSR_OSR n
  let r := f.openValue
  let fill := r.1 % 2 ^ w
  let right := f.er Reg.MAR_ESHIFT_OUT_RIGHT n == 1
  let bits := ((upto w).map fun i => (if right then fieldOf v i 1 else fieldOf v (31 - i) 1) * 2 ^ i).sum
  let v1 := if right then v / 2 ^ w + fill * 2 ^ (32 - w) else v * 2 ^ w % 2 ^ 32 + fill
  ((((r.2.ew Reg.MAR_EOSR_OSR n v1).ew Reg.MAR_ECNT_OSR_CNT n (f.er Reg.MAR_ECNT_OSR_CNT n + w)).ew Reg.MAR_ECNT_SHIFT_CNT n
    (f.er Reg.MAR_ECNT_SHIFT_CNT n + w)).driveMany n 0 w bits)

/-- The steps of SHIFT_OUT, or of SHIFT_OUT_NB (R259, R260). -/
def outSteps (nb : Bool) (n w : Nat) : Nat → FDie → FDie
  | 0, f => f.engGo n
  | k + 1, f =>
    if f.outLeft n < shWidth w then
      match f.pop n with
      | (g, some v) => outSteps nb n w k ((g.loadOsr n v).outStep n (shWidth w))
      | (g, none) =>
        if nb then
          let g1 := ((g.loadOsr n (g.eng n).last).ew Reg.MAR_EEVT_STALE_O n 1).bump (Reg.MAR_ESTALE_OUT (n / 8) (n % 8))
          outSteps nb n w k ((g1.want 6 (n + 3 * 256) (g.fifo n).stored n).outStep n (shWidth w))
        else g.engStall n 3 w
    else outSteps nb n w k (f.outStep n (shWidth w))

/-- W bits of the input group enter ISR, pin 0 first (R258, R283). -/
def FDie.inStep (f : FDie) (n w bits : Nat) : FDie :=
  let right := f.er Reg.MAR_ESHIFT_IN_RIGHT n == 1
  let v := (upto w).foldl (fun a i => if right then a / 2 + fieldOf bits i 1 * 2 ^ 31 else a * 2 % 2 ^ 32 + fieldOf bits i 1)
    (f.er Reg.MAR_EISR_ISR n)
  (f.ew Reg.MAR_EISR_ISR n v).ew Reg.MAR_ECNT_ISR_CNT n (f.er Reg.MAR_ECNT_ISR_CNT n + w)

/-- A full ISR is emptied without waiting (R260): pushed where there is room, else given up. -/
def FDie.emptyIsrNb (f : FDie) (n : Nat) : FDie :=
  let r := f.push (128 + n) (f.er Reg.MAR_EISR_ISR n)
  let g := r.1.ew Reg.MAR_ECNT_ISR_CNT n 0
  if r.2 then g else (g.ew Reg.MAR_EEVT_STALE_I n 1).bump (Reg.MAR_ESTALE_IN (n / 8) (n % 8))

/-- The levels at the balls of the input group at a step, pin i in bit i, are accepted (R257); with none given they are as they stand. -/
def FDie.present (f : FDie) (n : Nat) (levels : List Nat) : FDie :=
  match levels with
  | l :: _ => (upto (f.er Reg.MAR_EPIN_IN_CNT n)).foldl (fun g i => g.inputLevel (g.inLine n i) (bitOf l i)) f
  | [] => f

/-- The steps of SHIFT_IN, or of SHIFT_IN_NB (R259, R260). -/
def inSteps (nb : Bool) (n w : Nat) : Nat → List Nat → FDie → FDie
  | 0, _, f => f.engGo n
  | k + 1, ls, f =>
    let go := fun (f1 : FDie) =>
      let g := f1.present n ls
      inSteps nb n w k (ls.drop 1) ((g.inStep n (shWidth w) (g.inPins n (shWidth w))).ew Reg.MAR_ECNT_SHIFT_CNT n
        (g.er Reg.MAR_ECNT_SHIFT_CNT n + shWidth w))
    if f.inLeft n < shWidth w then
      if nb then go (f.emptyIsrNb n)
      else
        let v := f.er Reg.MAR_EISR_ISR n
        if f.on (fifoRegs (128 + n)).nb then go ((f.pushNb (128 + n) v).ew Reg.MAR_ECNT_ISR_CNT n 0)
        else
          match f.push (128 + n) v with
          | (g, true) => go (g.ew Reg.MAR_ECNT_ISR_CNT n 0)
          | (g, false) => g.engStall n 4 w
    else go f

/-- Steps that a shift has still to do. -/
def FDie.stepsLeft (f : FDie) (n w : Nat) : Nat := (shCount w - f.er Reg.MAR_ECNT_SHIFT_CNT n) / shWidth w

/-! ### FIFO instructions (R284) -/

/-- PULL takes the oldest visible word, or stalls. -/
def FDie.doPull (f : FDie) (n w : Nat) : FDie :=
  match f.pop n with
  | (g, none) => g.engStall n 1 w
  | (g, some v) =>
    (match fieldOf w 24 3 with
      | 0 => g.loadOsr n v
      | 1 => g.ew Reg.MAR_EX_X n v
      | _ => g.ew Reg.MAR_EY_Y n v).engGo n

/-- The source of a PUSH. -/
def FDie.pushSrc (f : FDie) (n s : Nat) : Nat :=
  match s with
  | 0 => f.er Reg.MAR_EISR_ISR n
  | 1 => f.er Reg.MAR_EOSR_OSR n
  | 2 => f.er Reg.MAR_EX_X n
  | _ => f.er Reg.MAR_EY_Y n

/-- PUSH: a full FIFO stalls it, or drops the word with NBPUSH. -/
def FDie.doPush (f : FDie) (n w : Nat) : FDie :=
  let s := fieldOf w 24 3
  let v := f.pushSrc n s
  let done := fun (g : FDie) => ((if s == 0 then g.loadIsr n 0 else g).engGo n)
  match f.push (128 + n) v with
  | (g, true) => done g
  | (g, false) => if f.on (fifoRegs (128 + n)).nb then done (g.dropPush (128 + n)) else g.engStall n 2 w

/-- PUSH_LEN commits the packet (R195, R284). -/
def FDie.doPushLen (f : FDie) (n w : Nat) : FDie :=
  match f.commit (128 + n) with
  | (g, true) => g.engGo n
  | (g, false) => if f.on (fifoRegs (128 + n)).nb then (g.dropPush (128 + n)).engGo n else g.engStall n 2 w

/-! ### Strings and waiting engines (R261, R262) -/

/-- Engine n waits for level v of string s of cluster c. -/
def FDie.waitsString (f : FDie) (n c s : Nat) (v : Bool) : Bool :=
  let w := (f.eng n).ir
  f.stalledAt n 6 && fieldOf w 20 7 == s && (s < 64 || n / 8 == c) && bitOf w 19 == v

/-- The waiting engines, in increasing number, meet level v of a string: one TAKE is served (R262). -/
def stringPass (c s : Nat) (v : Bool) : List Nat → FDie × Bool → FDie × Bool
  | [], r => r
  | n :: ns, (f, taken) =>
    if f.waitsString n c s v then
      if bitOf (f.eng n).ir 18 then
        if taken then stringPass c s v ns (f, taken) else stringPass c s v ns (f.engGo n, true)
      else stringPass c s v ns (f.engGo n, taken)
    else stringPass c s v ns (f, taken)

/-- WAIT_STRING_SATISFIED (R261): after a change of a string; a take clears it, which others may wait for. -/
def FDie.wakeString (f : FDie) (c s : Nat) : FDie :=
  let r := stringPass c s (f.string c s) (f.engs.map (·.1)) (f, false)
  if r.2 then
    let g := r.1.setString c s false
    (stringPass c s false (g.engs.map (·.1)) (g, false)).1
  else r.1

/-- SET_STRING or CLR_STRING of string s by cluster c, and who waited for it. -/
def FDie.changeString (f : FDie) (c s : Nat) (set met : Bool) : FDie :=
  (if set then f.strSet c s met else f.strClr c s met).wakeString c s

/-! ### AT (R264, R265, R286) -/

/-- The action of AT (R286); `met`: a change of the other kind meets the string's in one field clock (R262). -/
def FDie.atAction (f : FDie) (n act arg : Nat) (met : Bool) : FDie :=
  if act == 1 then f.drive n (arg % 32) (bitOf arg 7)
  else if act == 2 then f.driveMany n 0 (f.er Reg.MAR_EPIN_OUT_CNT n) (f.er Reg.MAR_EX_X n)
  else if act == 3 then f.changeString (n / 8) (arg % 128) (bitOf arg 7) met
  else f

/-- With IN, AT takes input group pin 0 as a one-bit step of SHIFT_IN_NB (R286). -/
def FDie.atInput (f : FDie) (n : Nat) : FDie :=
  let g := if f.inLeft n < 1 then f.emptyIsrNb n else f
  g.inStep n 1 (g.inPins n 1)

/-- AT acts (R286): its action, its input step, and ADV added to TCMP. -/
def FDie.atAct (f : FDie) (n w : Nat) (met : Bool) : FDie :=
  let f1 := f.atAction n (fieldOf w 25 2) (fieldOf w 16 8) met
  let f2 := if bitOf w 24 then f1.atInput n else f1
  let t := stampAdd (f2.er Reg.MAR_ETCMP_TCMP n) ((fieldOf w 0 16 : Nat) : Int)
  (f2.ew Reg.MAR_ETCMP_TCMP n t).engGo n

/-- AT acts late (R265): every part, with LATE set and counted. -/
def FDie.atLate (f : FDie) (n w : Nat) (met : Bool) : FDie :=
  (((f.ew Reg.MAR_EEVT_LATE n 1).bump (Reg.MAR_EATLATE_COUNT (n / 8) (n % 8))).atAct n w met)

/-! ### Stalled engines go on -/

/-- An engine that a FIFO stalled goes on where the FIFO now serves it; a pop that waited at DEPTH 0 meets the push (Table 7.3). One that waits for a
pin's level, which a write of its window or of INV moved, meets it too (R251). -/
def FDie.retry (f : FDie) (n : Nat) : FDie :=
  let w := (f.eng n).ir
  if f.stalledAt n 1 then
    if (f.fifo n).words.isEmpty || !f.fifoOn n then f else ((f.engGo n).wr (fifoRegs n).meet 2).doPull n w
  else if f.stalledAt n 3 then
    if (f.fifo n).words.isEmpty || !f.fifoOn n then f
    else outSteps false n w (f.stepsLeft n w) ((f.engGo n).wr (fifoRegs n).meet 2)
  else if f.stalledAt n 2 then (if fieldOf w 27 5 == 6 then f.doPushLen n w else f.doPush n w)
  else if f.stalledAt n 4 then inSteps false n w (f.stepsLeft n w) [] f
  else if f.stalledAt n 5 && f.levelMet n w then f.endWait n false
  else f

/-- Every stalled engine, in increasing number. -/
def FDie.retryAll (f : FDie) : FDie := (f.engs.map (·.1)).foldl (fun g n => g.retry n) f

/-- Engines, the barrier's ends and the stream pools go on while the distributor still has a message that it can take. -/
def settleLoop : Nat → FDie → FDie
  | 0, f => f.flow.servePools.retryAll
  | k + 1, f =>
    let g := f.flow.servePools.retryAll
    if g.distribute.isSome then settleLoop k g else g.servePops.pump

/-- What a command leads to on the field die: stalled engines and the ends of the FIFOs go on. -/
def FDie.settle (f : FDie) : FDie := if f.stage != 0 then f else settleLoop ((f.fifo 291).words.length / 8) f

/-- A forward change of the field time passes TCMP of engines that wait (R265, R285). -/
def FDie.passTime (f : FDie) : FDie :=
  (f.engs.map (·.1)).foldl
    (fun g n =>
      if g.stalledAt n 7 && g.reached n then g.atLate n (g.eng n).ir false
      else if g.stalledAt n 5 && bitOf (g.eng n).ir 19 && g.reached n then g.endWait n true
      else g)
    f

/-! ### Requests cross to the host die -/

/-- An ENG request is made only for an engine whose SPL_ENGSEL bit is set and that has none outstanding (Table 17.1). -/
def askAllowed (h : HDie) (a : Ask) : Bool :=
  if a.func == 6 then
    bitOf (h.rd (Reg.SPL_ENGSEL_ENG (a.ctx / 32))) (a.ctx % 32) && !(h.spl.reqs.any fun r => r.func == 6 && r.ctx == a.ctx)
  else true

/-- What MEM's common registers count of the field die (R370). -/
def HDie.memTally (h : HDie) (a : Ask) : HDie :=
  let h1 := h.memCount (a.detail0 % 2 ^ 32) (a.detail0 / 2 ^ 32)
  let h2 := if bitOf a.detail1 0 then h1.raise Reg.MEM_EVT_CFG_REFUSED else h1
  if bitOf a.detail1 1 then h2.raise Reg.MEM_EVT_REMAP_FULL else h2

/-- A remap candidate of the field die meets SCB (R367, R396): in HW, without a token, or while the link is down, it is remapped. -/
def scbField (a : Ask) (s : State) : State :=
  let i := a.ctx % 256
  let w := a.ctx / 256
  if !s.linked || s.h.modeOf 14 == 0 then { s with f := s.f.memRemap i w }
  else if s.h.mayAsk 14 then
    { s with h := s.h.ask 14 a.detail0 a.detail1 a.ctx, f := s.f.memDone (s.f.mem.asking i w true) false }
  else { s with h := s.h.bump (Reg.SPL_FCNT_DEFAULTED 14), f := s.f.memRemap i w }

/-- The requests of F-die units reach the function split while the barrier link is up (R394, R396): an event that finds no token is decided as
in HW and counted. -/
def deliverAsks : List Ask → State → State
  | [], s => s
  | a :: as_, s =>
    deliverAsks as_
      (if a.func == 100 then (if s.h.boot.inReset then s else { s with h := s.h.memTally a })
       else if a.func == 14 then scbField a s
       else if !s.linked || s.h.modeOf a.func == 0 || !askAllowed s.h a then s
       else if s.h.mayAsk a.func then { s with h := s.h.ask a.func a.detail0 a.detail1 a.ctx }
       else { s with h := s.h.bump (Reg.SPL_FCNT_DEFAULTED a.func) })

/-- One round of requests: what a remap counts in turn makes a second. -/
def askRound (s : State) : State := deliverAsks s.f.asks { s with f.asks := [] }

/-- The F-die's requests leave with the command that made them. -/
def askAll (s : State) : State :=
  if s.f.asks.isEmpty then s
  else
    let t := askRound (askRound s)
    { t with h := t.h.settle, f.asks := [] }

/-- The end of COOL is the deadline of the FDP requests about a channel (Table 17.1): `was` is the field die before. -/
def coolsEnd (was : FDie) (s : State) : State :=
  let left := (upto 4).filter fun n => was.rd (Reg.FED_STAT_STATE n) == 4 && s.f.rd (Reg.FED_STAT_STATE n) != 4
  { s with h := left.foldl (fun h n => h.lapse 7 n) s.h }

/-- What a change of the field die leads to: stalled engines that it serves go on; requests leave, and those that it ends do. -/
def fieldAct (g : FDie → FDie) (s : State) : State := coolsEnd s.f (askAll { s with f := (g s.f).settle })

/-- A command of the field die: its effect, and what either die leaves for the barrier is sent. -/
def onField (g : FDie → FDie) (s : State) : Host.Outcome State Fault Refusal :=
  .next { carryF (carryH (fieldAct g s)) with pending := s.pending }

/-- An event of a unit that runs in RUN alone (Table 13.1). -/
def onE (g : FDie → FDie) (s : State) : Host.Outcome State Fault Refusal := onField (fun f => if f.power = 0 then g f else f) s

/-- An event of a unit that runs in STANDBY too (Table 13.1): feed controllers and the field time copy. -/
def onStandby (g : FDie → FDie) (s : State) : Host.Outcome State Fault Refusal := onField (fun f => if f.power ≤ 1 then g f else f) s

/-- Software accesses the field die: it ends STANDBY (R322), and cannot reach a die in SLEEP (R321). -/
def onWrite (g : FDie → FDie) (s : State) : Host.Outcome State Fault Refusal := onField (fun f => if f.power ≤ 1 then g f.toRun else f) s

/-- The same for a register of a unit: one that the variant lacks ignores it (R3). -/
def onUnit (absent : FDie → Bool) (g : FDie → FDie) (s : State) : Host.Outcome State Fault Refusal :=
  onWrite (fun f => if absent f then f else g f) s

end Sys2Proof.Machine
end

