-- ==== Sys2Proof/Machine/Engine.lean ====
section
/-! DEFINITION. The commands of the spill FIFOs (chapter 7), of the engines' registers, strings and lines (chapter 10), and of the engine
instruction set (chapter 11). An instruction command names the engine; what it does is the word of its cluster's active bank at PC. -/
namespace Sys2Proof.Machine

/-! ### FIFOs (Table 7.1, Table 7.3). `met`: the operation falls in one field clock with the one before it at the same FIFO. -/

/-- FIFO_PUSH (R193, R198): a hardware push. It waits where the FIFO is full, unless its end is non-blocking. -/
def FDie.hwPush (f : FDie) (q w : Nat) (met : Bool) : FDie :=
  let f1 := f.meets q false met
  if (272 ≤ q && q < 288) || f1.on (fifoRegs q).nb then f1.pushNb q w else f1.pushWait q [some w]

def execFifoPush (q : Fin 292) (w : Word) (met : Bool) (s : State) : Host.Outcome State Fault Refusal :=
  onE (fun f => f.hwPush q w.toNat met) s

/-- FIFO_POP (R193, R197, R223): a hardware pop. From MAR_RXQ_n or CAN_RSQ_n the barrier takes the word into a STREAM message, or waits for one. The barrier
queues are popped as soon as their transmitter and distributors may, MAR_TXQ_n by PULL and shifts; from CAN_TSQ_n the pool takes a packet (R309). -/
def FDie.hwPop (f : FDie) (q : Nat) (met : Bool) : FDie :=
  if f.barrierPops q then (f.meets q true met).streamPop q
  else if 256 ≤ q && q < 272 then (f.meets q true met).poolLoad (q - 256)
  else f

def execFifoPop (q : Fin 292) (met : Bool) (s : State) : Host.Outcome State Fault Refusal := onE (fun f => f.hwPop q met) s

/-- FIFO_COMMIT (R195): the packet-closing write of a push end. -/
def FDie.hwCommit (f : FDie) (q : Nat) (met : Bool) : FDie :=
  let f1 := f.meets q false met
  if (272 ≤ q && q < 288) || f1.on (fifoRegs q).nb then
    let r := f1.commit q
    if r.2 then r.1 else r.1.dropPush q
  else f1.pushWait q [none]

def execFifoCommit (q : Fin 292) (met : Bool) (s : State) : Host.Outcome State Fault Refusal := onE (fun f => f.hwCommit q met) s

/-- Software reads FIFO q through a data window: the receive FIFOs (Table 7.1). -/
def softReads (q : Nat) : Bool := (128 ≤ q && q < 256) || (272 ≤ q && q < 288)

/-- Software writes FIFO q through a data window: the transmit FIFOs (Table 7.1). -/
def softWrites (q : Nat) : Bool := q < 128 || (256 ≤ q && q < 272)

/-- FIFO_SOFTWARE_READ (R197): a pop through the data window, which never waits. -/
def execFifoSoftwareRead (q : Fin 292) (met : Bool) (s : State) : Host.Outcome State Fault Refusal :=
  onUnit (fun f => f.lacksFifo q || !softReads q) (fun f => ((f.meets q true met).softPop q).1) s

/-- FIFO_SOFTWARE_WRITE (R192, R198): a push through the data window, which never waits. -/
def execFifoSoftwareWrite (q : Fin 292) (w : Word) (met : Bool) (s : State) : Host.Outcome State Fault Refusal :=
  onUnit (fun f => f.lacksFifo q || !softWrites q) (fun f => (f.meets q false met).pushNb q w.toNat) s

/-- FIFO_ENABLE_WRITE (R194, R200): QCFG is written. -/
def execFifoEnableWrite (q : Fin 292) (v : Word) (s : State) : Host.Outcome State Fault Refusal :=
  onUnit (fun f => f.lacksFifo q) (fun f => f.fifoCfg q v.toNat) s

/-! ### Clusters, pins and strings -/

/-- CLUSTER_ENABLE_WRITE (R252). -/
def execClusterEnableWrite (c : Fin 16) (v : Word) (s : State) : Host.Outcome State Fault Refusal :=
  onUnit (fun f => f.lacksCluster c) (fun f => f.clusterEnable c v.toNat) s

/-- PIN_WINDOW_WRITE (R253): a count above 32, or a base plus count above 48, is refused. -/
def FDie.pinWindow (f : FDie) (n v : Nat) : FDie :=
  let ob := fieldOf v 0 6
  let oc := fieldOf v 8 6
  let ib := fieldOf v 16 6
  let ic := fieldOf v 24 6
  if 32 < oc || 32 < ic || 48 < ob + oc || 48 < ib + ic then f.ew Reg.MAR_EEVT_CFG_REFUSED n 1
  else (((f.ew Reg.MAR_EPIN_OUT_BASE n ob).ew Reg.MAR_EPIN_OUT_CNT n oc).ew Reg.MAR_EPIN_IN_BASE n ib).ew Reg.MAR_EPIN_IN_CNT n ic

def execPinWindowWrite (n : Fin 128) (v : Word) (s : State) : Host.Outcome State Fault Refusal :=
  onUnit (fun f => f.lacksCluster (n / 8)) (fun f => f.pinWindow n v.toNat) s

/-- FIO_CFG_WRITE (R254). -/
def execFioCfgWrite (n : Fin 256) (v : Word) (s : State) : Host.Outcome State Fault Refusal := onWrite (fun f => f.fioCfg n v.toNat) s

/-- SAFE_CLEAR (R255): ignored while the barrier link is lost; else each pin returns to its driver's value. -/
def FDie.safeClear (f : FDie) : FDie := if f.linkUp then { f.wr Reg.FIO_SAFE_ACTIVE 0 with safeSnap := [] } else f

def execSafeClear (s : State) : Host.Outcome State Fault Refusal := onWrite (fun f => f.safeClear) s

/-- The voltage at FVIO_b, in mV (R256, R461): a die in SLEEP shows it and reports nothing; without FVSUP it judges nothing. -/
def FDie.fvioTo (f : FDie) (b mv : Nat) : FDie :=
  let g := { f with fvio := f.fvio.set b mv }
  if f.stage == 4 then g else g.judgeFvio b

/-- FVIO_OUT_OF_RANGE (R256, R461): FVIO_b comes to mv, which VSEL judges. -/
def execFvioOutOfRange (b : Fin 8) (mv : BitVec 13) (s : State) : Host.Outcome State Fault Refusal := onF (fun f => f.fvioTo b mv.toNat) s

/-- FVIO_IN_RANGE (R256, R461): the same, for a voltage that comes back. -/
def execFvioInRange (b : Fin 8) (mv : BitVec 13) (s : State) : Host.Outcome State Fault Refusal := onF (fun f => f.fvioTo b mv.toNat) s

/-- INPUT_LEVEL_CHANGE (R257): v is the level at the ball that the filter accepts, before INV. -/
def execInputLevelChange (l : Fin 256) (v : Bool) (s : State) : Host.Outcome State Fault Refusal := onE (fun f => f.inputLevel l v) s

/-- The strings that bit i of a string register names, for register r: 0 G0 to G31, 1 G32 to G63, 2 + c the local strings of cluster c. -/
def stringAt (r i : Nat) : Nat × Nat := if r = 0 then (0, i) else if r = 1 then (0, 32 + i) else (r - 2, 64 + i)

/-- Software sets or clears the strings of a register (R263); `met` are those that another change of the other kind meets. -/
def FDie.softStrings (f : FDie) (r v met : Nat) (set : Bool) : FDie :=
  (upto (if r < 2 then 32 else 8)).foldl
    (fun g i => if bitOf v i then g.changeString (stringAt r i).1 (stringAt r i).2 set (bitOf met i) else g) f

/-- STRING_SOFTWARE_SET (R263). -/
def execStringSoftwareSet (r : Fin 18) (v met : Word) (s : State) : Host.Outcome State Fault Refusal :=
  onUnit (fun f => 2 ≤ r.val && f.lacksCluster (r.val - 2)) (fun f => f.softStrings r v.toNat met.toNat true) s

/-- STRING_SOFTWARE_CLEAR (R263). -/
def execStringSoftwareClear (r : Fin 18) (v met : Word) (s : State) : Host.Outcome State Fault Refusal :=
  onUnit (fun f => 2 ≤ r.val && f.lacksCluster (r.val - 2)) (fun f => f.softStrings r v.toNat met.toNat false) s

/-- IMAGE_SLICE_CONFIG_WRITE (R268): an offset that is not a multiple of 4, or a slice past byte 4,095, is refused. -/
def FDie.imageSlice (f : FDie) (n : Nat) (out : Bool) (v : Nat) : FDie :=
  let off := fieldOf v 0 12
  let len := fieldOf v 16 11
  if off % 4 != 0 || 4096 < off + 4 * len then f.ew Reg.MAR_EEVT_CFG_REFUSED n 1
  else if out then (f.ew Reg.MAR_EIMGO_OFF n off).ew Reg.MAR_EIMGO_LEN n len
  else ((f.ew Reg.MAR_EIMGI_OFF n off).ew Reg.MAR_EIMGI_LEN n len).ew Reg.MAR_EIMGI_CYC n (fieldOf v 31 1)

def execImageSliceConfigWrite (n : Fin 128) (out : Bool) (v : Word) (s : State) : Host.Outcome State Fault Refusal :=
  onUnit (fun f => f.lacksCluster (n / 8)) (fun f => f.imageSlice n out v.toNat) s

/-- BANK_OUTPUT_SET (R274): FIO_BSET_b sets outputs. -/
def execBankOutputSet (b : Fin 8) (v : Word) (s : State) : Host.Outcome State Fault Refusal :=
  onWrite (fun f => f.softBank b v.toNat 0xFFFFFFFF) s

/-- BANK_OUTPUT_CLEAR (R274): FIO_BCLR_b clears outputs. -/
def execBankOutputClear (b : Fin 8) (v : Word) (s : State) : Host.Outcome State Fault Refusal :=
  onWrite (fun f => f.softBank b v.toNat 0) s

/-- INSTRUCTION_MEMORY_WRITE (R289): word `w` of physical bank k of cluster c. The active bank refuses it while an engine of the cluster is
enabled; the flag says whether the write was performed. -/
def FDie.imemWrite (f : FDie) (c k w v : Nat) : FDie × Bool :=
  if f.rd (Reg.MAR_CCTL_ACTIVE c) == k && f.rd (Reg.MAR_CEN_EN c) != 0 then (f.raise (Reg.MAR_CEVT_ACCESS_FAULT c), false)
  else ((f.wr (Reg.MAR_IMEM_WORD c (512 * k + w)) v).imemStore c k w, true)

def execInstructionMemoryWrite (c : Fin 16) (k : Fin 2) (w : Fin 512) (v : Word) (s : State) : Host.Outcome State Fault Refusal :=
  onUnit (fun f => f.lacksCluster c) (fun f => (f.imemWrite c k w v.toNat).1) s

/-! ### Instructions -/

/-- NOP (R287) changes nothing. -/
def execEngineNop (n : Fin 128) (s : State) : Host.Outcome State Fault Refusal := onE (fun f => f.issue n 0x01 fun _ g => g) s

/-- ILLEGAL_INSTRUCTION (R275, R288): the word at PC has opcode 0x00 or 0x14 to 0x1F; the engine halts. -/
def FDie.illegal (f : FDie) (n : Nat) : FDie := f.issue n (fieldOf (f.fetch n) 27 5) fun _ _ => f

def execIllegalInstruction (n : Fin 128) (s : State) : Host.Outcome State Fault Refusal :=
  onE (fun f =>
    let op := fieldOf (f.fetch n) 27 5
    if op = 0 || 0x14 ≤ op then f.illegal n else f) s

/-- The value of a JMP source (Table 11.4), before STEP. -/
def FDie.jmpSrc (f : FDie) (n s : Nat) : Nat :=
  if s == 1 then f.er Reg.MAR_EX_X n
  else if s == 2 then f.er Reg.MAR_EY_Y n
  else if s == 3 then f.inPins n 9
  else if s == 4 then f.outLeft n
  else if s == 5 then min 511 (f.fifo n).words.length
  else if s == 6 then f.er Reg.MAR_ECOND_TMO n
  else 0

/-- The relation of JMP (Table 11.4). -/
def jmpRel (r v k : Nat) : Bool :=
  if r == 0 then v == k
  else if r == 1 then v != k
  else if r == 2 then decide (v < k)
  else if r == 3 then decide (k ≤ v)
  else if r == 4 then v &&& k != 0
  else v &&& k == 0

/-- JMP (R280): STEP, then the comparison, then the jump. -/
def FDie.doJmp (f : FDie) (n w : Nat) : FDie :=
  let src := fieldOf w 24 3
  let step := fieldOf w 19 2
  let v0 := f.jmpSrc n src
  let v := if step == 1 then (v0 + (2 ^ 32 - 1)) % 2 ^ 32 else if step == 2 then (v0 + 1) % 2 ^ 32 else v0
  let f1 := if step == 0 then f else if src == 1 then f.ew Reg.MAR_EX_X n v else f.ew Reg.MAR_EY_Y n v
  if src == 0 || jmpRel (fieldOf w 21 3) v (fieldOf w 0 9) then f1.ew Reg.MAR_ESTAT_PC n (fieldOf w 9 9) else f1

def execJmp (n : Fin 128) (s : State) : Host.Outcome State Fault Refusal := onE (fun f => f.issue n 0x02 fun w g => g.doJmp n w) s

/-- The value of a MOV source (Table 11.3). -/
def FDie.movSrc (f : FDie) (n s imm : Nat) : Nat :=
  if s == 0 then f.er Reg.MAR_EX_X n
  else if s == 1 then f.er Reg.MAR_EY_Y n
  else if s == 2 then f.er Reg.MAR_EOSR_OSR n
  else if s == 3 then f.er Reg.MAR_EISR_ISR n
  else if s == 4 then f.inPins n (f.er Reg.MAR_EPIN_IN_CNT n)
  else if s == 6 then (if imm < 2 ^ 15 then imm else imm + (2 ^ 32 - 2 ^ 16))
  else 0

/-- OP of MOV (R278): d is the destination's value, v the source's. -/
def movOp (o d v : Nat) : Nat :=
  if o == 1 then (d + v) % 2 ^ 32
  else if o == 2 then (d + (2 ^ 32 - v)) % 2 ^ 32
  else if o == 3 then d &&& v
  else if o == 4 then d ||| v
  else if o == 5 then d ^^^ v
  else if o == 6 then 2 ^ 32 - 1 - v
  else if o == 7 then reverse32 v
  else v

/-- TCMP_CYC (R279): S_M + v, M the lowest cycle for which it lies after the field time. -/
def FDie.cycTime (f : FDie) (v : Int) : Nat :=
  let c := ofNs (f.rd Reg.FTM_CYCLE_NS)
  let d : Int := (f.tb.now : Int) - v * ((2 ^ 32 : Nat) : Int) - (f.epoch : Int)
  let m : Nat := if d < 0 || c == 0 then 0 else d.toNat / c + 1
  stampAdd (stampOf (f.epoch + m * c)) v

/-- A MOV destination is given a value (Table 11.3, R279). -/
def FDie.movDst (f : FDie) (n dst v : Nat) : FDie :=
  let sv := signed 32 v
  if dst == 0 then f.ew Reg.MAR_EX_X n v
  else if dst == 1 then f.ew Reg.MAR_EY_Y n v
  else if dst == 2 then f.loadOsr n v
  else if dst == 3 then f.loadIsr n v
  else if dst == 4 then f.driveMany n 0 (f.er Reg.MAR_EPIN_OUT_CNT n) v
  else if dst == 5 then f.ew Reg.MAR_ETCMP_TCMP n (stampAdd (stampOf f.tb.now) sv)
  else if dst == 6 then f.ew Reg.MAR_ETCMP_TCMP n (stampAdd (f.er Reg.MAR_ETCMP_TCMP n) sv)
  else if dst == 7 then f.ew Reg.MAR_ETCMP_TCMP n (stampAdd (f.er Reg.MAR_EEDGE_EDGE n) sv)
  else f.ew Reg.MAR_ETCMP_TCMP n (f.cycTime sv)

/-- MOV (R278, R279). -/
def FDie.doMov (f : FDie) (n w : Nat) : FDie :=
  let dst := fieldOf w 23 4
  let d := if dst == 0 then f.er Reg.MAR_EX_X n else f.er Reg.MAR_EY_Y n
  f.movDst n dst (movOp (fieldOf w 17 3) d (f.movSrc n (fieldOf w 20 3) (fieldOf w 0 16)))

def execMov (n : Fin 128) (s : State) : Host.Outcome State Fault Refusal := onE (fun f => f.issue n 0x03 fun w g => g.doMov n w) s

/-- PULL (R284). -/
def execPull (n : Fin 128) (met : Bool) (s : State) : Host.Outcome State Fault Refusal :=
  onE (fun f => f.issue n 0x04 fun w g => (g.meets n true met).doPull n w) s

/-- PUSH (R284). -/
def execPush (n : Fin 128) (met : Bool) (s : State) : Host.Outcome State Fault Refusal :=
  onE (fun f => f.issue n 0x05 fun w g => (g.meets (128 + n) false met).doPush n w) s

/-- PUSH_LEN (R195, R284). -/
def execPushLen (n : Fin 128) (met : Bool) (s : State) : Host.Outcome State Fault Refusal :=
  onE (fun f => f.issue n 0x06 fun w g => (g.meets (128 + n) false met).doPushLen n w) s

/-- A shift begins with SHIFT_CNT 0 (R283). -/
def FDie.shiftBegin (f : FDie) (n : Nat) : FDie := f.ew Reg.MAR_ECNT_SHIFT_CNT n 0

/-- SHIFT_OUT (R258, R259, R283). -/
def execShiftOut (n : Fin 128) (s : State) : Host.Outcome State Fault Refusal :=
  onE (fun f => f.issue n 0x07 fun w g => outSteps false n w (shCount w / shWidth w) (g.shiftBegin n)) s

/-- SHIFT_IN (R258, R259, R283): `levels` are the levels at the balls of the input group at its steps; a step beyond them takes the levels as they stand. -/
def execShiftIn (n : Fin 128) (levels : List Word) (s : State) : Host.Outcome State Fault Refusal :=
  onE (fun f => f.issue n 0x08 fun w g =>
    inSteps false n w (shCount w / shWidth w) (levels.map fun (l : Word) => l.toNat) (g.shiftBegin n)) s

/-- SHIFT_OUT_NB (R260, R283). -/
def execShiftOutNb (n : Fin 128) (s : State) : Host.Outcome State Fault Refusal :=
  onE (fun f => f.issue n 0x09 fun w g => outSteps true n w (shCount w / shWidth w) (g.shiftBegin n)) s

/-- SHIFT_IN_NB (R260, R283). -/
def execShiftInNb (n : Fin 128) (levels : List Word) (s : State) : Host.Outcome State Fault Refusal :=
  onE (fun f => f.issue n 0x0A fun w g =>
    inSteps true n w (shCount w / shWidth w) (levels.map fun (l : Word) => l.toNat) (g.shiftBegin n)) s

/-- SET_PINS (R282): CNT 0 acts as 16. -/
def FDie.doSetPins (f : FDie) (n w : Nat) : FDie :=
  f.driveMany n (fieldOf w 22 5) (if fieldOf w 16 4 = 0 then 16 else fieldOf w 16 4) (fieldOf w 0 16)

def execSetPins (n : Fin 128) (s : State) : Host.Outcome State Fault Refusal := onE (fun f => f.issue n 0x0B fun w g => g.doSetPins n w) s

/-- WAIT_PIN (R285): a level may hold at once; an edge comes only after. -/
def FDie.doWaitPin (f : FDie) (n w : Nat) : FDie :=
  if f.levelMet n w then f.endWait n false
  else if bitOf w 19 && f.reached n then f.endWait n true
  else f.engStall n 5 w

def execWaitPin (n : Fin 128) (s : State) : Host.Outcome State Fault Refusal := onE (fun f => f.issue n 0x0C fun w g => g.doWaitPin n w) s

/-- WAIT_PIN_UNTIL_TIMEOUT (R285): the field time reaches TCMP while a WAIT_PIN with UNTIL waits: it ends with TMO 1. -/
def FDie.untilTimeout (f : FDie) (n : Nat) : FDie :=
  if f.stalledAt n 5 && bitOf (f.eng n).ir 19 then (f.advance (stampTime (f.er Reg.MAR_ETCMP_TCMP n))).endWait n true else f

def execWaitPinUntilTimeout (n : Fin 128) (s : State) : Host.Outcome State Fault Refusal := onE (fun f => f.untilTimeout n) s

/-- SET_STRING (R261, R262); `met`: a clear of the same string falls in the same field clock. -/
def execSetString (n : Fin 128) (met : Bool) (s : State) : Host.Outcome State Fault Refusal :=
  onE (fun f => f.issue n 0x0D fun w g => g.changeString (n.val / 8) (fieldOf w 20 7) true met) s

/-- CLR_STRING (R261, R262); `met`: a set of the same string falls in the same field clock. -/
def execClrString (n : Fin 128) (met : Bool) (s : State) : Host.Outcome State Fault Refusal :=
  onE (fun f => f.issue n 0x0E fun w g => g.changeString (n.val / 8) (fieldOf w 20 7) false met) s

/-- WAIT_STRING (R261, R281): satisfied at once where the string has the level, which a TAKE clears. -/
def FDie.doWaitString (f : FDie) (n w : Nat) : FDie := (f.engStall n 6 w).wakeString (n / 8) (fieldOf w 20 7)

def execWaitString (n : Fin 128) (s : State) : Host.Outcome State Fault Refusal :=
  onE (fun f => f.issue n 0x0F fun w g => g.doWaitString n w) s

/-- AT (R264, R265): it waits for TCMP, acts at once at TCMP, and late where TCMP has passed. -/
def FDie.doAt (f : FDie) (n w : Nat) (met : Bool) : FDie :=
  let t := f.er Reg.MAR_ETCMP_TCMP n
  if stampOf f.tb.now < t then f.engStall n 7 w
  else if stampOf f.tb.now == t then f.atAct n w met
  else f.atLate n w met

def execEngAt (n : Fin 128) (met : Bool) (s : State) : Host.Outcome State Fault Refusal :=
  onE (fun f => f.issue n 0x10 fun w g => g.doAt n w met) s

/-- AT_ACT (R264, R286): the field time reaches TCMP of an engine that waits at AT. -/
def FDie.doAtAct (f : FDie) (n : Nat) (met : Bool) : FDie :=
  if f.stalledAt n 7 then (f.advance (stampTime (f.er Reg.MAR_ETCMP_TCMP n))).atAct n (f.eng n).ir met else f

def execAtAct (n : Fin 128) (met : Bool) (s : State) : Host.Outcome State Fault Refusal := onE (fun f => f.doAtAct n met) s

/-- STAMP (R266, R287): the field time, or EDGE, into X and Y. -/
def FDie.doStamp (f : FDie) (n w : Nat) : FDie :=
  let t := if bitOf w 26 then f.er Reg.MAR_EEDGE_EDGE n else stampOf f.tb.now
  (f.ew Reg.MAR_EX_X n (t % 2 ^ 32)).ew Reg.MAR_EY_Y n (t / 2 ^ 32)

def execStamp (n : Fin 128) (s : State) : Host.Outcome State Fault Refusal := onE (fun f => f.issue n 0x11 fun w g => g.doStamp n w) s

/-- IRQ (R287): sets the bit; if it was clear, one message on the F-die event stream. -/
def FDie.doIrq (f : FDie) (n w : Nat) : FDie :=
  if f.er Reg.MAR_EEVT_IRQ n == 1 then f else (f.ew Reg.MAR_EEVT_IRQ n 1).eventMsg 0 n (fieldOf w 0 16)

def execIrq (n : Fin 128) (s : State) : Host.Outcome State Fault Refusal := onE (fun f => f.issue n 0x12 fun w g => g.doIrq n w) s

/-- SYNC (R290): waits at the swap point while a swap is pending, else a NOP. -/
def FDie.doSync (f : FDie) (n w : Nat) : FDie :=
  if f.on (Reg.MAR_CCTL_SWAP_PEND (n / 8)) then (f.engStall n 8 w).trySwap (n / 8) else f

def execSync (n : Fin 128) (s : State) : Host.Outcome State Fault Refusal := onE (fun f => f.issue n 0x13 fun w g => g.doSync n w) s

/-- SWAP (R290): a swap is requested, and taken at once where no enabled engine has to reach its SYNC. -/
def FDie.swapWrite (f : FDie) (c : Nat) : FDie := (f.wr (Reg.MAR_CCTL_SWAP_PEND c) 1).trySwap c

def execSwap (c : Fin 16) (s : State) : Host.Outcome State Fault Refusal :=
  onUnit (fun f => f.lacksCluster c) (fun f => f.swapWrite c) s

/-- FORCE_SWAP (R291): from now no PUSH_LEN, STAMP or MOV to TCMP begins in the cluster; SWAP_PEND clears. -/
def FDie.forceWrite (f : FDie) (c : Nat) : FDie :=
  let f1 := f.wr (Reg.MAR_CCTL_SWAP_PEND c) 0
  { f1 with forcing := if f1.forcing.contains c then f1.forcing else c :: f1.forcing }

def execForceSwap (c : Fin 16) (s : State) : Host.Outcome State Fault Refusal :=
  onUnit (fun f => f.lacksCluster c) (fun f => f.forceWrite c) s

/-- FORCED_SWAP_EFFECT (R291): the first field clock at which no engine is inside such an instruction. -/
def execForcedSwapEffect (c : Fin 16) (s : State) : Host.Outcome State Fault Refusal :=
  onE (fun f => if f.forcing.contains c.val then f.forceSwap c else f) s

end Sys2Proof.Machine
end

