-- ==== Sys2Proof/Machine/SleepOps.lean ====
section
/-! DEFINITION. Network management (R326 to R329), integrated transceivers (R323, R324), WAKE messages (R336) and the Groom (R330 to R335). -/
namespace Sys2Proof.Machine

/-! ### Transceivers -/

/-- A transceiver enters a state; INH is asserted in every state but SLEEP (Table 13.2). -/
def FDie.xcvTo (f : FDie) (n st : Nat) : FDie :=
  if n < 4 then (f.wr (Reg.CAN_XCV_STATE n) st).wr (Reg.CAN_XCV_INH n) (b2n (st != 3)) else f

/-- Entry to GO_SLEEP arms the wake latch (Table 13.3); a wake that it holds stays until software clears it (R329). -/
def FDie.goSleep (f : FDie) (n : Nat) : FDie :=
  if n < 4 && f.rd (Reg.CAN_XCV_STATE n) ≤ 2 then (f.xcvTo n 4).setCan n { f.can n with armed := true } else f

/-- CAN_SLPEVT_n has been written: with WUP and WAKE_CAPT clear the wake latch is clear too (R329). -/
def FDie.latchFollows (f : FDie) (n : Nat) : FDie :=
  if f.on (Reg.CAN_SLPEVT_WUP n) || f.on (Reg.CAN_SLPEVT_WAKE_CAPT n) || !(f.can n).latch then f else f.setCan n { f.can n with latch := false }

/-- Transceiver and controller are brought to NORMAL (Table 13.4). -/
def FDie.busNormal (f : FDie) (n : Nat) : FDie :=
  let f1 := (f.xcvTo n 0).wr (Reg.CAN_CTL_MODE n) 1
  f1.setCan n { f1.can n with armed := false, modeWait := f1.rd (Reg.CAN_STAT_MODE n) != 1 }

/-! ### Network management -/

/-- State of controller n's network management. -/
def FDie.nm (f : FDie) (n : Nat) : Nat := f.rd (Reg.CAN_NMSTAT_STATE n)

/-- Enter a state; out of NORMAL no keep-alive waits for integration any more. -/
def FDie.nmTo (f : FDie) (n st : Nat) : FDie :=
  let g := f.wr (Reg.CAN_NMSTAT_STATE n) st
  if st != 1 && (g.can n).kaWait then g.setCan n { g.can n with kaWait := false } else g

/-- A keep-alive (R326): the buffer is requested, or skipped where it is neither FREE nor DONE. -/
def FDie.keepAlive (f : FDie) (n : Nat) : FDie :=
  let k := f.rd (Reg.CAN_NMCFG_TXB n)
  if f.txState n k == 0 || f.txState n k == 4 then (f.txRequest n k true).bump (Reg.CAN_NMCNT_KATX n)
  else f.bump (Reg.CAN_NMCNT_KASKIP n)

/-- The node wants the bus (Table 13.4): NEED set, or a local wake. -/
def FDie.nmWant (f : FDie) (n : Nat) : FDie :=
  match f.nm n with
  | 2 | 3 => (f.nmTo n 1).keepAlive n
  | 4 =>
    let g := (f.nmTo n 1).busNormal n
    g.setCan n { g.can n with kaWait := true }
  | _ => f

/-- LOCAL_WAKE (R327): bit n of GRM_LWK is acted on, and then cleared. -/
def FDie.localWake (f : FDie) (n : Nat) : FDie :=
  if bitOf (f.rd Reg.GRM_LWK_PEND) n && f.on (Reg.CAN_NMCFG_EN n) && 2 ≤ f.nm n then
    (f.nmWant n).wr Reg.GRM_LWK_PEND (setBit (f.rd Reg.GRM_LWK_PEND) n false)
  else f

/-- REMOTE_WAKE (R327). -/
def FDie.remoteWake (f : FDie) (n : Nat) : FDie :=
  if f.on (Reg.CAN_NMCFG_EN n) && f.nm n == 4 then (f.nmTo n 2).busNormal n else f

/-- KEEP_ALIVE_RECEIVED (R327): the ready-sleep timer begins again; PREPARE_SLEEP is left. -/
def FDie.keepAliveIn (f : FDie) (n : Nat) : FDie :=
  if f.on (Reg.CAN_NMCFG_EN n) && f.nm n == 3 then f.nmTo n 2 else f

/-- NEED changes (Table 13.4). -/
def FDie.needTo (f : FDie) (n : Nat) (b : Bool) : FDie :=
  let f1 := f.wr (Reg.CAN_NMCFG_NEED n) (b2n b)
  if !f.on (Reg.CAN_NMCFG_EN n) || f.on (Reg.CAN_NMCFG_NEED n) == b then f1
  else if b then f1.nmWant n
  else if f1.nm n == 1 then f1.nmTo n 2
  else f1

/-- EN may not be set (R326). -/
def FDie.nmBad (f : FDie) (n txb filt : Nat) : Bool :=
  f.inPool n txb || !f.on (Reg.CAN_FID_EN n filt) || (f.rd (Reg.CAN_STAT_MODE n) != 1 && f.nm n == 0)

/-- CAN_NMCFG_n is written (R326, Table 13.4). -/
def FDie.nmCfg (f : FDie) (n v : Nat) : FDie :=
  let en := bitOf v 0
  let was := f.on (Reg.CAN_NMCFG_EN n)
  let txb := fieldOf v 2 5
  let filt := fieldOf v 8 7
  let f1 := ((f.wr (Reg.CAN_NMCFG_TXB n) txb).wr (Reg.CAN_NMCFG_FILT n) filt).wr (Reg.CAN_NMCFG_KA_MS n) (fieldOf v 16 16)
  if !was && en then
    let f2 := f1.wr (Reg.CAN_NMCFG_NEED n) (fieldOf v 1 1)
    if f2.nmBad n txb filt then f2.raise (Reg.CAN_SLPEVT_NM_REFUSED n)
    else
      let f3 := f2.wr (Reg.CAN_NMCFG_EN n) 1
      let lw := bitOf (f3.rd Reg.GRM_LWK_PEND) n
      if bitOf v 1 || lw then
        ((f3.nmTo n 1).keepAlive n).wr Reg.GRM_LWK_PEND (setBit (f3.rd Reg.GRM_LWK_PEND) n false)
      else f3.nmTo n 2
  else if was && !en then ((f1.wr (Reg.CAN_NMCFG_NEED n) (fieldOf v 1 1)).wr (Reg.CAN_NMCFG_EN n) 0).nmTo n 0
  else f1.needTo n (bitOf v 1)

/-- A wake reaches a transceiver in GO_SLEEP (Table 13.3, R329): the armed latch captures it. -/
def FDie.capture_ (f : FDie) (n : Nat) : FDie :=
  let f1 := f.setCan n { f.can n with armed := false, latch := true }
  let f2 := f1.raise (Reg.CAN_SLPEVT_WAKE_CAPT n)
  if f2.on (Reg.CAN_NMCFG_EN n) then (f2.xcvTo n 0).remoteWake n else f2.xcvTo n 2

/-- CAN_XCV_n.MODE is written (R324, R325). -/
def FDie.xcvWrite (f : FDie) (n m : Nat) : FDie :=
  if 4 ≤ n then f
  else if f.on (Reg.CAN_NMCFG_EN n) then f.raise (Reg.CAN_SLPEVT_NM_REFUSED n)
  else
    let f1 := f.wr (Reg.CAN_XCV_MODE n) m
    if m == 3 then f1.goSleep n
    else (f1.xcvTo n m).setCan n { f1.can n with armed := false }

/-! ### WAKE messages -/

/-- The F-die sends a WAKE message (R336), or at link-up if the link is down (R333). -/
def FDie.wakeMsg (f : FDie) (cause rule xcv st : Nat) : FDie :=
  let seq := (f.wakeSeq + 1) % 2 ^ 16
  let m := mkMsg 0x02 0 [cause + rule * 2 ^ 8 + xcv * 2 ^ 16 + st * 2 ^ 20, f.rd Reg.GRM_HIT_RULE, seq]
  let f1 := { f with wakeSeq := seq }
  if f1.linkUp then f1.toHost m else { f1 with wakeHeld := f1.wakeHeld ++ [m] }

/-- The F-die leaves STANDBY, or starts to leave SLEEP (R322). -/
def FDie.wakeField (f : FDie) : FDie :=
  match f.rd Reg.FGL_PWRSTAT_STATE with
  | 1 => f.wr Reg.FGL_PWRSTAT_STATE 0
  | 2 => if f.stage == 0 then { f with stage := 1 } else f
  | _ => f

/-- The field die is in SLEEP, and nothing has started its end. -/
def FDie.sleeps (f : FDie) : Bool := f.rd Reg.FGL_PWRSTAT_STATE == 2 && f.stage == 0

/-- The barrier wake detector (R322, Table 13.9): it ends SLEEP, and the WAKE message of the link-up names the host. -/
def FDie.barrierWake (f : FDie) : FDie :=
  let g := f.raise Reg.GRM_EVT_BWAKE
  if g.sleeps then g.wakeField.wakeMsg 0x05 0 0 2 else g

/-! ### The Groom -/

/-- The hidden state of source i. -/
def FDie.src (f : FDie) (i : Nat) : GrmSrc := aget f.grmS i { samples := [], same := 0 }

/-- The hidden state of rule r. -/
def FDie.rule (f : FDie) (r : Nat) : GrmRule := aget f.grmR r { holds := false, fresh := true, waits := 0 }

/-- The middle of three numbers. -/
def median3 (a b c : Nat) : Nat := max (min a b) (min (max a b) c)

/-- What source i shows after sample x (R331): fewer than three samples pass a median as they are (log 30); the IIR's step is rounded towards the
lower code (log 30). -/
def FDie.filtered (f : FDie) (i x : Nat) : FDie × Nat :=
  let c := f.src i
  let v := f.rd (Reg.GRM_VAL_VALUE i)
  let x1 := if i < 16 && f.on (Reg.GRM_INCFG_INV i) then 1 - min 1 x else x
  let ss := x1 :: c.samples.take 2
  let deb := max 1 (f.rd (Reg.GRM_INCFG_DEB i))
  let same := if c.samples.head? == some x1 then c.same + 1 else 1
  let g := { f with grmS := aput f.grmS i { samples := ss, same := min same 16 } }
  let y :=
    match f.rd (Reg.GRM_INCFG_FILT i) with
    | 1 => if deb ≤ same then x1 else v
    | 2 => match ss with
      | [a, b, d] => median3 a b d
      | _ => x1
    | 3 => ((v : Int) + ((x1 : Int) - (v : Int)) / ((2 ^ (f.rd (Reg.GRM_INCFG_K i) + 1) : Nat) : Int)).toNat
    | _ => x1
  (g.wr (Reg.GRM_VAL_VALUE i) y, y)

/-- Whether HIGH (or LOW) holds of a value, given that it held before (R332). -/
def condHolds (src low thr hys : Nat) (held : Bool) (y : Nat) : Bool :=
  if src < 16 then (if low == 1 then y == 0 else y == 1)
  else if low == 1 then (if held then decide (y ≤ thr + hys) else decide (y ≤ thr))
  else if held then decide (thr ≤ y + hys) else decide (thr ≤ y)

/-- Rule r meets a sample of its source: whether it fires (R332). -/
def FDie.ruleTest (f : FDie) (r y : Nat) : FDie × Bool :=
  let c := f.rule r
  let src := f.rd (Reg.GRM_RCOND_SRC r)
  let cond := f.rd (Reg.GRM_RCOND_COND r)
  if 20 ≤ src then (f, y != 0)
  else
    let now := condHolds src (cond % 2) (f.rd (Reg.GRM_RCOND_THR r)) (f.rd (Reg.GRM_RCOND_HYS r)) c.holds y
    let fires := now && ((!c.holds && (cond < 2 || !c.fresh)) || (c.fresh && cond < 2))
    ({ f with grmR := aput f.grmR r { c with holds := now, fresh := false } }, fires)

/-- The rules that a sample of source i makes fire. -/
def rulesOf (i y : Nat) : List Nat → FDie → FDie × List Nat
  | [], f => (f, [])
  | r :: rs, f =>
    if f.on (Reg.GRM_RCOND_EN r) && f.rd (Reg.GRM_RCOND_SRC r) == i then
      let t := f.ruleTest r y
      let u := rulesOf i y rs t.1
      (u.1, if t.2 then r :: u.2 else u.2)
    else rulesOf i y rs f

/-- Every sampled source of one RC tick: filtered, and the rules that fire. A source is sampled while its EN is set; sources 20 to 24 always. -/
def sampleAll : List (Nat × Nat) → FDie → FDie × List Nat
  | [], f => (f, [])
  | (i, x) :: rest, f =>
    if i < 20 && !f.on (Reg.GRM_INCFG_EN i) then sampleAll rest f
    else
      let p := if i < 20 then f.filtered i x else (f, x)
      let t := rulesOf i p.2 (upto 32) p.1
      let u := sampleAll rest t.1
      (u.1, t.2 ++ u.2.filter fun r => !t.2.contains r)

/-- Transceiver n enters STANDBY and drives a wake-up pattern on its bus (R333): dominant, recessive and dominant for 10 µs each. -/
def FDie.driveWup (f : FDie) (n : Nat) : FDie :=
  let g := f.xcvTo n 2
  g.setCan n { g.can n with wups := (g.can n).wups + 1 }

/-- INH, CANWAKE, which needs FVCAN (rail 7 of source 257), and LWAKE of one controller or transceiver n (R333). A local wake acts on network management first (Table 13.4, log 180). -/
def FDie.groomWake (f : FDie) (inh canwake lwake n : Nat) : FDie :=
  let st := f.rd (Reg.CAN_XCV_STATE n)
  let named := bitOf inh n || bitOf lwake n
  let f1 := if bitOf lwake n then (f.wr Reg.GRM_LWK_PEND (setBit (f.rd Reg.GRM_LWK_PEND) n true)).localWake n else f
  let f2 :=
    if n < 4 && st == 4 && named then f1.capture_ n
    else if n < 4 && st == 3 && bitOf inh n && f1.rd (Reg.CAN_XCV_STATE n) == 3 then f1.xcvTo n 2
    else f1
  if n < 4 && bitOf canwake n && !f2.outs.contains (257, 7) then f2.driveWup n else f2

/-- The actions but WAKE_F and BARRIER of a set of rules (R333, R335). -/
def FDie.groomActs (f : FDie) (rs : List Nat) : FDie :=
  let or_ := fun (F : Nat → Fld) => rs.foldl (fun a r => a ||| f.rd (F r)) 0
  (upto 16).foldl (fun g n => g.groomWake (or_ Reg.GRM_RACT_INH) (or_ Reg.GRM_RACT_CANWAKE) (or_ Reg.GRM_RACT_LWAKE) n) f

/-- GROOM_RULE_FIRE (R333 to R335): the union of the actions of the rules that fire. With GRM in an HA mode (`ha`), rules with CONFIRM ask, as
far as `budget` requests may be made; beyond that they act as in HW, and are counted (R396). -/
def FDie.groomFire (f : FDie) (rs : List Nat) (ha : Bool) (budget : Nat) : FDie :=
  if rs.isEmpty then f
  else
    let f1 := rs.foldl (fun g r => (g.wr Reg.GRM_HIT_RULE (setBit (g.rd Reg.GRM_HIT_RULE) r true)).bump (Reg.GRM_RCNT_COUNT r)) f
    let would := rs.filter fun r => ha && f.on (Reg.GRM_RACT_CONFIRM r)
    let asking := would.take budget
    let now := rs.filter fun r => !asking.contains r
    let f2 := if rs.any fun r => f.on (Reg.GRM_RACT_WAKE_F r) then f1.wakeField else f1
    let tells := rs.any (fun r => f.on (Reg.GRM_RACT_BARRIER r)) || (f.sleeps && !f2.sleeps)
    let pulse := fun (r : Nat) => 20 ≤ f.rd (Reg.GRM_RCOND_SRC r) && f.rd (Reg.GRM_RCOND_SRC r) < 24
    let xcv := rs.foldl (fun m r => m ||| 2 ^ (f.rd (Reg.GRM_RCOND_SRC r) - 20)) 0
    let st := f2.rd Reg.FGL_PWRSTAT_STATE
    let f3 := if !tells then f2 else if rs.all pulse then f2.wakeMsg 0x02 0 xcv st else f2.wakeMsg 0x01 (rs.foldl min 31) 0 st
    let f4 := would.foldl (fun g r => g.want 12 (r + g.rd Reg.GRM_HIT_RULE * 2 ^ 32) 0 r) (f3.groomActs now)
    asking.foldl (fun g r => { g with grmR := aput g.grmR r { g.rule r with waits := (g.rule r).waits + 1 } }) f4

/-- The decision on a rule's remaining actions, or none in time (R335). -/
def FDie.groomDecide (f : FDie) (r : Nat) (perform : Bool) : FDie :=
  if (f.rule r).waits != 0 then
    let g := { f with grmR := aput f.grmR r { f.rule r with waits := (f.rule r).waits - 1 } }
    if perform then g.groomActs [r] else g
  else f

/-- GRM_INCFG_i is written (R331): debounce on an analogue input, or IIR on a wake input, is refused. -/
def FDie.groomInput (f : FDie) (i v : Nat) : FDie :=
  let filt := fieldOf v 2 2
  if (16 ≤ i && filt == 1) || (i < 16 && filt == 3) then f.raise Reg.GRM_EVT_CFG_REFUSED
  else
    ((((f.wr (Reg.GRM_INCFG_EN i) (fieldOf v 0 1)).wr (Reg.GRM_INCFG_INV i) (fieldOf v 1 1)).wr (Reg.GRM_INCFG_FILT i) filt).wr
      (Reg.GRM_INCFG_DEB i) (fieldOf v 4 4)).wr (Reg.GRM_INCFG_K i) (fieldOf v 8 3)

/-- GRM_RCOND_r is written (R332): a SRC of 25 to 31, or a COND that the source does not accept, is refused. -/
def FDie.groomRule (f : FDie) (r v : Nat) : FDie :=
  let src := fieldOf v 1 5
  let cond := fieldOf v 6 2
  if 25 ≤ src || (20 ≤ src && cond % 2 == 1) then f.raise Reg.GRM_EVT_CFG_REFUSED
  else
    let f1 := ((((f.wr (Reg.GRM_RCOND_EN r) (fieldOf v 0 1)).wr (Reg.GRM_RCOND_SRC r) src).wr (Reg.GRM_RCOND_COND r) cond).wr
      (Reg.GRM_RCOND_THR r) (fieldOf v 8 10)).wr (Reg.GRM_RCOND_HYS r) (fieldOf v 18 6)
    if bitOf v 0 && !f.on (Reg.GRM_RCOND_EN r) then { f1 with grmR := aput f1.grmR r { f1.rule r with holds := false, fresh := true } }
    else f1

end Sys2Proof.Machine
end

