-- ==== Sys2Proof/Machine/Can.lean ====
section
/-! DEFINITION. The commands of the CAN controllers (chapter 12). What the bus does (frames, errors, times) is in the operands. -/
namespace Sys2Proof.Machine

/-- CAN_MODE_WRITE (R295): CAN_CTL_n is written; a MODE of 5 to 7 is refused. -/
def FDie.canCtl (f : FDie) (n v : Nat) : FDie :=
  let m := fieldOf v 0 3
  if 5 ≤ m then f.canEvt n (Reg.CAN_EVT_CFG_REFUSED n)
  else
    let f1 := ((((((f.wr (Reg.CAN_CTL_MODE n) m).wr (Reg.CAN_CTL_FD_ALLOW n) (fieldOf v 3 1)).wr (Reg.CAN_CTL_SWITCH_ALLOW n)
      (fieldOf v 4 1)).wr (Reg.CAN_CTL_SINGLE_SHOT n) (fieldOf v 5 1)).wr (Reg.CAN_CTL_XL_AS_ERROR n) (fieldOf v 6 1)).wr
      (Reg.CAN_CTL_AUTO_RECOVER n) (fieldOf v 7 1)).wr (Reg.CAN_CTL_TXORD n) (fieldOf v 8 1)
    f1.setCan n { f1.can n with modeWait := m != f1.rd (Reg.CAN_STAT_MODE n) }

def execCanModeWrite (n : Fin 16) (v : Word) (s : State) : Host.Outcome State Fault Refusal :=
  onUnit (fun f => f.lacksCan n) (fun f => f.canCtl n v.toNat) s

/-- CAN_MODE_EFFECT (R295): the written mode takes effect, but not while a frame is in progress; from INIT, bus integration begins. -/
def FDie.canMode (f : FDie) (n : Nat) : FDie :=
  let act := f.rd (Reg.CAN_STAT_ACT n)
  if !(f.can n).modeWait || act == 1 || act == 2 then f
  else
    let m := f.rd (Reg.CAN_CTL_MODE n)
    let was := f.rd (Reg.CAN_STAT_MODE n)
    let f1 := (f.wr (Reg.CAN_STAT_MODE n) m).setCan n { f.can n with modeWait := false }
    if m == 0 then (f1.wr (Reg.CAN_STAT_INTEG n) 0).wr (Reg.CAN_STAT_ACT n) 0
    else if was == 0 then f1.integrate n
    else f1

def execCanModeEffect (n : Fin 16) (s : State) : Host.Outcome State Fault Refusal := onE (fun f => f.canMode n) s

/-- BUS_INTEGRATION_DONE (R295): a keep-alive that waited for it is sent (Table 13.4). -/
def FDie.canIntegrated (f : FDie) (n : Nat) : FDie :=
  if f.rd (Reg.CAN_STAT_MODE n) == 0 then f
  else
    let f1 := (((f.errOver n).wr (Reg.CAN_STAT_INTEG n) 1).wr (Reg.CAN_STAT_ACT n) 0).wr (Reg.CAN_STAT_DOMINANT n) 0
    if (f1.can n).kaWait then (f1.setCan n { f1.can n with kaWait := false }).keepAlive n else f1

def execBusIntegrationDone (n : Fin 16) (s : State) : Host.Outcome State Fault Refusal := onE (fun f => f.canIntegrated n) s

/-- CAN_TIMING_WRITE (R297): CAN_ARBT_n (0), CAN_DATT_n (1) or CAN_SSP_n (2). -/
def execCanTimingWrite (n : Fin 16) (which : Fin 3) (v : Word) (s : State) : Host.Outcome State Fault Refusal :=
  onUnit (fun f => f.lacksCan n) (fun f => f.timingWrite n which v.toNat) s

/-- The controller takes a validated frame (R299): counted, offered to the filters, and met by network management (R327). -/
def FDie.canTakes (f : FDie) (n e0 e1 time : Nat) (bytes : List Byte) : FDie :=
  let r := (f.bump (Reg.CAN_RXOK_COUNT n)).offer n e0 e1 time bytes
  if r.2 == some (r.1.rd (Reg.CAN_NMCFG_FILT n)) then r.1.keepAliveIn n else r.1

/-- CAN_FRAME_RECEIVED (R299, R310, R327): a validated frame, its E0 and E1 as received, its data and the time of its SOF. REC falls as
ISO 11898-1 has it (log 31). A frame that a transceiver in STANDBY meets is a remote wake, and reaches no controller. -/
def FDie.canRx (f : FDie) (n e0 e1 time : Nat) (bytes : List Byte) : FDie :=
  let st := if n < 4 then f.rd (Reg.CAN_XCV_STATE n) else 0
  if st == 2 then f.remoteWake n
  else if st != 0 && st != 1 then f
  else if !f.canJoined n then f
  else
    let rec_ := f.rec_ n
    let o := f.openValue
    let g := ((f.errOver n).wr (Reg.CAN_STAT_ACT n) 0).wr (Reg.CAN_STAT_DOMINANT n) 0
    let f1 :=
      if f.rd (Reg.CAN_STAT_MODE n) != 1 || rec_ == 0 then g
      else if 128 ≤ rec_ then { g.setErr n (g.rd (Reg.CAN_ECNT_TEC n)) (119 + o.1 % 9) with free := o.2.free }
      else g.setErr n (g.rd (Reg.CAN_ECNT_TEC n)) (rec_ - 1)
    f1.canTakes n e0 e1 time bytes

def execCanFrameReceived (n : Fin 16) (e0 e1 : Word) (bytes : List Byte) (time : Nat) (s : State) : Host.Outcome State Fault Refusal :=
  onStandby (fun f => f.canRx n e0.toNat e1.toNat time bytes) s

/-- The loop delay is measured in an FD frame with BRS that controller n sends (R298): written in LOOP_DLY, 127 units or more as 0x7F. -/
def FDie.loopDelay (f : FDie) (n : Nat) (loop : Option Nat) : FDie :=
  match loop, (f.can n).active with
  | some d, some (k, _) =>
    let e1 := wordAt (f.elem (txKey n k)) 1
    if f.on (Reg.CAN_SSP_SSP_EN n) && bitOf e1 4 && bitOf e1 5 then f.wr (Reg.CAN_SSP_LOOP_DLY n) (min d 0x7F) else f
  | _, _ => f

/-- A bus error seen by controller n (R310, R311): its code, its phase, and whether ISO 11898-1 gives it its other weight: for a
receiver 8 in place of 1, for a transmitter none in place of 8, and 8 in place of none where a passive one that is not acknowledged sees a dominant bit in its
error flag (log 31). Until the next frame, what its error flag meets counts for the transmitter of the frame too. Code 0 is no further error but eight dominant
bits after the flag, for which ISO 11898-1 counts 8. -/
def FDie.busError (f : FDie) (n code : Nat) (dataPhase odd : Bool) : FDie :=
  let mode := f.rd (Reg.CAN_STAT_MODE n)
  let sending := (f.can n).active
  let own := sending.isSome || (f.can n).errTx
  let tec := f.rd (Reg.CAN_ECNT_TEC n)
  let rec_ := f.rec_ n
  if code = 0 then (if mode != 1 then f else if own then f.setErr n (tec + 8) rec_ else f.setErr n tec (rec_ + 8))
  else
    let f1 := f.wr (if dataPhase then Reg.CAN_LASTERR_DERR n else Reg.CAN_LASTERR_ERR n) code
    let f2 := (f1.bump (Reg.CAN_ERRFRM_COUNT n)).setCan n { f1.can n with errTx := own }
    let f3 :=
      if mode != 1 then f2
      else if own then (if odd == (code == 6 && f2.rd (Reg.CAN_ECNT_STATE n) == 1) then f2.setErr n (tec + 8) rec_ else f2)
      else f2.setErr n tec (rec_ + if odd then 8 else 1)
    let f4 := match sending with
      | some a => f3.txFail n a.1
      | none => f3
    if mode == 3 then f4.integrate n else f4.wr (Reg.CAN_STAT_ACT n) 0

/-- CAN_ERROR (R295, R298, R310, R311): in LOOPBACK the acknowledgement is taken as given. `loop` is the loop delay measured before the error. -/
def FDie.canErr (f : FDie) (n code : Nat) (dataPhase odd : Bool) (loop : Option Nat) : FDie :=
  if !f.canJoined n || (code == 6 && f.rd (Reg.CAN_STAT_MODE n) == 4) then f
  else (f.loopDelay n loop).busError n code dataPhase odd

def execCanError (n : Fin 16) (code : Fin 7) (dataPhase odd : Bool) (loop : Option Nat) (s : State) : Host.Outcome State Fault Refusal :=
  onE (fun f => f.canErr n code dataPhase odd loop) s

/-- CAN_PROTOCOL_EXCEPTION (Table 12.4): a recessive res bit after FDF: a protocol exception and bus integration, or, with XL_AS_ERROR, a
form error. -/
def FDie.canPxe (f : FDie) (n : Nat) : FDie :=
  if !f.canJoined n then f
  else if f.on (Reg.CAN_CTL_XL_AS_ERROR n) then f.busError n 4 false false
  else ((f.bump (Reg.CAN_PXE_COUNT n)).canEvt n (Reg.CAN_EVT_PXE n)).integrate n

def execCanProtocolException (n : Fin 16) (s : State) : Host.Outcome State Fault Refusal := onE (fun f => f.canPxe n) s

/-- Clear NEW in k elements of RXQ_j from GET on (R303). -/
def clearNew (n j : Nat) : Nat → Nat → FDie → FDie
  | 0, _, f => f
  | k + 1, g, f =>
    let key := rxKey n j (g % 64)
    let e := f.elem key
    clearNew n j k (g + 1) ((f.narrowWord (elemWord key).1 (elemWord key).2 0xF0).setElem key (e.set 1 (wordAt e 1 % 2 ^ 31)))

/-- RXQ_GET_WRITE (R303). -/
def FDie.rxqGet (f : FDie) (n j v : Nat) : FDie :=
  let g := f.rd (Reg.CAN_RXQSTAT_GET n j)
  let fill := f.rd (Reg.CAN_RXQSTAT_FILL n j)
  let d := (v % 64 + 64 - g) % 64
  if fill < d then f
  else
    (((clearNew n j d g f).wr (Reg.CAN_RXQSTAT_GET n j) (v % 64)).wr (Reg.CAN_RXQSTAT_FILL n j) (fill - d)).wr (Reg.CAN_RXQSTAT_FULL n j)
      (b2n (decide (fill - d = 64)))

def execRxqGetWrite (n : Fin 16) (j : Fin 2) (v : Word) (s : State) : Host.Outcome State Fault Refusal :=
  onUnit (fun f => f.lacksCan n) (fun f => f.rxqGet n j v.toNat) s

/-- TX_REQ (R305, R309): REQ of a pool buffer is ignored. -/
def execTxReq (n : Fin 16) (k : Fin 32) (s : State) : Host.Outcome State Fault Refusal :=
  onUnit (fun f => f.lacksCan n) (fun f => if f.inPool n k then f else f.txRequest n k true) s

/-- TX_CANCEL (R308, R309): CANCEL of a pool buffer is ignored. -/
def execTxCancel (n : Fin 16) (k : Fin 32) (s : State) : Host.Outcome State Fault Refusal :=
  onUnit (fun f => f.lacksCan n) (fun f => if f.inPool n k then f else f.txCancel n k) s

/-- What a controller may hear and send (R295, R323, Table 13.2): LOOPBACK needs no bus; an integrated transceiver's receiver is on in NORMAL and LISTEN, its
transmitter in NORMAL alone. -/
def FDie.hears (f : FDie) (n : Nat) : Bool := 4 ≤ n || f.rd (Reg.CAN_STAT_MODE n) == 4 || f.rd (Reg.CAN_XCV_STATE n) ≤ 1

def FDie.sends (f : FDie) (n : Nat) : Bool :=
  let mode := f.rd (Reg.CAN_STAT_MODE n)
  mode == 4 || (mode == 1 && (4 ≤ n || f.rd (Reg.CAN_XCV_STATE n) == 0))

/-- CAN_COMMIT_POINT (R306): the SOF at `time`. Only NORMAL and LOOPBACK send; a controller that has nothing to send, or may not, receives. A buffer
that an uncorrectable word keeps from being loaded ends as INVALID (Table 15.2). -/
def FDie.commitPoint (f : FDie) (n time : Nat) : FDie :=
  if !f.canJoined n || (f.can n).active.isSome || !f.hears n then f
  else
    let f0 := (f.errOver n).wr (Reg.CAN_STAT_DOMINANT n) 0
    match (if f.sends n then f0.chooseTx n else none) with
    | none => f0.wr (Reg.CAN_STAT_ACT n) 1
    | some k =>
      let w := elemWord (txKey n k)
      let l := f0.readWords 0xFF 0xE w.1 w.2 10
      let f1 := l.1.setTx n k 3
      let c := f1.can n
      if l.2 then ((l.1.wr (Reg.CAN_STAT_ACT n) 1).txDone n k 5).canEvt n (Reg.CAN_EVT_TXINVALID n)
      else (f1.wr (Reg.CAN_STAT_ACT n) 2).setCan n
        { c with active := some (k, time), lateAt := if aget c.lateAt k 0 == 1 then c.lateAt else adel c.lateAt k }

def execCanCommitPoint (n : Fin 16) (time : Nat) (s : State) : Host.Outcome State Fault Refusal := onE (fun f => f.commitPoint n time) s

/-- E0 of a frame as the bus carries it (Table 12.2): ESI of an FD frame shows an error-passive sender. -/
def FDie.sentE0 (f : FDie) (n k : Nat) : Nat :=
  let e := f.elem (txKey n k)
  wordAt e 0 % 2 ^ 31 + b2n (bitOf (wordAt e 1) 5 && f.rd (Reg.CAN_ECNT_STATE n) == 1) * 2 ^ 31

/-- CAN_FRAME_SENT (R295, R298, R306, R308, R310): the ACTIVE frame is sent without error; in LOOPBACK the controller's own receiver takes it. `loop` is
the loop delay measured in an FD frame with BRS. With the transmitter off no frame is sent (R323). -/
def FDie.frameSent (f : FDie) (n : Nat) (loop : Option Nat) : FDie :=
  match (if f.sends n then (f.can n).active else none) with
  | none => f
  | some (k, time) =>
    let late := aget (f.can n).lateAt k 0 == 1
    let pend := f.on (Reg.CAN_TXB_CANPEND n k)
    let tec := f.rd (Reg.CAN_ECNT_TEC n)
    let f1 := (f.bump (Reg.CAN_TXOK_COUNT n)).wr (Reg.CAN_TXBTS_TIME n k) (stampOf time)
    let f2 := f1.loopDelay n loop
    let f3 := if tec == 0 || f2.rd (Reg.CAN_STAT_MODE n) != 1 then f2 else f2.setErr n (tec - 1) (f2.rec_ n)
    let f4 := (f3.wr (Reg.CAN_TXB_LATE n k) (b2n late)).wr (Reg.CAN_STAT_ACT n) 0
    let f5 := f4.txDone n k (if pend then 3 else 1)
    let e := f5.elem (txKey n k)
    if f.rd (Reg.CAN_STAT_MODE n) == 4 then f5.canTakes n (f.sentE0 n k) (wordAt e 1) time (elemBytes e) else f5

def execCanFrameSent (n : Fin 16) (loop : Option Nat) (s : State) : Host.Outcome State Fault Refusal := onE (fun f => f.frameSent n loop) s

/-- CAN_ARBITRATION_LOST (R306, R308). -/
def FDie.arbLost (f : FDie) (n : Nat) : FDie :=
  match (f.can n).active with
  | none => f
  | some (k, _) => ((f.bump (Reg.CAN_ARBLOST_COUNT n)).wr (Reg.CAN_STAT_ACT n) 1).txFail n k

def execCanArbitrationLost (n : Fin 16) (s : State) : Host.Outcome State Fault Refusal := onE (fun f => f.arbLost n) s

/-- The launch time of a buffer, as the time it names (R264, R301). -/
def FDie.launchAt (f : FDie) (n k : Nat) : Nat :=
  let e := f.elem (txKey n k)
  stampTime (wordAt e 2 + 2 ^ 32 * wordAt e 3)

/-- A buffer's launch time has come (R307). -/
def FDie.launchDue (f : FDie) (n k : Nat) : FDie :=
  let f1 := f.setTx n k 2
  f1.setCan n { f1.can n with lateAt := aput (f1.can n).lateAt k 0 }

/-- CAN_LAUNCH_TIME_REACHED (R307): the field time reaches the launch time of a buffer in WAIT_TIME. -/
def execCanLaunchTimeReached (n : Fin 16) (k : Fin 32) (s : State) : Host.Outcome State Fault Refusal :=
  onE (fun f => if f.txState n k == 1 then (f.advance (f.launchAt n k)).launchDue n k else f) s

/-- Every buffer whose launch time a forward change of the field time has passed (R307). -/
def FDie.launchPassed (f : FDie) : FDie :=
  (f.cans.map (·.1)).foldl
    (fun g n => (upto 32).foldl
      (fun x k => if x.txState n k == 1 && decide (x.launchAt n k ≤ x.tb.now) then x.launchDue n k else x) g) f

/-- CAN_LATE_TIMEOUT (R307): the SOF has not started LATE_US after the launch time. In bus-off the rule waits for the recovery (R310, Table 12.6). -/
def FDie.lateTimeout (f : FDie) (n k : Nat) : FDie :=
  if f.txState n k != 2 || !ahas (f.can n).lateAt k then f
  else if f.rd (Reg.CAN_ECNT_STATE n) == 2 then f.setCan n { f.can n with lateAt := aput (f.can n).lateAt k 2 }
  else
    let f1 := f.canEvt n (Reg.CAN_EVT_LATE n)
    if f1.on (Reg.CAN_LCFG_LATEMODE n) then f1.txDone n k 4
    else f1.setCan n { f1.can n with lateAt := aput (f1.can n).lateAt k 1 }

def execCanLateTimeout (n : Fin 16) (k : Fin 32) (s : State) : Host.Outcome State Fault Refusal := onE (fun f => f.lateTimeout n k) s

/-- STREAM_POOL_LOAD (R309). -/
def execStreamPoolLoad (n : Fin 16) (s : State) : Host.Outcome State Fault Refusal := onE (fun f => f.poolLoad n) s

/-- BO_RECOVER (R310): recovery from bus-off starts. -/
def execBoRecover (n : Fin 16) (s : State) : Host.Outcome State Fault Refusal :=
  onUnit (fun f => f.lacksCan n) (fun f => if f.rd (Reg.CAN_ECNT_STATE n) == 2 then f.setCan n { f.can n with recov := true } else f) s

/-- BUS_OFF_RECOVERY_DONE (R310): TEC and REC return to 0, BORECOV is set, and late rules apply again (Table 12.6). -/
def FDie.recovered (f : FDie) (n : Nat) : FDie :=
  if f.rd (Reg.CAN_ECNT_STATE n) == 2 && (f.can n).recov then
    let f1 := ((((f.wr (Reg.CAN_ECNT_TEC n) 0).wr (Reg.CAN_ECNT_REC n) 0).wr (Reg.CAN_ECNT_RX_PASSIVE n) 0).wr (Reg.CAN_ECNT_STATE n) 0).wr
      (Reg.CAN_ECNT_WARN n) 0
    let f2 := (f1.setCan n { f1.can n with recov := false }).canEvt n (Reg.CAN_EVT_BORECOV n)
    ((f2.can n).lateAt.filter fun e => e.2 == 2).foldl (fun g e => g.lateTimeout n e.1) f2
  else f

def execBusOffRecoveryDone (n : Fin 16) (s : State) : Host.Outcome State Fault Refusal := onE (fun f => f.recovered n) s

/-- DOMINANT_TIMEOUT (Table 12.4): the bus is dominant without a recessive edge for DOM_US. -/
def execDominantTimeout (n : Fin 16) (s : State) : Host.Outcome State Fault Refusal :=
  onE (fun f => if f.lacksCan n then f else (f.wr (Reg.CAN_STAT_DOMINANT n) 1).canEvt n (Reg.CAN_EVT_DOM n)) s

end Sys2Proof.Machine
end

