-- ==== Sys2Proof/Machine/Sleep.lean ====
section
/-! DEFINITION. The commands of sleep, wake and the Groom (chapter 13). -/
namespace Sys2Proof.Machine

/-- Why a request for STANDBY (1) or SLEEP (2) is refused (R320): 0 none, else the first reason. -/
def FDie.pwrRefuse (f : FDie) (req : Nat) : Nat :=
  if (upto 16).any fun c => f.rd (Reg.MAR_CEN_EN c) != 0 then 1
  else if (upto 16).any fun n => f.rd (Reg.CAN_STAT_MODE n) != 0 && f.nm n != 4 then 2
  else if f.dueImage || (match f.plan with | some p => p.inLen != 0 || p.outLen != 0 | none => false) then 3
  else if req == 2 && (upto 4).any fun n => f.rd (Reg.FED_STAT_STATE n) != 0 then 4
  else if f.upd then 5
  else 0

/-- POWER_REQUEST_RUN (R320, R322): in RUN nothing changes; STANDBY is left. -/
def execPowerRequestRun (s : State) : Host.Outcome State Fault Refusal :=
  onWrite (fun f => f) s

/-- POWER_REQUEST_STANDBY (R320). -/
def FDie.standby (f : FDie) : FDie :=
  let r := f.pwrRefuse 1
  if r != 0 then f.wr Reg.FGL_PWRSTAT_REFUSE r else (f.wr Reg.FGL_PWRSTAT_REFUSE 0).wr Reg.FGL_PWRSTAT_STATE 1

def execPowerRequestStandby (s : State) : Host.Outcome State Fault Refusal := onWrite (fun f => f.standby) s.tellPlan

/-- Whether SLEEP keeps a register (Table 13.1): the GRM block, CAN_XCV_n, CAN_SLPEVT_n, FGL_PWRSTAT; FIO_SAFE, which then reads 1 (R322);
FIO_BSTAT_b, which shows whether the pad keepers have their supply (R321); and MEM_ISCRUB_i.PASSES (Table 15.4). -/
def sleepKeeps (key : Nat) : Bool :=
  let a := key / 32 * 4
  (0x8A0000 ≤ a && a < 0x8C0000) || (0x840000 ≤ a && a < 0x850000 && (a % 0x1000 == 0xA0 || a % 0x1000 == 0xA4)) || a == 0x800104 ||
    (0x92000 ≤ a && a < 0x95000 && a % 0x40 == 0x14 && key % 32 == 20) || a == 0x869000 || (0x868000 ≤ a && a < 0x868800 && a % 0x100 == 4)

/-- The field die without power but for what `keep` names and what the variant fixes. -/
def FDie.dark (f : FDie) (keep : Nat → Bool) : FDie :=
  { f with
      regs := f.regs.filter fun e => variantKey e.1 || keep e.1
      linkUp := false
      bar := BarEnd.clear
      held := []
      hiHold := []
      hiCap := []
      tb := { now := f.tb.now, rate := 2 * 2 ^ 32, first := true, good := 0, bad := 0, running := none, firstAct := 0 }
      fifos := []
      engs := []
      forcing := []
      plan := none
      dueImage := false
      slices := []
      high := []
      imgRx := []
      cans := []
      elems := []
      feeds := []
      warnHold := false
      upd := false
      mems := memsReset f.mems
      waits := []
      rom := []
      romSeq := 0
      asks := [] }

/-- SLEEP_ENTRY (R321): pins take their safe levels, the barrier link stops, and rules see their sources anew (R332). -/
def FDie.enterSleep (f : FDie) : FDie :=
  let latches := f.cans.map fun e =>
    (e.1, ({ order := [], active := none, errTx := false, hits := [], seen := [], modeWait := false, recov := false, armed := e.2.armed,
             latch := e.2.latch, kaWait := false, wups := e.2.wups, lateAt := [] } : CanCtx))
  let g := ((f.goSafe.wr Reg.FGL_PWRSTAT_STATE 2).wr Reg.FGL_PWRSTAT_REFUSE 0).dark sleepKeeps
  { g with
      cans := latches
      stage := 0
      grmR := (upto 32).map fun r => (r, { f.rule r with fresh := (f.rule r).fresh || decide (f.rd (Reg.GRM_RCOND_COND r) < 2) }) }

/-- POWER_REQUEST_SLEEP (R320, R321): refused, or the SLEEP_NOTICE goes out before the link stops. -/
def execPowerRequestSleep (s0 : State) : Host.Outcome State Fault Refusal :=
  let s := s0.tellPlan
  let r := s.f.pwrRefuse 2
  if s.f.power == 2 then .next s
  else if r != 0 then .next { s with f := s.f.toRun.wr Reg.FGL_PWRSTAT_REFUSE r }
  else
    let t := carryF { s with f := s.f.wakeMsg 0x03 0 0 2 }
    .next { t with f := t.f.enterSleep }

/-- FIELD_CLOCK_LOCKED (R322): the field clock locks after power-up has begun. -/
def execFieldClockLocked (s : State) : Host.Outcome State Fault Refusal :=
  .next { s with f := if s.f.stage == 1 then { s.f with stage := 2 } else s.f }


/-- TRANSCEIVER_MODE_WRITE (R324, R325). -/
def execTransceiverModeWrite (n : Fin 16) (m : Fin 4) (s : State) : Host.Outcome State Fault Refusal := onWrite (fun f => f.xcvWrite n m) s

/-- GO_SLEEP_TIMER_EXPIRY (Table 13.3): with the latch clear the transceiver sleeps and INH is released. -/
def execGoSleepTimerExpiry (n : Fin 4) (s : State) : Host.Outcome State Fault Refusal :=
  onField (fun f => if f.rd (Reg.CAN_XCV_STATE n) == 4 && !(f.can n).latch then f.xcvTo n 3 else f) s

/-- The rules that a Groom sample makes fire do so. The Groom runs while FVSUP is present (R330). -/
def FDie.groomIn (f : FDie) (samples : List (Nat × Nat)) (ha : Bool) (budget : Nat) : FDie :=
  if f.stage == 4 then f
  else
  let g := if samples.any fun p => p.1 == 24 && p.2 != 0 then f.barrierWake else f
  let r := sampleAll samples g
  r.1.groomFire r.2 ha budget

/-- FWAKE is written (R322): ignored while BAR_FSTAT.ASLEEP reads 0; else the wake pattern reaches the Groom of a sleeping field die, whose source 24
pulses (Table 13.5). -/
def fwake (s : State) : State :=
  if s.h.on Reg.BAR_FSTAT_ASLEEP && s.f.rd Reg.FGL_PWRSTAT_STATE == 2 then { s with f := s.f.groomIn [(24, 1)] false 0 } else s

def execFwake (s : State) : Host.Outcome State Fault Refusal := .next (fwake s)

/-- GRM asks (R335): its mode now is an HA mode, and the host die can be asked. -/
def groomAsks (s : State) : Bool := s.linked && s.h.modeOf 12 != 0

/-- Requests that function fn may make now (R396). -/
def HDie.budget (h : HDie) (fn : Nat) : Nat := if h.modeOf fn == 0 then 0 else min (64 - h.outstanding fn) (h.tokens fn)

/-- WUP_DETECTED (Table 13.3, R327): a wake-up pattern at a transceiver in GO_SLEEP is captured; in SLEEP it wakes it to STANDBY, sets the latch
and WUP, and pulses Groom source 20 + n. -/
def FDie.wup (f : FDie) (n : Nat) (ha : Bool) (budget : Nat) : FDie :=
  match f.rd (Reg.CAN_XCV_STATE n) with
  | 4 => f.capture_ n
  | 3 =>
    let f1 := ((f.xcvTo n 2).raise (Reg.CAN_SLPEVT_WUP n)).setCan n { f.can n with latch := true }
    (f1.remoteWake n).groomIn [(20 + n, 1)] ha budget
  | _ => f

def execWupDetected (n : Fin 4) (s : State) : Host.Outcome State Fault Refusal :=
  onField (fun f => f.wup n (groomAsks s) (s.h.budget 12)) s

/-- FVCAN_UNDERVOLTAGE (Table 13.3): each transceiver in NORMAL or LISTEN goes to STANDBY, with UV set. -/
def execFvcanUndervoltage (s : State) : Host.Outcome State Fault Refusal :=
  onField (fun f =>
    (upto 4).foldl (fun g n => if g.rd (Reg.CAN_XCV_STATE n) ≤ 1 then (g.xcvTo n 2).raise (Reg.CAN_SLPEVT_UV n) else g) f) s

/-- FVSUP_LOST (Tables 13.3 and 14.3, R330): the field die has no supply; INH is released and the feeds are held off. -/
def FDie.noSupply (f : FDie) : FDie :=
  let g := f.dark fun _ => false
  let h := (upto 4).foldl (fun x n => x.wr (Reg.CAN_XCV_INH n) 0) g
  { h with stage := 4, safeSnap := [], grmS := [], grmR := [], wakeSeq := 0, wakeHeld := [] }

def execFvsupLost (s : State) : Host.Outcome State Fault Refusal := .next { s with f := s.f.noSupply }

/-- NM_ENABLE_WRITE (R326, R327): CAN_NMCFG_n is written. -/
def execNmEnableWrite (n : Fin 16) (v : Word) (s : State) : Host.Outcome State Fault Refusal :=
  onUnit (fun f => f.lacksCan n) (fun f => f.nmCfg n v.toNat) s

/-- NM_NEED_WRITE (R327): NEED is written. -/
def execNmNeedWrite (n : Fin 16) (b : Bool) (s : State) : Host.Outcome State Fault Refusal :=
  onUnit (fun f => f.lacksCan n) (fun f => f.needTo n b) s

/-- KEEP_ALIVE_TIMER (Table 13.4): KA_MS elapsed in NORMAL. -/
def execKeepAliveTimer (n : Fin 16) (s : State) : Host.Outcome State Fault Refusal :=
  onE (fun f => if f.nm n == 1 then f.keepAlive n else f) s

/-- READY_SLEEP_TIMER_EXPIRY (Table 13.4, R328): PREPARE_SLEEP, where NMG is asked. -/
def execReadySleepTimerExpiry (n : Fin 16) (s : State) : Host.Outcome State Fault Refusal :=
  onE (fun f => if f.nm n == 2 then (f.nmTo n 3).want 5 n 0 n else f) s

/-- PREPARE_SLEEP_TIMER_EXPIRY (Table 13.4): the bus sleeps: controller to INIT, transceiver to GO_SLEEP. -/
def FDie.busSleep (f : FDie) (n : Nat) : FDie :=
  let f1 := (f.nmTo n 4).wr (Reg.CAN_CTL_MODE n) 0
  (f1.setCan n { f1.can n with modeWait := f1.rd (Reg.CAN_STAT_MODE n) != 0 }).goSleep n

/-- `ka`: a keep-alive is received in the same CAN clock, and wins (Table 13.8). The expiry is the deadline of NMG's requests (Table 17.1). -/
def execPrepareSleepTimerExpiry (n : Fin 16) (ka : Bool) (s : State) : Host.Outcome State Fault Refusal :=
  if s.f.power = 0 && s.f.nm n == 3 && !ka then onE (fun f => f.busSleep n) { s with h := s.h.lapse 5 n } else onE (fun f => f) s

/-- GROOM_SAMPLE (R330 to R335): the samples that fall on one RC tick, each a source and what it reads. -/
def execGroomSample (samples : List (Fin 25 × Word)) (s : State) : Host.Outcome State Fault Refusal :=
  onField (fun f => f.groomIn (samples.map fun (p : Fin 25 × Word) => (p.1.val, p.2.toNat % 1024)) (groomAsks s) (s.h.budget 12)) s

/-- GROOM_CONFIG_WRITE (R331, R332): GRM_INCFG_i (`rule` false) or GRM_RCOND_i is written. -/
def execGroomConfigWrite (rule : Bool) (i : Fin 32) (v : Word) (s : State) : Host.Outcome State Fault Refusal :=
  onWrite (fun f => if rule then f.groomRule i v.toNat else if i.val < 20 then f.groomInput i v.toNat else f) s

end Sys2Proof.Machine
end

