-- ==== Sys2Proof/Machine/Feed.lean ====
section
/-! DEFINITION. The feed controllers (chapter 14): measurement and model (R341, R345, R346), states and faults (R348, R349), warnings (R350), and
their commands. What the board does (voltages, currents, limiting) is in the operands. -/
namespace Sys2Proof.Machine

/-- The die temperature of Groom source 19 plus AMB_OFS, in °C (R345, Table 13.5). -/
def FDie.tAmb (f : FDie) (n : Nat) : Rat :=
  ((f.rd (Reg.GRM_VAL_VALUE 19) : Nat) : Rat) / 4 - 64 + ((signed 8 (f.rd (Reg.FED_FETM_AMB_OFS n)) : Int) : Rat)

/-- The hidden state of channel n: at chip reset t starts at t_amb (R345). -/
def FDie.feed (f : FDie) (n : Nat) : FeedCtx :=
  aget f.feeds n
    { temp := f.tAmb n, good := false, limited := false, low := f.tAmb n, high := f.tAmb n, rising := false, asked := false,
      decision := none, reverse := false, badDiode := false }

/-- Replace it. -/
def FDie.setFeed (f : FDie) (n : Nat) (c : FeedCtx) : FDie := { f with feeds := aput f.feeds n c }

/-- State of channel n (Table 14.2). -/
def FDie.feedState (f : FDie) (n : Nat) : Nat := f.rd (Reg.FED_STAT_STATE n)

/-- An event of channel n rises (R355). -/
def FDie.feedEvt (f : FDie) (n : Nat) (F : Fld) : FDie :=
  if f.on F then f
  else
    let g := f.raise F
    if bitOf (f.rd (Reg.FED_EVTEN_EN n)) F.lsb then g.eventMsg 2 n F.lsb else g

/-- The diode's reading in °C. -/
def FDie.diode (f : FDie) (n : Nat) : Rat := ((signed 16 (f.rd (Reg.FED_TEMP_DIODE n)) : Int) : Rat) / 16

/-- The temperature that the channel acts on (R344). -/
def FDie.feedT (f : FDie) (n : Nat) : Rat :=
  let m := (f.feed n).temp
  match f.rd (Reg.FED_CFG_TSRC n) with
  | 0 => m
  | 1 => f.diode n
  | _ => if (f.feed n).badDiode then m else if m < f.diode n then f.diode n else m

/-- A channel shares its load (R351). -/
def FDie.shares (f : FDie) (n : Nat) : Bool := f.on (Reg.FED_CFG_SHARE (n / 2 * 2))

/-- Which channels warn, and the pin (R350): once asserted it is held. -/
def FDie.warnPin (f : FDie) : FDie :=
  let src := ((upto 4).map fun n => f.rd (Reg.FED_STAT_WARN n) * 2 ^ n).sum
  let want := src &&& f.rd Reg.FED_WARN_MASK != 0
  let f1 := f.wr Reg.FED_WARN_SRC src
  if want && !f.on Reg.FED_WARN_PIN then { f1.wr Reg.FED_WARN_PIN 1 with warnHold := true }
  else if !want && !f.warnHold then f1.wr Reg.FED_WARN_PIN 0
  else f1

/-- Whether channel n warns now (R350). -/
def FDie.warns (f : FDie) (n : Nat) : Bool :=
  (f.on (Reg.FED_WARNCFG_LIM_EN n) && f.on (Reg.FED_STAT_LIMIT n)) ||
    (f.on (Reg.FED_WARNCFG_IN_EN n) && decide (f.rd (Reg.FED_MEAS_VIN n) < f.rd (Reg.FED_WARNCFG_WARN_IN n))) ||
    (f.on (Reg.FED_WARNCFG_TEMP_EN n) && decide (((f.rd (Reg.FED_WARNCFG_WARN_C n) : Nat) : Rat) ≤ f.feedT n)) || (f.feed n).reverse

/-- Channel n's warning is looked at again. -/
def FDie.feedWarn (f : FDie) (n : Nat) : FDie :=
  let w := f.warns n
  let f1 := if w && !f.on (Reg.FED_STAT_WARN n) then f.feedEvt n (Reg.FED_EVT_WARN n) else f
  (f1.wr (Reg.FED_STAT_WARN n) (b2n w)).warnPin

/-- The gate is off: limiting and its timer end, PG is deasserted (R348, R349). -/
def FDie.gateOff (f : FDie) (n : Nat) : FDie :=
  let f1 := (f.wr (Reg.FED_STAT_LIMIT n) 0).wr (Reg.FED_STAT_FULL n) 0
  if f1.on (Reg.FED_STAT_PG n) then (f1.wr (Reg.FED_STAT_PG n) 0).feedEvt n (Reg.FED_EVT_PG_DOWN n) else f1

/-- Enter a state whose gate is off. -/
def FDie.feedTo (f : FDie) (n st : Nat) : FDie := (f.gateOff n).wr (Reg.FED_STAT_STATE n) st

/-- A fault of channel n (R348, R353). `fdp`: 0 FDP in HW, 1 it may not ask now, 2 it asks. SENSE always latches. -/
def FDie.feedFault (f : FDie) (n cause fdp : Nat) : FDie :=
  let att := f.rd (Reg.FED_STAT_ATTEMPTS n)
  let f1 := (((f.gateOff n).wr (Reg.FED_STAT_LAST_FAULT n) cause).bump (Reg.FED_FLTCNT_FAULTS n)).feedEvt n (Reg.FED_EVT_FAULT n)
  let f2 := f1.fault (416 + n) 0x2A cause
  let f3 := if fdp != 0 && cause != 5 then f2.want 7 (n + cause * 16 + att * 256) 0 n else f2
  let f4 := f3.setFeed n { f3.feed n with asked := fdp == 2 && cause != 5, decision := none }
  if cause == 5 || (fdp != 2 && att == f.rd (Reg.FED_CFG_RETRIES n)) then
    ((f4.wr (Reg.FED_STAT_STATE n) 5).feedEvt n (Reg.FED_EVT_LATCHED n)).feedWarn n
  else (f4.wr (Reg.FED_STAT_STATE n) 4).feedWarn n

/-- FET_OVERTEMP (R344): T reaches 150 °C in RAMP or ON. -/
def FDie.overtemp (f : FDie) (n fdp : Nat) : FDie :=
  if f.feedT n < 150 then f
  else if f.feedState n == 2 then f.feedFault n (if (f.feed n).limited then 1 else 3) fdp
  else if f.feedState n == 3 then f.feedFault n 3 fdp
  else f

/-- THERMAL_CYCLE_COUNT (R346). -/
def FDie.thermal (f : FDie) (n : Nat) : FDie :=
  let c := f.feed n
  let t := f.feedT n
  let d : Rat := ((max 1 (f.rd (Reg.FED_TCYCCFG_DELTA_K n)) : Nat) : Rat)
  if c.rising then
    if t + d ≤ c.high then (f.setFeed n { c with rising := false, low := t }).bump (Reg.FED_TCYC_COUNT n)
    else f.setFeed n { c with high := if c.high < t then t else c.high }
  else if c.low + d ≤ t then f.setFeed n { c with rising := true, high := t }
  else f.setFeed n { c with low := if t < c.low then t else c.low }

/-- Input good, and with SHARE VIN at least VOUT + 0.2 V: WAIT becomes RAMP (Table 14.3). -/
def FDie.tryRamp (f : FDie) (n : Nat) : FDie :=
  let vin := f.rd (Reg.FED_MEAS_VIN n)
  let vout := f.rd (Reg.FED_MEAS_VOUT n)
  if f.feedState n == 1 && (f.feed n).good && (!f.shares n || decide (5 * vout + 16 ≤ 5 * vin)) then
    (f.wr (Reg.FED_STAT_STATE n) 2).setFeed n { f.feed n with limited := false, reverse := false }
  else f

/-- VIN lies outside UV to OV (Table 14.3): RAMP and ON go to WAIT, which is no fault. -/
def FDie.vinBad (f : FDie) (n : Nat) : FDie :=
  let f1 := f.setFeed n { f.feed n with good := false }
  if f.feedState n == 2 || f.feedState n == 3 then f1.feedTo n 1 else f1

/-- One step of the model (R345), with the voltages in codes of 62.5 mV and the current in amperes. -/
def FDie.modelStep (f : FDie) (n vin vout : Nat) (i : Rat) : Rat :=
  let t := (f.feed n).temp
  let st := f.feedState n
  let p : Rat :=
    if st == 2 || (st == 3 && f.on (Reg.FED_STAT_LIMIT n)) then (((vin : Int) - (vout : Int) : Int) : Rat) / 16 * i
    else if st == 3 then i * i * (((f.rd (Reg.FED_FETM_RDS_UOHM n) : Nat) : Rat) / 1000000)
    else 0
  let rth : Rat := ((f.rd (Reg.FED_FETT_RTH n) : Nat) : Rat) / 100
  let tau : Rat := ((f.rd (Reg.FED_FETT_TAU n) : Nat) : Rat)
  t + quot (f.tAmb n + p * rth - t) (10 * tau)

/-- FEED_MEASUREMENT (R341, R344, R345): VIN and VOUT in codes, the shunt voltage in µV. The current is reported in whole 10 mA, and the
model in whole 1/16 °C, rounded down (log 32). A shunt or a time constant of 0 gives a free quotient (log 35). -/
def FDie.measure (f : FDie) (n vin vout uv fdp : Nat) : FDie :=
  let r := f.rd (Reg.FED_LIM_SHUNT_UOHM n)
  let i : Rat := quot ((uv : Nat) : Rat) ((r : Nat) : Rat)
  let t := f.modelStep n vin vout i
  let f1 := (((f.wr (Reg.FED_MEAS_VIN n) vin).wr (Reg.FED_MEAS_VOUT n) vout).wr (Reg.FED_IMEAS_MA10 n) (min 0xFFFF (i * 100).floor.toNat)).wr
    (Reg.FED_TEMP_MODEL n) (unsigned 16 (t * 16).floor)
  let f2 := ((f1.setFeed n { f.feed n with temp := t, reverse := false }).thermal n).overtemp n fdp
  let f3 := if vin < f2.rd (Reg.FED_VIN_UV n) || f2.rd (Reg.FED_VIN_OV n) < vin then f2.vinBad n else f2.tryRamp n
  f3.feedWarn n

/-- How FDP decides a fault of the field die now: 0 in HW, 1 it may not ask, 2 it asks (R353, R396). -/
def fdpView (s : State) : Nat :=
  if !s.linked || s.h.modeOf 7 == 0 then 0 else if s.h.mayAsk 7 then 2 else 1

def execFeedMeasurement (n : Fin 4) (vin vout : Fin 1024) (uv : Nat) (s : State) : Host.Outcome State Fault Refusal :=
  onStandby (fun f => f.measure n vin vout uv (fdpView s)) s

/-- DIODE_READING (R344): in 1/16 °C. One outside −50 °C to 200 °C is a SENSE fault with TSRC 1. -/
def FDie.diodeIn (f : FDie) (n : Nat) (t : Int) (fdp : Nat) : FDie :=
  let bad := decide (t < -800) || decide (3200 < t)
  let f1 := (f.setFeed n { f.feed n with badDiode := bad }).wr (Reg.FED_TEMP_DIODE n) (unsigned 16 t)
  if bad then
    if f.rd (Reg.FED_CFG_TSRC n) == 1 && (f.feedState n == 2 || f.feedState n == 3) then f1.feedFault n 5 fdp else f1.feedWarn n
  else ((f1.thermal n).overtemp n fdp).feedWarn n

def execDiodeReading (n : Fin 4) (t : Int) (s : State) : Host.Outcome State Fault Refusal :=
  onStandby (fun f => f.diodeIn n t (fdpView s)) s

/-- LIMITING_ONSET (R342, R343): the limit loop takes the gate, and the fault timer starts. -/
def FDie.limitOn (f : FDie) (n : Nat) : FDie :=
  if f.feedState n == 2 || f.feedState n == 3 then
    let f1 := ((f.wr (Reg.FED_STAT_LIMIT n) 1).wr (Reg.FED_STAT_FULL n) 0).setFeed n { f.feed n with limited := true }
    (f1.feedEvt n (Reg.FED_EVT_LIMIT n)).feedWarn n
  else f

def execLimitingOnset (n : Fin 4) (s : State) : Host.Outcome State Fault Refusal := onStandby (fun f => f.limitOn n) s

/-- LIMITING_END (R342, R343): the fault timer stops and clears. -/
def execLimitingEnd (n : Fin 4) (s : State) : Host.Outcome State Fault Refusal :=
  onStandby (fun f => (f.wr (Reg.FED_STAT_LIMIT n) 0).feedWarn n) s

/-- FAULT_TIMER_EXPIRY (Table 14.3). `ended`: limiting ends in the same measurement, and wins (Table 14.7). -/
def execFaultTimerExpiry (n : Fin 4) (ended : Bool) (s : State) : Host.Outcome State Fault Refusal :=
  onStandby (fun f =>
    if ended || !f.on (Reg.FED_STAT_LIMIT n) then f
    else if f.feedState n == 2 then f.feedFault n 1 (fdpView s)
    else if f.feedState n == 3 then f.feedFault n 2 (fdpView s)
    else f) s

/-- The configuration of a channel is valid (R354). -/
def FDie.feedValid (f : FDie) (n : Nat) : Bool :=
  let mv := f.rd (Reg.FED_LIM_MV10 n)
  let sh := f.rd (Reg.FED_LIM_SHUNT_UOHM n)
  let rate := f.rd (Reg.FED_RAMP_RATE n)
  let ft := f.rd (Reg.FED_TMR_FT_US n)
  let uv := f.rd (Reg.FED_VIN_UV n)
  let wi := f.rd (Reg.FED_WARNCFG_WARN_IN n)
  let ov := f.rd (Reg.FED_VIN_OV n)
  50 ≤ mv && mv ≤ 500 && 250 ≤ sh && sh ≤ 20000 && sh ≤ mv * 100 && mv * 100 ≤ 40 * sh && 1 ≤ rate && rate ≤ 100 && 100 ≤ ft && ft ≤ 100000 &&
    uv < wi && wi < ov && ov ≤ 0x3C0 && f.rd (Reg.FED_FETT_RTH n) != 0 && f.rd (Reg.FED_FETT_TAU n) != 0

/-- The model temperature becomes t, which FED_TEMP_n.MODEL shows in whole 1/16 °C, rounded down (R345, log 32). -/
def FDie.modelTo (f : FDie) (n : Nat) (t : Rat) : FDie :=
  (f.wr (Reg.FED_TEMP_MODEL n) (unsigned 16 (t * 16).floor)).setFeed n { f.feed n with temp := t }

/-- FED_CFG_n is written (R351, R354, Table 14.3): SHARE only while both channels of the pair are OFF, TSRC only while the channel is. The warning follows
the temperature that TSRC and EN give (R350). -/
def FDie.feedCfg (f : FDie) (n v : Nat) : FDie :=
  let off := f.feedState n == 0
  let pairOff := f.feedState (n / 2 * 2) == 0 && f.feedState (n / 2 * 2 + 1) == 0
  let f1 := (f.wr (Reg.FED_CFG_SAFE n) (fieldOf v 4 1)).wr (Reg.FED_CFG_RETRIES n) (fieldOf v 8 4)
  let f2 := if n % 2 == 0 && pairOff then f1.wr (Reg.FED_CFG_SHARE n) (fieldOf v 1 1) else f1
  let f3 := if off then f2.wr (Reg.FED_CFG_TSRC n) (fieldOf v 2 2)
    else if f.rd (Reg.FED_CFG_TSRC n) == fieldOf v 2 2 then f2 else f2.feedEvt n (Reg.FED_EVT_CFG_REFUSED n)
  let was := f.on (Reg.FED_CFG_EN n)
  (if bitOf v 0 && !was then
    if f3.feedValid n then
      let f4 := (((f3.wr (Reg.FED_CFG_EN n) 1).wr (Reg.FED_STAT_ATTEMPTS n) 0).wr (Reg.FED_STAT_STATE n) 1).modelTo n (f3.tAmb n)
      (f4.setFeed n { f4.feed n with asked := false, decision := none }).tryRamp n
    else f3.feedEvt n (Reg.FED_EVT_CFG_REFUSED n)
  else if !bitOf v 0 && was then ((f3.wr (Reg.FED_CFG_EN n) 0).feedTo n 0).wr (Reg.FED_STAT_ATTEMPTS n) 0
  else f3).feedWarn n

/-- FEED_ENABLE_WRITE. -/
def execFeedEnableWrite (n : Fin 4) (v : Word) (s : State) : Host.Outcome State Fault Refusal := onWrite (fun f => f.feedCfg n v.toNat) s

/-- INPUT_GOOD (R348): VIN has lain from UV to OV for 10 ms. -/
def execInputGood (n : Fin 4) (s : State) : Host.Outcome State Fault Refusal :=
  onStandby (fun f => (f.setFeed n { f.feed n with good := true }).tryRamp n) s

/-- RAMP_TIMER_EXPIRY (Table 14.3). -/
def execRampTimerExpiry (n : Fin 4) (s : State) : Host.Outcome State Fault Refusal :=
  onStandby (fun f => if f.feedState n == 2 then f.feedFault n 4 (fdpView s) else f) s

/-- FULLY_ON (Table 14.3): RAMP becomes ON, and the PG delay starts. -/
def execFullyOn (n : Fin 4) (s : State) : Host.Outcome State Fault Refusal :=
  onStandby (fun f =>
    if f.feedState n == 2 || f.feedState n == 3 then (f.wr (Reg.FED_STAT_STATE n) 3).wr (Reg.FED_STAT_FULL n) 1 else f) s

/-- PG_DELAY_EXPIRY (R349): PG is asserted in ON without limiting. `limits`: limiting begins in the same measurement, and wins (Table 14.7). -/
def execPgDelayExpiry (n : Fin 4) (limits : Bool) (s : State) : Host.Outcome State Fault Refusal :=
  onStandby (fun f =>
    if !limits && f.feedState n == 3 && !f.on (Reg.FED_STAT_LIMIT n) && !f.on (Reg.FED_STAT_PG n) then
      (f.wr (Reg.FED_STAT_PG n) 1).feedEvt n (Reg.FED_EVT_PG_UP n)
    else f) s

/-- FAULT_FREE_PERIOD (Table 14.3): 10 s in ON without a fault. -/
def execFaultFreePeriod (n : Fin 4) (s : State) : Host.Outcome State Fault Refusal :=
  onStandby (fun f => if f.feedState n == 3 then f.wr (Reg.FED_STAT_ATTEMPTS n) 0 else f) s

/-- COOL_END (R353, Table 14.3): T is below RETRY_C and MIN_OFF_MS has elapsed. Retry decisions wait for the microcode (R417). -/
def FDie.coolEnd (f : FDie) (n : Nat) : FDie :=
  let c := f.feed n
  let att := f.rd (Reg.FED_STAT_ATTEMPTS n)
  let latch := match c.decision with
    | some retry => !retry
    | none => c.asked && att == f.rd (Reg.FED_CFG_RETRIES n)
  if f.feedState n != 4 || f.stage != 0 || decide (((f.rd (Reg.FED_COOL_RETRY_C n) : Nat) : Rat) ≤ f.feedT n) then f
  else
    let f1 := f.setFeed n { c with asked := false, decision := none }
    if latch then (f1.wr (Reg.FED_STAT_STATE n) 5).feedEvt n (Reg.FED_EVT_LATCHED n)
    else
      let f2 := ((f1.wr (Reg.FED_STAT_STATE n) 1).wr (Reg.FED_STAT_ATTEMPTS n) (min 15 (att + 1))).bump (Reg.FED_FLTCNT_RETRIES n)
      (f2.feedEvt n (Reg.FED_EVT_RETRY n)).tryRamp n

/-- `off`: EN is written 0 in the same instant, and wins (Table 14.7): no retry. -/
def execCoolEnd (n : Fin 4) (off : Bool) (s : State) : Host.Outcome State Fault Refusal := onStandby (fun f => if off then f else f.coolEnd n) s

/-- VIN_OUT_OF_RANGE (Table 14.3). -/
def execVinOutOfRange (n : Fin 4) (s : State) : Host.Outcome State Fault Refusal := onStandby (fun f => (f.vinBad n).feedWarn n) s

/-- REVERSE_CURRENT (R352): with SHARE, RAMP and ON go to WAIT; the channel warns. -/
def FDie.reverseIn (f : FDie) (n : Nat) : FDie :=
  if f.shares n && (f.feedState n == 2 || f.feedState n == 3) then
    let f1 := (f.feedTo n 1).feedEvt n (Reg.FED_EVT_REVERSE n)
    (f1.setFeed n { f1.feed n with reverse := true }).feedWarn n
  else f

def execReverseCurrent (n : Fin 4) (s : State) : Host.Outcome State Fault Refusal := onStandby (fun f => f.reverseIn n) s

/-- WARN_HOLD_EXPIRY (R350): FEED_WARN_N has been asserted for 100 µs. -/
def execWarnHoldExpiry (s : State) : Host.Outcome State Fault Refusal := onStandby (fun f => { f with warnHold := false }.warnPin) s

/-- The channels that the field safe time turns off (Table 14.3). -/
def FDie.feedsSafe (f : FDie) : FDie :=
  (upto 4).foldl
    (fun g n =>
      if g.on (Reg.FED_CFG_SAFE n) && 1 ≤ g.feedState n && g.feedState n ≤ 4 then
        (((g.wr (Reg.FED_CFG_EN n) 0).feedTo n 0).wr (Reg.FED_STAT_ATTEMPTS n) 0).feedWarn n
      else g) f

/-- FIELD_SAFE_TIME_EXPIRY (R17, R255, Table 14.3): the link has been lost for the field safe time; every pin takes its safe state, and channels
with SAFE 1 go off. A field die asleep, or without microcode, applies none (R321). -/
def FDie.safeTime (f : FDie) : FDie := if f.linkUp || 2 ≤ f.power then f else f.goSafe.feedsSafe

def execFieldSafeTimeExpiry (s : State) : Host.Outcome State Fault Refusal := onField (fun f => f.safeTime) s

end Sys2Proof.Machine
end

