-- ==== Sys2Proof/Machine/BarOps.lean ====
section
/-! DEFINITION. How a die takes a barrier message (R221, R222, R224): what is reserved or out of range, credits, counters; and an image as
it crosses (R471). -/
namespace Sys2Proof.Machine

/-! ### Reserved fields and ranges (R222, Tables 8.9 and 8.10) -/

/-- TAG is laid out for requests, responses and images; it is 0 otherwise (Table 8.9). -/
def tagged (t : Nat) : Bool := t == 0x10 || t == 0x20 || t == 0x21 || t == 0x30 || t == 0x31

/-- STATUS and LEN of RSP. -/
def rspStatus (m : BarMsg) : Nat := m.m1.fld 0 4
/-- LEN of RSP. -/
def rspLen (m : BarMsg) : Nat := m.m1.fld 4 4
/-- Byte offset of CYC_IN and CYC_OUT. -/
def cycOff (m : BarMsg) : Nat := m.m1.fld 0 13
/-- Bytes of CYC_IN and CYC_OUT. -/
def cycBytes (m : BarMsg) : Nat := m.m1.fld 13 5
/-- Offset of a request. -/
def reqOff (m : BarMsg) : Nat := m.m1.fld 0 24
/-- LEN of a request. -/
def reqLen (m : BarMsg) : Nat := m.m1.fld 24 4
/-- WIN of a request. -/
def reqWin (m : BarMsg) : Bool := m.m1.fld 28 1 == 1
/-- MASTER of a request. -/
def reqMaster (m : BarMsg) : Nat := m.m2.fld 0 8
/-- Endpoint of a request with WIN. -/
def reqEp (m : BarMsg) : Nat := m.m2.fld 16 10
/-- The data of REQ_WR. -/
def reqData (m : BarMsg) : List Byte := (leBytes 4 m.m3.toNat ++ leBytes 4 m.m4.toNat).take (reqLen m)

/-- A data window's offset is a FIFO port (R271, R315): of an engine every offset is taken so, of CAN_n the first three. -/
def portOff (ep off : Nat) : Bool := if ep < 144 then true else if ep < 160 then off < 0x1000 else false

/-- A request's LEN and alignment are out of range: registers and FIFO ports take 4 or 8 bytes aligned to LEN, a byte-addressed part 1 to 8 that cross no
8-byte boundary. -/
def reqBad (m : BarMsg) : Bool :=
  if reqWin m && !portOff (reqEp m) (reqOff m) then reqLen m == 0 || 8 < reqLen m || 8 < reqOff m % 8 + reqLen m
  else (reqLen m != 4 && reqLen m != 8) || reqOff m % reqLen m != 0

/-- M4 to M7 are 0. -/
def tailZero (m : BarMsg) : Bool := m.m4 == 0 && m.m5 == 0 && m.m6 == 0 && m.m7 == 0

/-- A message of type t has a reserved field other than 0, or an out-of-range value, towards the field die or the host die. -/
def msgBad (toF : Bool) (t : Nat) (m : BarMsg) : Bool :=
  m.m0.fld 8 4 != 0 || m.m0.fld 14 2 != 0 || (!tagged t && mTag m != 0) ||
  match t with
  | 0x01 => m.m1.fld 30 2 != 0 || m.m5.fld 9 23 != 0 || m.m6.fld 16 16 != 0 || m.m7 != 0 || 1000000000 ≤ m.m1.fld 0 30
  | 0x02 =>
    m.m1.fld 13 3 != 0 || m.m1.fld 22 10 != 0 || m.m3.fld 16 16 != 0 || !tailZero m ||
      (if toF then m.m1.fld 0 8 != 5 else m.m1.fld 0 8 == 0 || 5 < m.m1.fld 0 8)
  | 0x03 => m.m3.fld 18 14 != 0
  | 0x10 => 9 < rspStatus m || 8 < rspLen m
  | 0x20 | 0x21 => 24 < cycBytes m || 4096 < cycOff m + cycBytes m
  | 0x30 | 0x31 => reqBad m
  | 0x40 => 24 < strBytes m || (if toF then 0x90 ≤ strNo m else 0x90 ≤ strNo m && strNo m != 0xA0)
  | 0x50 => m.m1.fld 21 9 != 0 || m.m1.fld 30 2 == 3 || 24 < m.m1.fld 16 5
  | 0x51 => m.m1.fld 8 24 != 0 || m.m2.fld 16 16 != 0 || !tailZero m || m.m1.fld 0 8 == 0 || 6 < m.m1.fld 0 8
  | _ => false

/-! ### Credits (R224) -/

/-- A total of credits raised to the value that its low byte shows. -/
def raiseTo (cur byte : Nat) : Nat := cur + (byte + 256 - cur % 256) % 256

/-- The credits that a message's M0 returns are applied. -/
def BarEnd.credit (b : BarEnd) (m : BarMsg) : BarEnd :=
  let c := m.m0.fld 12 2
  { b with granted := b.granted.set c (b.granted.getD c 0 + m.m0.fld 16 4) }

/-- A CREDIT message's absolute credits are applied. -/
def BarEnd.absolute (b : BarEnd) (m : BarMsg) : BarEnd :=
  { b with granted := (upto 4).map fun c => raiseTo (b.granted.getD c 0) (m.m1.fld (8 * c) 8) }

/-- The credits of a message of type t are applied, be it dropped or not (R222): those of its M0, and of a CREDIT those of its body. -/
def BarEnd.credits (b : BarEnd) (t : Nat) (m : BarMsg) : BarEnd := if t == 0 then (b.credit m).absolute m else b.credit m

/-- The CREDIT message of an end (Table 8.10). -/
def BarEnd.creditMsg (b : BarEnd) : BarMsg :=
  mkMsg 0x00 0 [((upto 4).map fun c => b.given.getD c 0 % 256 * 2 ^ (8 * c)).sum]

/-- An end at link up (R224). -/
def BarEnd.start : BarEnd :=
  { tx := [], granted := [8, 4, 32, 32], used := [0, 0, 0, 0], given := [8, 4, 32, 32], skips := [0, 0, 0, 0, 0, 0], slots := [] }

/-! ### Taking a message -/

/-- The host die takes a message of type t: it leaves the link, is counted, its credits are applied; a bad one is dropped and counted. While
the link is down none arrives. -/
def takeH (t : Nat) (m : BarMsg) (g : State → State) (s : State) : State :=
  let s1 := { s with link.toH := s.link.toH.erase m }
  if !s.h.on Reg.BAR_STAT_UP then s1
  else
    let h := { s.h.bump Reg.BAR_RXMSG_COUNT with brg.bar := (s.h.brg.bar.credits t m).freed t }
    if msgBad false t m then { s1 with h := h.bump Reg.BAR_RXBAD_COUNT } else g { s1 with h := h }

/-- The field die takes a message of type t. The space of a STREAM message that is taken is freed once it has left the barrier queue (R224). -/
def takeF (t : Nat) (m : BarMsg) (g : FDie → FDie) (s : State) : State :=
  let s1 := { s with link.toF := s.link.toF.erase m }
  if !s.f.linkUp then s1
  else
    let f := { s.f with bar := s.f.bar.credits t m }
    if msgBad true t m || (t == 0x40 && f.cyclicStream m) then { s1 with f := { f with bar := f.bar.freed t }.bump Reg.FGL_BRXBAD_COUNT }
    else if t == 0x40 then { s1 with f := g f }
    else { s1 with f := g { f with bar := f.bar.freed t } }

/-- A message's effect on the host die. -/
def onTakeH (t : Nat) (m : BarMsg) (g : HDie → HDie) (s : State) : Host.Outcome State Fault Refusal :=
  onBoth (takeH t m fun x => { x with h := g x.h }) s

/-- A message's effect on the field die: engines that it serves go on, and requests of its functions leave. -/
def onTakeF (t : Nat) (m : BarMsg) (g : FDie → FDie) (s : State) : Host.Outcome State Fault Refusal :=
  let s1 := takeF t m g s
  .next { carryF (carryH (fieldAct (fun _ => s1.f) { s1 with f := s.f })) with pending := s.pending }

/-! ### Images that cross (R471) -/

/-- A piece of the image of a cycle arrives; the four newest images are kept. -/
def imgAdd (l : List ImgRx) (m : BarMsg) : List ImgRx :=
  let tag := mTag m
  let x := (l.find? fun y => y.tag == tag).getD { tag := tag, pieces := [], last := false }
  ({ x with pieces := (cycOff m, msgBytes m (cycBytes m)) :: x.pieces, last := x.last || isLast m }
    :: l.filter fun y => y.tag != tag).take 4

/-- Pieces cover every byte of an image of `len` bytes. -/
def covers_ (pieces : List (Nat × List Byte)) (len : Nat) : Bool :=
  (upto len).all fun i => pieces.any fun p => p.1 ≤ i && i < p.1 + p.2.length

/-- The image of a cycle, once it has fully crossed; an image of length 0 always has. -/
def imgWhole (l : List ImgRx) (tag len : Nat) : Option (List Byte) :=
  if len = 0 then some []
  else
    match l.find? fun y => y.tag == tag % 4096 with
    | none => none
    | some x =>
      if x.last && covers_ x.pieces len then
        some ((x.pieces.reverse.foldl (fun b p => patch b p.1 p.2) (List.replicate len 0)).take len)
      else none

end Sys2Proof.Machine
end

