-- ==== Sys2Proof/Machine/Image.lean ====
section
/-! DEFINITION. The cyclic image on the field die (R267 to R270, R312, R313), its crossing (R471), the field cycle (R245) and the TIME message
(R244). -/
namespace Sys2Proof.Machine

/-! ### The input image -/

/-- The packets that a FIFO's visible words form: ERR and the words of each (R195, Table 7.2). -/
def packets : Nat → List Nat → List (Bool × List Nat)
  | 0, _ => []
  | _, [] => []
  | k + 1, w :: ws => (bitOf w 31, ws.take (w % 2 ^ 16)) :: packets k (ws.drop (w % 2 ^ 16))

/-- The slice of engine n, as it stands (R268): 0 before the first capture after the plan's activation. -/
def FDie.sliceOf (f : FDie) (n : Nat) : List Byte := slice (aget f.slices n []) 0 (4 * f.er Reg.MAR_EIMGI_LEN n)

/-- The capture of engine n (R267): every committed packet that is visible is taken, and the newest one, if it fits, becomes its slice. -/
def FDie.captureEng (f : FDie) (n : Nat) : FDie :=
  let q := 128 + n
  let x := f.fifo q
  let ps := if f.on (fifoRegs q).pkt then packets x.words.length (x.words.drop x.left) else []
  match ps.getLast? with
  | none => f.bump (Reg.MAR_EIMGSTAT_STALE (n / 8) (n % 8))
  | some (err, ws) =>
    let f1 := (f.setFifo { x with words := [], left := 0, mark := f.found x true }).wr (fifoRegs q).last (x.words.getLastD 0)
    let f2 := drainPushes q x.waiting (f1.bump (Reg.MAR_EIMGSTAT_DISC (n / 8) (n % 8)) (ps.length - 1))
    if !err && ws.length == f.er Reg.MAR_EIMGI_LEN n then { f2 with slices := aput f2.slices n (ws.flatMap fun w => leBytes 4 w) }
    else f2.bump (Reg.MAR_EIMGSTAT_BAD (n / 8) (n % 8))

/-- Engine slices, in increasing engine number (R268). -/
def captureEngs : List Nat → FDie × List Byte → FDie × List Byte
  | [], r => r
  | n :: ns, (f, im) =>
    if f.er Reg.MAR_EIMGI_CYC n == 0 then captureEngs ns (f, im)
    else
      let g := f.captureEng n
      captureEngs ns (g, patch im (g.er Reg.MAR_EIMGI_OFF n) (g.sliceOf n))

/-- The 32 inputs of a bank as a number (R269). -/
def FDie.bankIn (f : FDie) (b : Nat) : Nat := ((upto 32).map fun i => b2n (f.level (32 * b + i)) * 2 ^ i).sum

/-- Bank slices, in increasing bank number (R269). -/
def captureBanks (f : FDie) : List Nat → List Byte → List Byte
  | [], im => im
  | b :: bs, im =>
    captureBanks f bs (if f.on (Reg.FIO_BIMG_IN_EN b) then patch im (f.rd (Reg.FIO_BIMG_IN_OFF b)) (leBytes 4 (f.bankIn b)) else im)

/-- FILTER_SLICE_CAPTURE (R312): frames taken since the capture before, DLC and FDF of the last, and its first data bytes. -/
def FDie.filterSlice (f : FDie) (n k : Nat) : List Byte :=
  let c := f.can n
  let len := f.rd (Reg.CAN_FIMG_LEN n k)
  let e := f.elem (slotKey n k)
  let e1 := wordAt e 1
  let data := if c.seen.contains k then elemBytes e else []
  leBytes 1 (min 255 (aget c.hits k 0)) ++ leBytes 1 (fieldOf e1 0 4 + fieldOf e1 5 1 * 16) ++ leBytes 2 0 ++ slice data 0 len

/-- The slices of controller n's filters, in increasing number; each reads its slot (Table 15.1). -/
def captureFilters (n : Nat) : List Nat → FDie × List Byte → FDie × List Byte
  | [], r => r
  | k :: ks, (f, im) =>
    if f.on (Reg.CAN_FIMG_EN n k) then
      let w := elemWord (slotKey n k)
      captureFilters n ks ((f.readWords 0xFF 0xE w.1 w.2 10).1, patch im (f.rd (Reg.CAN_FIMG_OFF n k)) (f.filterSlice n k))
    else captureFilters n ks (f, im)

/-- The filters' counts start again at a capture (R312). -/
def FDie.hitsAnew (f : FDie) : FDie := { f with cans := f.cans.map fun e => (e.1, { e.2 with hits := [] }) }

/-- Cycle n acts on the field die: not while EN is 0, nor the one that was taken as running when EN was set (R234, R245),
nor while no microcode runs (R417). -/
def FDie.cycleActs (f : FDie) (n : Nat) : Bool := f.stage == 0 && f.on Reg.FTM_CYCLE_EN && f.tb.firstAct ≤ n

/-- CAPTURE_INSTANT (R267 to R269, R312): at S_N + SWC_LAUNCH − LEAD the input image of cycle N is taken and sent; bytes beyond the hub's IN_LEN
are not sent. -/
def FDie.captureImage (f : FDie) (n : Nat) : FDie :=
  match (if f.cycleActs n then f.plan else none) with
  | none => f
  | some p =>
    let f0 := f.advance (f.cycleStart n + ofNs p.launch - ofNs (f.rd Reg.MAR_IMGCAP_LEAD))
    let r1 := captureEngs (upto 128) (f0, List.replicate 4096 0)
    let r2 := (upto 16).foldl (fun x c => captureFilters c (upto 128) x) (r1.1, captureBanks r1.1 (upto 8) r1.2)
    (imageMsgs 0x20 n (r2.2.take p.inLen)).foldl (fun g m => g.bqSend m) r2.1.hitsAnew

def execCaptureInstant (n : Word) (s : State) : Host.Outcome State Fault Refusal := onE (fun f => f.captureImage n.toNat) s

/-- CYC_IN (R471, R26): a piece of the hub's input image arrives; once the image of the plan in force has fully crossed, it is the newest; those before it stay until they are launched (R270). -/
def HDie.cycIn (h : HDie) (m : BarMsg) : HDie :=
  let h1 := { h with brg.imgIn := imgAdd h.brg.imgIn m }
  match h1.sw.inForce with
  | none => h1
  | some p =>
    match imgWhole h1.brg.imgIn (mTag m) (p.ins.getD h1.self 0) with
    | none => h1
    | some im => { h1 with sw.lastIn := (mTag m, im) :: h1.sw.lastIn.filter fun x => x.1 % 4096 != mTag m % 4096 }

def execCycIn (m : BarMsg) (s : State) : Host.Outcome State Fault Refusal := onTakeH 0x20 m (fun h => h.cycIn m) s

/-! ### The output image -/

/-- Bytes of an image from an offset; those beyond its length are open (log 5). -/
def FDie.imageBytes (f : FDie) (im : List Byte) (off n : Nat) : List Byte × FDie :=
  let here := (im.drop off).take n
  if here.length = n then (here, f)
  else
    let r := f.openValue
    (here ++ leBytes (n - here.length) r.1, r.2)

/-- The words that bytes form, four to each, the first byte lowest (R268). -/
def bytesWords (bs : List Byte) (n : Nat) : List Nat := (upto n).map fun i => leNat (slice bs (4 * i) 4)

/-- OUTPUT_SLICE_PUSH (R268): the slice of engine n enters MAR_TXQ_n whole, as one packet with PKT 1, or not at all. -/
def FDie.pushSlice (f : FDie) (n : Nat) (im : List Byte) : FDie :=
  let len := f.er Reg.MAR_EIMGO_LEN n
  if !f.fifoOn n then f
  else
    let r := f.imageBytes im (f.er Reg.MAR_EIMGO_OFF n) (4 * len)
    let ws := bytesWords r.1 len
    let x := r.2.fifo n
    let pkt := f.on (fifoRegs n).pkt
    if f.fifoCap n < x.stored + len + b2n (pkt && x.opn.isNone) then r.2.bump (Reg.MAR_EIMGSTAT_OVF (n / 8) (n % 8))
    else
      let y := { x with mark := r.2.found x false }
      (r.2.setFifo (if pkt then y.close (x.opn.getD [] ++ ws) x.err else { y with words := x.words ++ ws })).spill n

/-- Every cyclic engine with OUT_LEN above 0 takes its slice. -/
def FDie.pushSlices (f : FDie) (im : List Byte) : FDie :=
  (upto 128).foldl
    (fun g n => if g.er Reg.MAR_EIMGI_CYC n != 0 && g.er Reg.MAR_EIMGO_LEN n != 0 then g.pushSlice n im else g) f

/-- CYC_OUT (R268, R471): a piece of the output image arrives; once it has fully crossed, the engines take their slices. -/
def FDie.cycPiece (f : FDie) (m : BarMsg) : FDie :=
  let f1 := { f with imgRx := imgAdd f.imgRx m }
  match f1.plan with
  | none => f1
  | some p =>
    match imgWhole f.imgRx (mTag m) p.outLen, imgWhole f1.imgRx (mTag m) p.outLen with
    | none, some im => f1.pushSlices im
    | _, _ => f1

/-- CYC_OUT comes through the barrier queue (R191). -/
def FDie.cycOut (f : FDie) (m : BarMsg) : FDie :=
  let r := f.cycTake m
  (r.2.filter fun x => mType x == 0x21).foldl (fun g x => g.cycPiece x) r.1

def execCycOut (m : BarMsg) (s : State) : Host.Outcome State Fault Refusal := onTakeF 0x21 m (fun f => f.cycOut m) s

/-- The output image of cycle n, if it has fully crossed (R471). -/
def FDie.outImage (f : FDie) (n : Nat) : Option (List Byte) :=
  match f.plan with
  | none => none
  | some p => imgWhole f.imgRx n p.outLen

/-- A bank takes its word of the output image, on its lines whose DRV is 0xFF (R269). -/
def FDie.bankApply (f : FDie) (b : Nat) (im : Option (List Byte)) : FDie :=
  if !f.on (Reg.FIO_BIMG_OUT_EN b) then f
  else
    match im with
    | some bs =>
      let off := f.rd (Reg.FIO_BIMG_OUT_OFF b)
      if bs.length < off + 4 then f.bump (Reg.FIO_BIMGSTAT_OUT_LATE b)
      else
        let w := leNat (slice bs off 4)
        (upto 32).foldl (fun g i => if g.rd (Reg.FIO_CFG_DRV (32 * b + i)) == 0xFF then g.hold (32 * b + i) (bitOf w i) else g) f
    | none => f.bump (Reg.FIO_BIMGSTAT_OUT_LATE b)

/-- TX_IMAGE_APPLY (R313): a buffer that is FREE or DONE takes its bytes and is requested. -/
def FDie.txApply (f : FDie) (n k : Nat) (im : Option (List Byte)) : FDie :=
  if !f.on (Reg.CAN_TXIMG_EN n k) || f.inPool n k then f
  else
    let st := f.txState n k
    match im with
    | some bs =>
      if st == 0 || st == 4 then
        let r := f.imageBytes bs (f.rd (Reg.CAN_TXIMG_OFF n k)) (min 64 (f.rd (Reg.CAN_TXIMG_LEN n k)))
        let e := r.2.elem (txKey n k)
        (((r.2.writeWords (elemWord (txKey n k)).1 ((elemWord (txKey n k)).2 + 2) 8).setElem (txKey n k) (e.take 4 ++ bytesWords (patch (elemBytes e) 0 r.1) 16))).txRequest n k false
      else f.bump (Reg.CAN_IMGOVR_COUNT n)
    | none => f.bump (Reg.CAN_IMGOVR_COUNT n)

/-- BANK_IMAGE_APPLY (R269, R313): at S_N + MAR_IMGAPP.NS; an NS at or above the cycle time acts as the cycle time less 1 µs. -/
def FDie.applyImage (f : FDie) (n : Nat) : FDie :=
  if !f.cycleActs n then f else
  let c := f.rd Reg.FTM_CYCLE_NS
  let ns := f.rd Reg.MAR_IMGAPP_NS
  let f0 := f.advance (f.cycleStart n + ofNs (if c ≤ ns then c - 1000 else ns))
  let im := f0.outImage n
  let f1 := (upto 8).foldl (fun g b => g.bankApply b im) f0
  (upto 16).foldl (fun g i => (upto 32).foldl (fun x k => x.txApply i k im) g) f1

def execBankImageApply (n : Word) (s : State) : Host.Outcome State Fault Refusal := onE (fun f => f.applyImage n.toNat) s

/-! ### The field cycle and the field time -/

/-- FIELD_CYCLE_START (R235, R245): the next field cycle starts at its own S_N; when the field time has already passed further starts, the newest
of them starts. G63 is set with CYCSTR (R263). An output image of length 0 has crossed (R471). -/
def FDie.cycleStarts (f : FDie) : FDie :=
  if !f.on Reg.FTM_CYCLE_EN then f
  else
    let next := match f.tb.running with
      | some n => n + 1
      | none => f.tb.firstAct
    let f0 := f.advance (f.epoch + next * ofNs (f.rd Reg.FTM_CYCLE_NS))
    let now := max next (f0.cycleAt f0.tb.now)
    let f1 := { f0.wr Reg.FTM_CYCNUM_N (now % 2 ^ 32) with tb.running := some now }
    let f2 := if f1.on Reg.MAR_CFG_CYCSTR then f1.changeString 0 63 true false else f1
    match f2.plan with
    | some p => if p.outLen = 0 then f2.pushSlices [] else f2
    | none => f2

def execFieldCycleStart (s : State) : Host.Outcome State Fault Refusal := onStandby (fun f => f.cycleStarts) s

/-- FIELD_TIME_CAPTURE (R232). -/
def execFieldTimeCapture (s : State) : Host.Outcome State Fault Refusal := onWrite (fun f => f.capture) s

/-- FIELD_HOLDOVER (R246): no TIME message for 10 µs. -/
def execFieldHoldover (s : State) : Host.Outcome State Fault Refusal := onStandby (fun f => f.holdover) s

/-- TIME (R244): the field time follows, and a forward change passes the times that engines, buffers and cycles wait for (R265, R307). -/
def FDie.timeMsgIn (f : FDie) (m : BarMsg) : FDie :=
  let f1 := f.timeIn m
  if f.tb.now < f1.tb.now then f1.passTime.launchPassed else f1

def execTime (m : BarMsg) (s : State) : Host.Outcome State Fault Refusal := onTakeF 0x01 m (fun f => f.timeMsgIn m) s

end Sys2Proof.Machine
end

