-- ==== Sys2Proof/Machine/MemCmds.lean ====
section
/-! DEFINITION. The commands of stored-data integrity (chapter 15). Instances 0 to 63 stand on the host die, 64 to 255 on the field die. -/
namespace Sys2Proof.Machine

/-- Work on instance i on the die that holds it. The flag of the result says that the instance has no remap entry free. -/
def onMem (i : Nat) (g : Mem → Mem × Bool) (s : State) : State :=
  if i < 64 then
    if s.h.boot.inReset then s
    else
    let r := g s.h.mem
    let h := s.h.memRun r.1
    { s with h := if r.2 then h.raise Reg.MEM_EVT_REMAP_FULL else h }
  else
    let r := g s.f.mem
    askAll { s with f := s.f.memDone r.1 r.2 }

/-- Whether instance i scrubs now (R364): its period is not 0, and its die does not sleep. -/
def scrubs (i : Nat) (s : State) : Bool :=
  let p := (if i < 64 then s.h.mem else s.f.mem).period i (s.h.rd Reg.MEM_CFG_SCRUB_MS)
  p != 0 && (i < 64 || s.f.rd Reg.FGL_PWRSTAT_STATE != 2)

/-- MEMORY_SCRUB_READ (R364): the scrub of instance i reads its next valid word; `found`, `again` and `vote` say what the read met beside what State holds. -/
def execMemoryScrubRead (i : Fin 256) (found : Fin 3) (again vote : Bool) (s : State) : Host.Outcome State Fault Refusal :=
  onEach (fun s =>
    if scrubs i s then onMem i (fun m => (m.scrub i (m.period i (s.h.rd Reg.MEM_CFG_SCRUB_MS)) found again vote, false)) s else s) s

/-- MERGE_WRITE_BACK (R362, R363): the oldest merge entry of instance i is written back; `found`: what the read of the old word meets. -/
def execMergeWriteBack (i : Fin 256) (found : Fin 3) (s : State) : Host.Outcome State Fault Refusal :=
  onEach (onMem i fun m =>
    match (m.ctx i).merge with
    | [] => (m, false)
    | e :: _ => (m.writeBack i e found, false)) s

/-- Every merge buffer of a die drains. -/
def drainMerges (m : Mem) : Mem := m.ctxs.foldl (fun x c => writeBacks c.inst (x.ctx c.inst).merge x) m

/-- MEMORY_FLUSH (R362): every merge buffer of the hub drains. -/
def memFlush (s : State) : State := onMem 64 (fun m => (drainMerges m, false)) (onMem 0 (fun m => (drainMerges m, false)) s)

def execMemoryFlush (s : State) : Host.Outcome State Fault Refusal := onEach memFlush s

/-- REMAP_WRITE (R365): MEM_IRMP_i_k is written. -/
def execRemapWrite (i : Fin 256) (k : Fin 8) (v : Word) (s : State) : Host.Outcome State Fault Refusal :=
  onEach (onMem i fun m => (m.remapWrite i k v.toNat, false)) s

/-- INJECTION_ARM (R368): MEM_IINJ_i is written; with ARM the next write to the instance is written with inverted check bits, and with REWRITE the word at ADDR at
once. -/
def execInjectionArm (i : Fin 256) (v : Word) (s : State) : Host.Outcome State Fault Refusal :=
  onEach (onMem i fun m => (m.injWrite i v.toNat, false)) s

/-- INJECTION_REWRITE (R368): MEM_IINJ_i is written with REWRITE. -/
def execInjectionRewrite (i : Fin 256) (v : Word) (s : State) : Host.Outcome State Fault Refusal :=
  onEach (onMem i fun m => (m.injWrite i (v.toNat ||| 2 ^ 19), false)) s

end Sys2Proof.Machine
end

