-- ==== Sys2Proof/Machine/Ports.lean ====
section
/-! DEFINITION. The commands of the ring ports (chapter 4): enabling, testing, training, faults and injections, as Table 4.5
states. An event that the table does not list for a state is ignored in that state (R108). -/
namespace Sys2Proof.Machine

/-- The state of port p (Table 4.4). -/
def HDie.pst (h : HDie) (p : Nat) : Nat := h.rd (Reg.RNG_PSTAT_STATE p)

/-- PORT_ENABLE_WRITE (R108): EN 0 takes any state to DISABLED; EN 1 takes DISABLED to DETECT at full rate, and on to TEST while PRBS_MODE or LPBK is set. -/
def HDie.portEnable (h : HDie) (p : Nat) (en : Bool) : HDie :=
  let h1 := h.wr (Reg.RNG_PCFG_EN p) (b2n en)
  if !en then h1.goTo p 0 1
  else if h.pst p == 0 then
    let h2 := ((upto 2).foldl (fun g l => g.wr (Reg.RNG_LTRN_ATTEMPTS p l) 0) h1).enterDetect p true
    if h2.on (Reg.RNG_PCFG_PRBS_MODE p) || h2.on (Reg.RNG_PCFG_LPBK p) then h2.goTo p 8 0xD else h2
  else h1

def execPortEnableWrite (p : Fin 2) (en : Bool) (s : State) : Host.Outcome State Fault Refusal :=
  onH (fun h => h.portEnable p en) s

/-- PORT_TEST_MODE_WRITE (R108, R124, R127): PRBS_MODE or LPBK set takes the port to TEST; both clear takes it back to DETECT. LPBK 3 is ignored. -/
def HDie.portTest (h : HDie) (p : Nat) (prbs : Bool) (lpbk : Nat) : HDie :=
  let h1 := (h.wr (Reg.RNG_PCFG_PRBS_MODE p) (b2n prbs)).wr (Reg.RNG_PCFG_LPBK p) (if lpbk = 3 then h.rd (Reg.RNG_PCFG_LPBK p) else lpbk)
  let test := h1.on (Reg.RNG_PCFG_PRBS_MODE p) || h1.on (Reg.RNG_PCFG_LPBK p)
  if h.pst p == 0 then h1
  else if test then (if h.pst p == 8 then h1 else h1.goTo p 8 0xD)
  else if h.pst p == 8 then h1.enterDetect p false
  else h1

def execPortTestModeWrite (p : Fin 2) (prbs : Bool) (lpbk : Fin 4) (s : State) : Host.Outcome State Fault Refusal :=
  onH (fun h => h.portTest p prbs lpbk) s

/-- RETRAIN (R108, R112): the port leaves its state for DETECT at full rate with cause RETRAIN, and sends RESTART for 10 µs (log 12). -/
def HDie.retrain (h : HDie) (p : Nat) : HDie :=
  if h.pst p == 0 then h
  else
    let h1 := (h.goTo p 1 0xE).enterDetect p true
    h1.setPort p { h1.port p with restart := true, holdAt := h1.tb.now }

def execRetrain (p : Fin 2) (s : State) : Host.Outcome State Fault Refusal := onH (fun h => h.retrain p) s

/-- RESTART_PERIOD_END (R108): 10 µs after RETRAIN, RESTART ends, and the port goes on in DETECT at full rate. -/
def HDie.restartOver (h : HDie) (p : Nat) : HDie :=
  if (h.port p).restart && h.pst p == 1 then
    let g := h.advance ((h.port p).holdAt + ofUs 10)
    g.setPort p { g.port p with restart := false }
  else h

def execRestartPeriodEnd (p : Fin 2) (s : State) : Host.Outcome State Fault Refusal := onH (fun h => h.restartOver p) s

/-- A lane's receiver sends its next training request (R105): which change it asks for is its own search's, a free value with SEQ in its place (log 160). -/
def HDie.nextReq (h : HDie) (p l : Nat) : HDie :=
  let (v, g) := h.openValue
  let c := g.port p
  let q := (c.reqSeq.getD l 0 + 1) % 16
  (g.bump (Reg.RNG_LTRN_REQS p l)).setPort p
    { c with reqSeq := c.reqSeq.set l q, reqWait := c.reqWait.set l true, reqOut := c.reqOut.set l (v % 256 * 2 ^ 12 + q * 2 ^ 8) }

/-- The cause and the RNG_PEVT_p bit of each local condition of Table 4.6: 0 LOS, 1 LOL, 2 BLOCK, 3 HIBER, 4 AM, 5 FORCE_LF. -/
def localCause (p c : Nat) : Nat × Option Fld :=
  match c with
  | 0 => (2, some (Reg.RNG_PEVT_LOS p))
  | 1 => (3, some (Reg.RNG_PEVT_LOL p))
  | 2 => (4, some (Reg.RNG_PEVT_BLOCK p))
  | 3 => (5, some (Reg.RNG_PEVT_HIBER p))
  | 4 => (6, some (Reg.RNG_PEVT_AM p))
  | _ => (0x10, none)

/-- LOCAL_FAULT_CONDITION (R109, R110): the lane's status shows it in any state (Table 4.8); in ACQUIRE to ACTIVE it is a FAULT with the cause of Table 4.6, and the
port sends RF. A FAULT that RF caused in the same microsecond takes the local cause (Table 4.11). FORCE_LF is a condition while it is set. -/
def HDie.localFault (h : HDie) (p l c : Nat) : HDie :=
  let cs := localCause p c
  let h1 := match c with
    | 0 => h.wr (Reg.RNG_LSTAT_SIGNAL p l) 0
    | 1 => h.wr (Reg.RNG_LSTAT_CDR p l) 0
    | 2 => h.wr (Reg.RNG_LSTAT_BLOCK p l) 0
    | 4 => h.wr (Reg.RNG_LSTAT_AM p l) 0
    | _ => h
  let h2 := match cs.2 with
    | some F => h1.raise F
    | none => h1
  let late := h.pst p == 7 && (match (h.port p).rfAt with | some t => decide (h.tb.now < t + ofUs 1) | none => false)
  if c == 5 && !h.on (Reg.RNG_INJ_FORCE_LF p) then h
  else if 2 ≤ h.pst p && h.pst p ≤ 6 then (h2.wr (Reg.RNG_PSTAT_LF p) 1).enterFault p cs.1 true
  else if late then ((h2.wr (Reg.RNG_PSTAT_LF p) 1).wr (Reg.RNG_PSTAT_CAUSE p) cs.1).setPort p { h2.port p with sendsRf := true, rfAt := none }
  else h1

def execLocalFaultCondition (p l : Fin 2) (c : Fin 6) (s : State) : Host.Outcome State Fault Refusal :=
  onH (fun h => h.localFault p l c) s

/-- PORT_SIGNAL_DETECTED (R102, R103, R108): DETECT to ACQUIRE with the training timer started; an attempt starts from INIT and is counted on each lane, and its
receivers' first requests stand in the words that the lanes send, with a TRAIN_STS of SEQ 0 and every tap not updated until a request comes (log 160). A held FORCE_LF is a FAULT at once (R109). -/
def HDie.signalDetected (h : HDie) (p : Nat) : HDie :=
  if h.pst p == 1 && !(h.port p).restart then
    let h1 := (upto 2).foldl (fun g l =>
      ((((g.wr (Reg.RNG_LSTAT_SIGNAL p l) 1).bump (Reg.RNG_LTRN_ATTEMPTS p l)).wr (Reg.RNG_LTRN_REQS p l) 0).initTaps p l).nextReq p l) h
    let h2 := (h1.wr (Reg.RNG_PSTAT_STATE p) 2).setPort p { h1.port p with noFollow := false, stsOut := [0, 0], trainAt := h1.tb.now }
    if h2.on (Reg.RNG_INJ_FORCE_LF p) then h2.localFault p 0 5 else h2
  else h

def execPortSignalDetected (p : Fin 2) (s : State) : Host.Outcome State Fault Refusal := onH (fun h => h.signalDetected p) s

/-- PORT_RATE_DETECTED (R108, R112, R187): in DETECT with FALLBACK_EN the incoming rate is taken, except that the first DETECT after a return
to full rate does not follow a neighbour at fallback rate. -/
def HDie.rateDetected (h : HDie) (p rate : Nat) : HDie :=
  if h.pst p == 1 && h.on (Reg.RNG_PCFG_FALLBACK_EN p) && h.rd (Reg.RNG_PSTAT_RATE p) != rate
      && !((h.port p).noFollow && rate == 1) then
    let h1 := (h.wr (Reg.RNG_PSTAT_RATE p) rate).setPort p { h.port p with fullFails := 0 }
    if rate == 1 && h1.sw.inForce.any (·.fast) then h1.raise Reg.SWC_EVT_OVER_RATE else h1
  else h

def execPortRateDetected (p : Fin 2) (rate : Fin 2) (s : State) : Host.Outcome State Fault Refusal :=
  onH (fun h => h.rateDetected p rate) s

/-- The polarity that POL fixes for a lane that locked on inverted headers or not (R99, Table 4.12). -/
def HDie.polInv (h : HDie) (p l : Nat) (inv : Bool) : Nat :=
  match h.rd (Reg.RNG_LCFG_POL p l) with
  | 1 => 0
  | 2 => 1
  | _ => b2n inv

/-- PORT_BLOCK_LOCK (R99, R108): ACQUIRE to ALIGN; polarity is fixed. -/
def HDie.blockLock (h : HDie) (p : Nat) (inv0 inv1 : Bool) : HDie :=
  if h.pst p == 2 then
    let h1 := (upto 2).foldl (fun g l => (g.wr (Reg.RNG_LSTAT_CDR p l) 1).wr (Reg.RNG_LSTAT_BLOCK p l) 1) h
    ((h1.wr (Reg.RNG_LSTAT_POLINV p 0) (h.polInv p 0 inv0)).wr (Reg.RNG_LSTAT_POLINV p 1) (h.polInv p 1 inv1)).wr
      (Reg.RNG_PSTAT_STATE p) 3
  else h

def execPortBlockLock (p : Fin 2) (inv0 inv1 : Bool) (s : State) : Host.Outcome State Fault Refusal :=
  onH (fun h => h.blockLock p inv0 inv1) s

/-- TRAIN to CONFIG once TRAIN_DONE was sent and received on both lanes (Table 4.5). -/
def HDie.trained (h : HDie) (p : Nat) : HDie :=
  let c := h.port p
  if h.pst p == 4 && allTrue c.doneRx && allTrue c.doneTx then h.wr (Reg.RNG_PSTAT_STATE p) 5 else h

/-- PORT_AM_LOCK (R99, R108): ALIGN to TRAIN with lane order and deskew fixed; the same logical lane twice, or a skew above 16 blocks, is a
FAULT with cause DESKEW. -/
def HDie.amLock (h : HDie) (p log0 log1 skew : Nat) : HDie :=
  if h.pst p != 3 then h
  else
    let h1 := (((((h.wr (Reg.RNG_LSTAT_AM p 0) 1).wr (Reg.RNG_LSTAT_AM p 1) 1).wr (Reg.RNG_LSTAT_LOGICAL p 0) log0).wr
      (Reg.RNG_LSTAT_LOGICAL p 1) log1).wr (Reg.RNG_PSTAT_SKEW p) (min skew 31))
    if log0 == log1 || 16 < skew then h1.enterFault p 9 false
    else ((h1.wr (Reg.RNG_PSTAT_LANE_REV p) log0).wr (Reg.RNG_PSTAT_STATE p) 4).trained p

def execPortAmLock (p : Fin 2) (log0 log1 : Fin 2) (skew : Nat) (s : State) : Host.Outcome State Fault Refusal :=
  onH (fun h => h.amLock p log0 log1 skew) s

/-! ### Training -/

/-- The tap sets that R103 allows. -/
def tapsOk (pre main post : Nat) : Bool :=
  pre ≤ 15 && 24 ≤ main && main ≤ 63 && post ≤ 31 && pre + main + post ≤ 63 && pre + post + 12 ≤ main

/-- One step of one tap (0 PRE, 1 MAIN, 2 POST): the new set, or none where it would leave the ranges (R103, R104). -/
def tapStep (t : Nat × Nat × Nat) (which : Nat) (up : Bool) : Option (Nat × Nat × Nat) :=
  let (a, b, c) := t
  let move := fun (x : Nat) => if up then some (x + 1) else if x = 0 then none else some (x - 1)
  let r : Option (Nat × Nat × Nat) :=
    match which with
    | 0 => (move a).map fun x => (x, b, c)
    | 1 => (move b).map fun x => (a, x, c)
    | _ => (move c).map fun x => (a, b, x)
  match r with
  | some (x, y, z) => if tapsOk x y z then some (x, y, z) else none
  | none => none

/-- What a transmitter does with a training request's content (R104, Table 4.3): the new taps and the status of the three taps, each 0 not
updated, 1 updated, 2 at minimum, 3 at maximum. -/
def trainAct (t : Nat × Nat × Nat) (c : Nat) : (Nat × Nat × Nat) × (Nat × Nat × Nat) :=
  let pre := fieldOf c 18 2
  let main := fieldOf c 16 2
  let post := fieldOf c 14 2
  let preset := bitOf c 13
  let init := bitOf c 12
  let changes := b2n (pre != 0) + b2n (main != 0) + b2n (post != 0)
  if preset && !init && changes == 0 then ((0, 63, 0), (1, 1, 1))
  else if init && !preset && changes == 0 then ((4, 47, 12), (1, 1, 1))
  else if preset || init || changes != 1 || pre == 3 || main == 3 || post == 3 then (t, (0, 0, 0))
  else
    let which := if pre != 0 then 0 else if main != 0 then 1 else 2
    let req := pre + main + post
    let st := fun (v : Nat) => if which = 0 then (v, 0, 0) else if which = 1 then (0, v, 0) else (0, 0, v)
    match tapStep t which (req == 1) with
    | some n => (n, st 1)
    | none => (t, st (if req == 1 then 3 else 2))

/-- TRAIN_REQ_RECEIVED (R104, R106): a request whose SEQ differs from the last acted on is applied to the taps and answered; with TAPMAN
every tap is not updated. In ACTIVE it is the peer's restart (Table 4.5). -/
def HDie.trainReq (h : HDie) (p l c : Nat) : HDie :=
  let ctx := h.port p
  let seq := fieldOf c 8 4
  if h.pst p == 6 then (h.goTo p 1 0xF).enterDetect p false
  else if h.pst p < 2 || 4 < h.pst p || ctx.lastSeq.getD l none == some seq then h
  else
    let taps := (h.rd (Reg.RNG_LTAP_PRE p l), h.rd (Reg.RNG_LTAP_MAIN p l), h.rd (Reg.RNG_LTAP_POST p l))
    let r := if h.on (Reg.RNG_LCFG_TAPMAN p l) then (taps, (0, 0, 0)) else trainAct taps c
    let sts := r.2.1 * 2 ^ 18 + r.2.2.1 * 2 ^ 16 + r.2.2.2 * 2 ^ 14 + seq * 2 ^ 8
    (((h.wr (Reg.RNG_LTAP_PRE p l) r.1.1).wr (Reg.RNG_LTAP_MAIN p l) r.1.2.1).wr (Reg.RNG_LTAP_POST p l) r.1.2.2).setPort p
      { ctx with lastSeq := ctx.lastSeq.set l (some seq), stsOut := ctx.stsOut.set l sts }

def execTrainReqReceived (p l : Fin 2) (c : BitVec 20) (s : State) : Host.Outcome State Fault Refusal :=
  onH (fun h => h.trainReq p l c.toNat) s

/-- TRAIN_STS_RECEIVED (R105): a status echoing the SEQ of the lane's request lets it send the next, until it is done. -/
def HDie.trainSts (h : HDie) (p l c : Nat) : HDie :=
  let ctx := h.port p
  if 2 ≤ h.pst p && h.pst p ≤ 4 && ctx.reqWait.getD l false && ctx.reqSeq.getD l 0 == fieldOf c 8 4 then
    if ctx.doneTx.getD l false then h.setPort p { ctx with reqWait := ctx.reqWait.set l false } else h.nextReq p l
  else h

def execTrainStsReceived (p l : Fin 2) (c : BitVec 20) (s : State) : Host.Outcome State Fault Refusal :=
  onH (fun h => h.trainSts p l c.toNat) s

/-- LANE_EYE_REACHED (R102, R105): from ACQUIRE to the end of TRAIN a lane at 0.30 UI of eye width (39/128) and 40 mV of eye height (20 × 2 mV) sends
TRAIN_DONE. -/
def HDie.eye (h : HDie) (p l eh ev : Nat) : HDie :=
  if h.pst p < 2 || 4 < h.pst p then h
  else
    let h1 := (h.wr (Reg.RNG_LSTAT_EYE_H p l) (min eh 255)).wr (Reg.RNG_LSTAT_EYE_V p l) (min ev 255)
    if eh < 39 || ev < 20 then h1
    else
      let c := h1.port p
      ((h1.wr (Reg.RNG_LSTAT_DONE p l) 1).setPort p { c with doneTx := c.doneTx.set l true }).trained p

def execLaneEyeReached (p l : Fin 2) (eyeH eyeV : Nat) (s : State) : Host.Outcome State Fault Refusal :=
  onH (fun h => h.eye p l eyeH eyeV) s

/-- TRAIN_DONE_RECEIVED (R102, R108): on both lanes, sent and received, it moves the port from TRAIN to CONFIG. -/
def HDie.trainDone (h : HDie) (p l : Nat) : HDie :=
  if h.pst p < 2 || 4 < h.pst p then h
  else
    let c := h.port p
    (h.setPort p { c with doneRx := c.doneRx.set l true }).trained p

def execTrainDoneReceived (p l : Fin 2) (s : State) : Host.Outcome State Fault Refusal := onH (fun h => h.trainDone p l) s

/-- CONFIG_ACK sent and received: ACTIVE, after FEC lock when FEC is on (R100, R108). The setting at this instant is the one in use until the next DETECT. -/
def HDie.acked (h : HDie) (p : Nat) : HDie :=
  let c := { h.port p with fecNext := h.on (Reg.RNG_PCFG_FEC p) }
  if h.pst p == 5 && c.ackSent && c.ackRcvd && !c.fecWait then
    if c.fecNext then h.setPort p { c with fecWait := true, holdAt := h.tb.now } else (h.setPort p c).enterActive p
  else h

/-- RNG_NEIGH_p holds the fields of the last CONFIG received (R113, Table 4.2). -/
def HDie.neighbour (h : HDie) (p c : Nat) : HDie :=
  (((h.wr (Reg.RNG_NEIGH_HUB p) (fieldOf c 13 7)).wr (Reg.RNG_NEIGH_PORT p) (fieldOf c 12 1)).wr (Reg.RNG_NEIGH_PVER p) (fieldOf c 8 4)).wr
    (Reg.RNG_NEIGH_FEC p) (fieldOf c 7 1)

/-- CONFIG_RECEIVED (R113, Table 4.2): the fields stand in RNG_NEIGH_p; a compatible one is answered with CONFIG_ACK, another is a FAULT
with cause MISWIRE, FEC or PROTO in that order. In ACTIVE it is the peer's restart. -/
def HDie.config (h : HDie) (p c : Nat) : HDie :=
  if h.pst p == 6 then ((h.neighbour p c).goTo p 1 0xF).enterDetect p false
  else if h.pst p != 5 then h
  else
    let port := fieldOf c 12 1
    let ver := fieldOf c 8 4
    let fec := fieldOf c 7 1
    let h1 := h.neighbour p c
    if port == p then (h1.raise (Reg.RNG_PEVT_MISWIRE p)).enterFault p 0xA false
    else if fec != h.rd (Reg.RNG_PCFG_FEC p) then (h1.raise (Reg.RNG_PEVT_FEC p)).enterFault p 0xB false
    else if ver != 1 then (h1.raise (Reg.RNG_PEVT_PROTO p)).enterFault p 0xC false
    else (h1.setPort p { h1.port p with ackSent := true }).acked p

def execConfigReceived (p : Fin 2) (c : BitVec 20) (s : State) : Host.Outcome State Fault Refusal :=
  onH (fun h => h.config p c.toNat) s

/-- CONFIG_ACK_RECEIVED (R108). -/
def HDie.configAck (h : HDie) (p : Nat) : HDie :=
  if h.pst p != 5 then h else (h.setPort p { h.port p with ackRcvd := true }).acked p

def execConfigAckReceived (p : Fin 2) (s : State) : Host.Outcome State Fault Refusal := onH (fun h => h.configAck p) s

/-- FEC_LOCK_ACQUIRED (R100): the port enters ACTIVE. -/
def execFecLockAcquired (p : Fin 2) (s : State) : Host.Outcome State Fault Refusal :=
  onH (fun h => if h.pst p == 5 && (h.port p).fecWait then h.enterActive p else h) s

/-- FEC_LOCK_TIMEOUT (R108): 100 µs without FEC lock, FAULT with cause FEC, which RNG_PEVT.FEC tells too (log 185). -/
def HDie.fecLate (h : HDie) (p : Nat) : HDie :=
  if h.pst p == 5 && (h.port p).fecWait then ((h.advance ((h.port p).holdAt + ofUs 100)).raise (Reg.RNG_PEVT_FEC p)).enterFault p 0xB false else h

def execFecLockTimeout (p : Fin 2) (s : State) : Host.Outcome State Fault Refusal := onH (fun h => h.fecLate p) s

/-- TRAIN_TIMEOUT (R108, R112): the training timer, started in ACQUIRE, reaches TRAIN_TMO in ACQUIRE to CONFIG: FAULT with cause TRAIN_FAIL, and FAILS + 1. -/
def HDie.trainLate (h : HDie) (p : Nat) : HDie :=
  if 2 ≤ h.pst p && h.pst p ≤ 5 then
    let g := h.advance ((h.port p).trainAt + ofMs (10 * max 1 (h.rd (Reg.RNG_PCFG_TRAIN_TMO p))))
    let c := g.port p
    let g1 := g.setPort p { c with fullFails := if g.on (Reg.RNG_PSTAT_RATE p) then 0 else min 3 (c.fullFails + 1) }
    ((g1.bump (Reg.RNG_PSTAT_FAILS p)).raise (Reg.RNG_PEVT_TRAIN_FAIL p)).enterFault p 8 false
  else h

def execTrainTimeout (p : Fin 2) (s : State) : Host.Outcome State Fault Refusal := onH (fun h => h.trainLate p) s

/-! ### Faults -/

/-- REMOTE_FAULT_DETECTED (R97, R110): in ALIGN to ACTIVE, FAULT with cause RF; the port sends idle. -/
def execRemoteFaultDetected (p : Fin 2) (s : State) : Host.Outcome State Fault Refusal :=
  onH (fun h =>
    if 3 ≤ h.pst p && h.pst p ≤ 6 then
      ((h.raise (Reg.RNG_PEVT_RF p)).wr (Reg.RNG_PSTAT_RF_RX p) 1).enterFault p 7 false
    else h) s

/-- PEER_RESTART_RECEIVED (R108): RESTART, TRAIN_REQ or CONFIG in ACTIVE takes the port to DETECT. -/
def execPeerRestartReceived (p : Fin 2) (s : State) : Host.Outcome State Fault Refusal :=
  onH (fun h => if h.active p then (h.goTo p 1 0xF).enterDetect p false else h) s

/-- FAULT_HOLD_EXPIRY (R108, R112): FAULT to DETECT at the rate of R112, FAULT_HOLD after the FAULT. -/
def HDie.holdElapsed (h : HDie) (p : Nat) : HDie :=
  if h.pst p == 7 then (h.advance ((h.port p).holdAt + ofUs (10 * max 1 (h.rd (Reg.RNG_PCFG_FAULT_HOLD p))))).enterDetect p false else h

def execFaultHoldExpiry (p : Fin 2) (s : State) : Host.Outcome State Fault Refusal := onH (fun h => h.holdElapsed p) s

/-- ALIGNMENT_MARKER_RECEIVED (R98, R100, R133): a BIP8 mismatch is counted in RNG_BIPERR_p_l; with FEC in use, so are the codewords that the lane corrected and
could not correct since its last marker (log 161). -/
def HDie.marker (h : HDie) (p l : Nat) (bad : Bool) (corr unc : Nat) : HDie :=
  let h1 := if h.on (Reg.RNG_PSTAT_FEC_ON p) then (h.bump (Reg.RNG_FECCORR_COUNT p) corr).bump (Reg.RNG_FECUNC_COUNT p) unc else h
  if bad then (h1.bump (Reg.RNG_BIPERR_COUNT p l)).raise (Reg.RNG_PEVT_BIP p) else h1

def execAlignmentMarkerReceived (p l : Fin 2) (bip computed : Byte) (corr unc : Nat) (s : State) : Host.Outcome State Fault Refusal :=
  onH (fun h => h.marker p l (bip != computed) corr unc) s

/-- PRBS_LOCK_CHANGE (R125): the checker of a ring lane (unit 0 to 3: port × 2 + lane) or a spur (4 to 7) gains or loses lock; it counts errors
only while enabled, and `errors` bits in error since the last report. -/
def HDie.prbs (h : HDie) (u : Nat) (lock : Bool) (errors : Nat) : HDie :=
  if u < 4 then
    let p := u / 2
    let l := u % 2
    if h.on (Reg.RNG_LCFG_CHK p l) then
      let h1 := if h.on (Reg.RNG_LSTAT_PRBSLOCK p l) then h.bump (Reg.RNG_PRBSERR_COUNT p l) errors else h
      h1.wr (Reg.RNG_LSTAT_PRBSLOCK p l) (b2n lock)
    else h.wr (Reg.RNG_LSTAT_PRBSLOCK p l) 0
  else
    let s := u - 4
    if h.on (Reg.SPU_CFG_CHK s) then
      let h1 := if h.on (Reg.SPU_STAT_PRBSLOCK s) then h.bump (Reg.SPU_PRBSERR_COUNT s) errors else h
      h1.wr (Reg.SPU_STAT_PRBSLOCK s) (b2n lock)
    else h.wr (Reg.SPU_STAT_PRBSLOCK s) 0

def execPrbsLockChange (u : Fin 8) (lock : Bool) (errors : Nat) (s : State) : Host.Outcome State Fault Refusal :=
  onH (fun h => h.prbs u lock errors) s

/-! ### Injection (R126) -/

/-- INJECT_HCRC: the HCRC of the next frame sent on the port is corrupted. -/
def execInjectHcrc (p : Fin 2) (s : State) : Host.Outcome State Fault Refusal :=
  onH (fun h => h.setPort p { h.port p with injHcrc := true }) s

/-- INJECT_CRC: the trailer of the next frame sent is XORed with 1. -/
def execInjectCrc (p : Fin 2) (s : State) : Host.Outcome State Fault Refusal :=
  onH (fun h => h.setPort p { h.port p with injCrc := true }) s

/-- The next block of port p is corrupted: it carries part of the frame in transmission, or falls between frames and has no effect here (R126). -/
def HDie.hitBlock (h : HDie) (p : Nat) : HDie :=
  if h.sw.copies.any fun c => c.leaving && c.q / 8 == p then h.setPort p { h.port p with hit := true } else h

/-- INJECT_SYNC: the sync header of the next block on both lanes is corrupted. -/
def execInjectSync (p : Fin 2) (s : State) : Host.Outcome State Fault Refusal := onH (fun h => h.hitBlock p) s

/-- INJECT_ONE: one bit of the lane's next block is inverted; either lane carries part of the frame in transmission (R96). -/
def execInjectOne (p _l : Fin 2) (s : State) : Host.Outcome State Fault Refusal := onH (fun h => h.hitBlock p) s

end Sys2Proof.Machine
end

