-- ==== Sys2Proof/Machine/ResetOps.lean ====
section
/-! DEFINITION. What is reset and how: the PCI domain (R92), the reset domains of Table 16.2 (R372), the loss of the barrier link (R17, R226),
and the host die as a chip reset leaves it (R434). -/
namespace Sys2Proof.Machine

/-! ### The PCI domain -/

/-- The maps as a PCIe reset leaves them (R92): every map is removed; what an output map had accepted is still sent, stale, and counted at each launch from here
on, that of a slice fetched before included. -/
def deadMaps (ms : List CMap) : List CMap :=
  (ms.filter fun m => m.dir == 1).map fun m => { m with live := false, stale := true, have_ := [] }

/-- Accesses of the host whose data and completions are discarded (R92): they end at their targets unheard, a BAR4 access under the deadline and the access type of its
kind still (R203, R214). -/
def orphan (r : NpReq) : NpReq :=
  if r.kind = 0 then { r with kind := 3 } else if r.kind = 1 then { r with kind := 4, phase := if r.phase = 2 then 0 else r.phase } else r

/-- An access through BAR0 that a PCIe reset leaves without its host (R92): its data and completion are discarded. -/
def FieldAcc.orphaned (a : FieldAcc) : FieldAcc := if a.who = 0 then { a with who := 9 } else a

/-- The same of one that waits for its turn. -/
def Job.orphaned (j : Job) : Job := { j with acc := j.acc.orphaned }

/-- PCIE_RESET (R92): a function level reset (0), a hot reset (1) or loss of the PCIe link (2) resets every register of the PCI block and disables
every queue; pending launches, already read, still leave. A function level reset leaves the link itself up (log 75). -/
def HDie.pciReset (h : HDie) (kind : Nat) : HDie :=
  let h1 := { h with regs := regReset (regReset h.regs 0x20000 0x2FEFC) 0x2FF08 0x2FF08 }
  let h2 := { h1 with
    hostq.sqs := []
    hostq.cqs := []
    hostq.bufs := []
    hostq.held := []
    hostq.changes := []
    hostq.maps := deadMaps h1.hostq.maps
    hostq.turnQ := []
    hostq.departs := []
    hostq.cycPost := []
    hostq.msixPend := []
    hostq.msixTab := []
    hostq.msixOpen := []
    hostq.linkUp := h1.hostq.linkUp && kind == 0
    hostq.l12 := h1.hostq.l12 && kind == 0
    brg.accs := h1.brg.accs.map FieldAcc.orphaned
    brg.jobs := h1.brg.jobs.map Job.orphaned
    brg.nps := (h1.brg.nps.filter fun (r : NpReq) => !(r.kind == 1 && r.phase == 2)).map orphan
    hiHold := h1.hiHold.filter fun e => e.1 / 65536 != 2
    hiCap := h1.hiCap.filter fun e => e.1 / 65536 != 2 }
  (upto 16).foldl
    (fun g f =>
      if g.rd (Reg.SPL_FSTAT_STATE f) == 2 && g.rd (Reg.SPL_FCFG_MODE f) == 2 && !g.on (Reg.SPL_FSTAT_HWSERVE f) then
        ((g.withdraw f).wr (Reg.SPL_FSTAT_HWSERVE f) 1).wr (Reg.SPL_FSTAT_SERVED f) 0
      else g) h2.showBrg

/-! ### The ring bridge -/

/-- End every non-posted access with an outcome. -/
def endAll (e : End) : List NpReq → HDie → HDie
  | [], h => h
  | r :: rs, h => endAll e rs (if r.phase = 2 then h else h.endNp r e [])

/-- Every unsettled posted write fails. -/
def failAll (e : End) : List PostedW → HDie → HDie
  | [], h => h
  | w :: ws, h =>
    if h.pwAsked w then failAll e ws h else failAll e ws ((if w.hub = 127 then h else h.reportPw w e).dropPw w)

/-- The ring bridge is reset (Table 16.2): accesses end with TIMEOUT, unsettled posted writes fail with TIMEOUT, order records are freed. -/
def HDie.bridgeReset (h : HDie) : HDie :=
  let h1 := failAll 17 h.brg.posted (endAll 17 h.brg.nps h)
  ({ h1 with brg.orders := [], brg.acks := [], brg.ackIn := [], brg.reports := [] }.wr Reg.BRG_STATUS_ORD_FULL 0).settlePw

/-! ### The barrier link -/

/-- A posted write of hub `src` has been performed here, or has failed: the next ACK covers it (R218). -/
def HDie.ackNote (h : HDie) (src master rnum : Nat) (failed : Bool) : HDie :=
  { h with brg.acks := h.brg.acks ++ [({ src := src, master := master, fails := b2n failed, rnum := rnum } : AckDue)] }

/-- A posted write of this hub to itself, or to every hub, has been performed here (R37, R75). -/
def HDie.pwPerformed (h : HDie) (ser : Nat) : HDie :=
  { h with brg.posted := h.brg.posted.filter fun (w : PostedW) => !(w.ser == ser && 127 ≤ w.hub) }.settlePw

/-- A posted write of this hub to itself has failed (R204, R219): reported, and settled. -/
def HDie.pwLocalFail (h : HDie) (ser status : Nat) : HDie :=
  match h.brg.posted.find? fun w => w.ser == ser && w.hub == 128 with
  | none => h
  | some w => (h.reportPw w status).pwPerformed ser

/-- A fault of the ring bridge about an access of the host that has no ring address (R204, R209). -/
def HDie.hostFault (h : HDie) (kind access detail : Nat) : HDie :=
  h.report { source := 14, kind := kind, master := 0x40, access := access, conseq := false, injected := false, react := true, addrValid := false,
             addr := 0, time := timeWord h.tb.now, detail := detail }

/-- A broadcast write has failed at this hub (R216). -/
def HDie.bcastFault (h : HDie) (raddr status src rnum : Nat) : HDie := h.bridgeFault 4 0x42 7 raddr status src rnum h.tb.now

/-- An access that was performed in parts ends: what its originator receives (R204, R212, R218, R219). -/
def HDie.endAcc (h : HDie) (a : FieldAcc) (status : Nat) (data : List Byte) : HDie :=
  match a.who with
  | 0 =>
    let h1 := if status = 0 then h
      else h.hostFault (endKind status) (if a.op = 1 then 0 else 1) (status + h.self * 2 ^ 16)
    if a.op = 1 then
      h1.hostRead { bar := 0, addr := a.raddr, data := if status = 0 then data else allOnes a.len, ur := false }
    else h1
  | 1 =>
    if a.op = 2 then
      let h1 := h.ackNote a.src a.master a.rnum (status != 0)
      if status = 0 then h1 else h1.respond a.src 2 a.master status a.rnum []
    else h.respond a.src a.op a.master status a.rnum data
  | 2 =>
    match h.brg.nps.find? fun r => r.ser == a.ref && r.phase == 3 with
    | none => h
    | some r => h.endNp r status data
  | 3 => if status = 0 then h.pwPerformed a.ref else h.pwLocalFail a.ref status
  | 4 => if status = 0 then h else h.bcastFault a.raddr status a.src a.rnum
  | 6 => if status = 0 then h.cycleTotal a.ref (leNat (slice data 0 4)) else h
  | 7 => if status = 0 then h.remapRead a.ref (leNat (slice data 0 4)) else h
  | 9 => if status = 0 then h else h.hostFault (endKind status) (if a.op = 1 then 0 else 1) (status + h.self * 2 ^ 16)
  | _ => (if status = 0 then h else h.bcastFault a.raddr status h.self 0).pwPerformed a.ref

/-- Every access that waits for the barrier ends with UNREACHABLE. -/
def endAccs : List FieldAcc → HDie → HDie
  | [], h => h
  | a :: as_, h => endAccs as_ (h.endAcc a 3 [])

/-- An accepted access needs the barrier. -/
def Job.crosses (j : Job) : Bool :=
  match j.parts with
  | some ps => ps.any fun p => match p.place with | .field _ | .window _ _ => true | _ => false
  | none => false

/-- The unit that a request is about stands on the field die: functions NMG, ENG, FDP and GRM, and SCB of its instances. -/
def HaReq.ofField (r : HaReq) : Bool := r.func == 5 || r.func == 6 || r.func == 7 || r.func == 12 || (r.func == 14 && 64 ≤ r.ctx % 256)

/-- Requests that units of the field die made do not outlive the barrier link: they are withdrawn, and decided as in HW (log 51). -/
def HDie.fieldWithdraw (h : HDie) : HDie :=
  let mine := h.spl.reqs.filter fun r => r.ofField
  let h1 := mine.foldl (fun g r => (g.dropReq r.func r.cookie).bump (Reg.SPL_FCNT_DEFAULTED r.func)) h
  { h1 with spl.owed := h1.spl.owed ++ mine }

/-- A class F download that the loss of the barrier cuts off is abandoned, and begins anew when the ROM or the old microcode speaks (Table 18.8); at boot it is
forgotten, and a microcode that has reported RUNNING still has to be healthy. -/
def HDie.lostLoad (h : HDie) : Option FLoad :=
  match h.upd.load with
  | none => none
  | some l => if l.ran then some l else if h.upd.switch.isSome || l.tried then some { l with sent := false } else none

/-- What the host die loses with the barrier link (R226, R227, R417, R419): accesses that need it end, the queues empty, a class F load is abandoned. -/
def HDie.barrierGone (h0 : HDie) : HDie :=
  let h := h0.fieldWithdraw
  let h1 := endAccs (h.brg.accs ++ (h.brg.jobs.filter Job.crosses).map (·.acc))
    { h with brg.accs := [], brg.waits := [], brg.jobs := h.brg.jobs.filter fun j => !j.crosses }
  { h1 with brg.bar := BarEnd.clear, brg.imgIn := [], brg.strIn := [], upd.load := h1.lostLoad }

/-- The barrier link is reset (Table 16.2): both ends retrain, so that the link is down until BARRIER_LINK_UP grants credits afresh (log 73); the queues empty,
accesses that wait end as with a loss, and neither end declares one. -/
def barrierReset (s : State) : State :=
  if !s.linked then s
  else
    { s with
      h := ((s.h.wr Reg.BAR_STAT_UP 0).wr Reg.BAR_STAT_CH_LOCK 0).barrierGone
      f := [288, 289, 290, 291].foldl (fun g q => g.bqClear q) { s.f with linkUp := false, bar := BarEnd.clear, waits := [], rom := [], romSeq := 0 }
      link := { toF := [], toH := [] } }

/-! ### Field-die blocks -/

/-- The FIFO q is emptied (R200); EN and QLAST stay. -/
def FDie.emptyFifo (f : FDie) (q : Nat) : FDie := f.setFifo { f.fifo q with words := [], opn := none, err := false, waiting := [], left := 0 }

/-- Cluster c is reset (Table 16.2). -/
def FDie.clusterReset (f : FDie) (c : Nat) : FDie :=
  (upto 8).foldl (fun g k => (g.emptyFifo (8 * c + k)).emptyFifo (128 + 8 * c + k)) (f.clusterEnable c 0)

/-- CAN_n is reset (Table 16.2): INIT, TEC and REC 0, waiting buffers end CANCEL_OK, both receive queues empty. -/
def FDie.canReset (f : FDie) (n : Nat) : FDie :=
  let f1 := ((((f.wr (Reg.CAN_CTL_MODE n) 0).wr (Reg.CAN_STAT_MODE n) 0).wr (Reg.CAN_STAT_INTEG n) 0).wr (Reg.CAN_STAT_ACT n) 0).setErr n 0 0
  let f2 := ((f1.wr (Reg.CAN_ECNT_STATE n) 0).setCan n { f1.can n with modeWait := false, recov := false, kaWait := false })
  let f3 := (upto 32).foldl (fun g k => if 1 ≤ g.txState n k && g.txState n k ≤ 3 then g.txDone n k 2 else g) f2
  (upto 2).foldl
    (fun g j =>
      (((g.wr (Reg.CAN_RXQSTAT_FILL n j) 0).wr (Reg.CAN_RXQSTAT_FULL n j) 0).wr (Reg.CAN_RXQSTAT_GET n j) (g.rd (Reg.CAN_RXQSTAT_PUT n j)))) f3

/-- FEED_n is reset (Table 16.2): to OFF as on EN written 0, and EN reads 0. -/
def FDie.feedReset (f : FDie) (n : Nat) : FDie :=
  (((f.wr (Reg.FED_CFG_EN n) 0).feedTo n 0).wr (Reg.FED_STAT_ATTEMPTS n) 0).feedWarn n

/-- The Groom's filters restart (Table 16.2): no sample is behind them, and a debounced or IIR input has its reset value again (log 30). -/
def FDie.groomReset (f : FDie) : FDie :=
  (upto 20).foldl
    (fun g i => if g.rd (Reg.GRM_INCFG_FILT i) == 1 || g.rd (Reg.GRM_INCFG_FILT i) == 3 then g.wr (Reg.GRM_VAL_VALUE i) 0 else g) { f with grmS := [] }

/-- A field-die domain is reset. -/
def FDie.domainReset (f : FDie) (d : Nat) : FDie :=
  if d == 13 then f.groomReset
  else if 16 ≤ d && d ≤ 31 then f.clusterReset (d - 16)
  else if 32 ≤ d && d ≤ 47 then f.canReset (d - 32)
  else if 48 ≤ d && d ≤ 51 then f.feedReset (d - 48)
  else f

/-! ### The management core and the update engine -/

/-- The management core stops (R33): its functions are served in HW until a core confirms its health. -/
def HDie.coreStop (h : HDie) : HDie := { h with boot.coreHeld := true, boot.coreOk := false }.serveAll

/-- The reset time of domain d in µs; 0 where it cannot be reset (Table 16.2). -/
def resetUs (d : Nat) : Nat :=
  if d == 1 then 10 else if d == 2 || d == 3 then 2 else if 4 ≤ d && d ≤ 7 then 2 else if d == 8 then 5 else if d == 9 then 20
  else if d == 10 then 5 else if d == 11 then 5 else if d == 12 then 6 else if d == 13 then 5
  else if 16 ≤ d && d ≤ 31 then 1 else if 32 ≤ d && d ≤ 47 then 2 else if 48 ≤ d && d ≤ 51 then 10 else 0

/-- FLT_SHOPEN shows the open shadows (R383). -/
def HDie.showShadows (h : HDie) : HDie :=
  h.wr Reg.FLT_SHOPEN_DOM (h.flt.shadows.foldl (fun m x => if h.tb.now ≤ x.close then m ||| 2 ^ x.dom else m) 0)

/-- The shadow of a reset of domain d opens (R382, R383): from its start until its reset time plus SHADOW_US. -/
def HDie.openShadow (h : HDie) (d : Nat) : HDie :=
  let close := h.tb.now + ofUs (resetUs d + h.rd Reg.FLT_TIM_SHADOW_US)
  { h with flt.shadows := h.flt.shadows ++ [({ dom := d, open_ := h.tb.now, close := close } : Shadow)],
           flt.resets := d :: h.flt.resets.filter fun x => x != d }.showShadows

/-- The host die's part of a reset of domain d; domains 9, 10 and 11 have theirs in the files of those units. -/
def HDie.domainReset (h : HDie) (d : Nat) : HDie :=
  if d == 1 then h.pciReset 0
  else if d == 2 || d == 3 then if h.pst (d - 2) == 0 then h else (h.goTo (d - 2) 1 0xE).enterDetect (d - 2) true
  else if 4 ≤ d && d ≤ 7 then h.spurReset (d - 4)
  else if d == 8 then h.bridgeReset
  else if d == 9 then h.coreStop
  else if d == 11 then (upto 30).foldl (fun g m => (g.wr (Reg.AGE_MVAL_WEAR m) 0).wr (Reg.AGE_MVAL_RAW m) 0) h
  else h

/-! ### Chip reset -/

/-- Whether a register keeps its content through chip reset (R382, R385, R434): the fault log, the first-error capture, FLT_LASTRST, FLT_GRAVE and
FLT_GRAVET, and of the grave source PEND and GRAVE; and what the variant fixes. -/
def chipKeeps (grave : Option Nat) (key : Nat) : Bool :=
  let a := key / 32 * 4
  variantKey key || (0xA0400 ≤ a && a < 0xA0C00) || (0xA0080 ≤ a && a < 0xA00A0) || a == 0xA0040 || a == 0xA004C || a == 0xA0030 || a == 0xA0020 ||
    (0xA0028 ≤ a && a < 0xA0030) ||
    (match grave with | some s => key == 8 * (0xA1008 + 0x10 * s) || key == 8 * (0xA1008 + 0x10 * s) + 3 || key == 8 * 0xA0008 + 2 | none => false)

/-- The source that the grave latch holds. -/
def HDie.graveSource (h : HDie) : Option Nat := if h.on Reg.FLT_GRAVE_VALID then some (h.rd Reg.FLT_GRAVE_SOURCE) else none

/-- No source that a part of variant v lacks: its PRESENT is 0, and so is EN, whose reset value is PRESENT (R371, Table 16.8). -/
def sourcesOf (v : Nat) (r : Regs) : Regs :=
  ((upto 625).filter (lacksSource v)).foldl (fun (r : Regs) s => regPut (regPut r (Reg.FLT_SCFG_PRESENT s) 0) (Reg.FLT_SCFG_EN s) 0) r

/-- The host die in chip reset (R434): every register at its reset value and every counter at 0, but for what survives. The flash, host memory and what
is out of range outside stay as they are. -/
def HDie.chipCleared (h : HDie) : HDie :=
  { HDie.clear with
    regs := sourcesOf h.variant (h.regs.filter fun e => chipKeeps h.graveSource e.1)
    hostq := { HostQ.clear with hostMem := h.hostq.hostMem, msixSent := h.hostq.msixSent }
    brg := { Bridge.clear with reads := h.brg.reads }
    flt := { Faults.clear with
      outs := h.flt.outs.filter fun x => x.1 != 15
      kinds := h.flt.kinds.filter fun k => h.on (Reg.FLT_SSTAT_GRAVE k.1) }
    upd := { Update.clear with flash := h.upd.flash, ok := h.upd.ok, motLow := h.upd.motLow, use := h.upd.use, prev := h.upd.prev }
    age.ftc := h.age.ftc
    mems := memsReset h.mems
    free := h.free }

/-- The host die after reset on a part of variant v: VARIANT, and no source and no memory of a unit that the variant lacks (R6, R358, R371). -/
def HDie.clearOf (v : Nat) : HDie :=
  let h := HDie.clear.wr Reg.GLB_IDENT_VARIANT v
  let h1 := { h with regs := sourcesOf v h.regs }
  ((upto 64).filter (lacksMem v)).foldl (fun (g : HDie) i => g.wr (Reg.MEM_ISTAT_PRESENT i) 0) h1

/-- The field die after its power-on on a part of variant v. -/
def FDie.clearOf (v : Nat) : FDie :=
  ((upto 113).filter fun i => 64 ≤ i && lacksMem v i).foldl (fun (g : FDie) i => g.wr (Reg.MEM_ISTAT_PRESENT i) 0)
    { FDie.clear with variant := v }

/-- The hub of variant v right after the release of chip reset; State.reset is that of the BH-7260 (log 4). -/
def State.resetOf (v : Nat) : State := { State.reset with h := HDie.clearOf v, f := FDie.clearOf v }

/-- A chip reset begins (R433, R435): the host die is held in reset; the field die runs on and hears nothing. -/
def chipReset (cause : Nat) (s : State) : State :=
  { s with h := { s.h.chipCleared with boot := { Boot.clear with inReset := true, cause := cause } }, link := { toF := [], toH := [] } }

end Sys2Proof.Machine
end

