-- ==== Sys2Proof/Machine/UpdateOps.lean ====
section
/-! DEFINITION. Images and updates (chapter 18): the flash and the boot record (R404, R405), the image header and its checks (R407 to R411), the
update engine's states (R415), class M replacement and fallback (R409, R416), and a class F image on its way to the field die (R417, R418). -/
namespace Sys2Proof.Machine

/-! ### The flash -/

/-- Bytes of the flash; a byte that is not listed reads 0xFF. -/
def flashRead (m : List Host.Cell) (a n : Nat) : List Byte := (upto n).map fun i => (cellGet m (a + i)).getD 255

/-- Put bytes into a list of cells, at rising addresses, leaving out 0xFF. -/
def flashCells (a : Nat) : List Byte → List Host.Cell
  | [] => []
  | b :: bs => if b = 255 then flashCells (a + 1) bs else (a, b) :: flashCells (a + 1) bs

/-- The flash with `bs` at `a`. -/
def flashWrite (m : List Host.Cell) (a : Nat) (bs : List Byte) : List Host.Cell :=
  (m.filter fun c => c.1 < a) ++ flashCells a bs ++ m.filter fun c => a + bs.length ≤ c.1

/-- The flash with `n` bytes at `a` erased. -/
def flashErase (m : List Host.Cell) (a n : Nat) : List Host.Cell := m.filter fun c => c.1 < a || a + n ≤ c.1

/-- Base of a slot (Table 18.1). -/
def slotBase (k : Nat) : Nat :=
  match k with
  | 0 => 0x100000
  | 1 => 0x700000
  | 2 => 0xD00000
  | 3 => 0xE00000
  | 4 => 0xF00000
  | _ => 0x1100000

/-- Size of a slot. -/
def slotSize (k : Nat) : Nat := if k ≤ 1 then 0x600000 else if k ≤ 3 then 0x100000 else 0x200000

/-- Class of a slot: 1 M, 2 F, 3 C. -/
def slotClass (k : Nat) : Nat := k / 2 + 1

/-! ### The boot record -/

/-- A boot record (Table 18.2). -/
structure BootRec where
  seq     : Nat
  actM    : Nat
  actF    : Nat
  actC    : Nat
  trial   : Bool
  tryUsed : Bool
  minrb   : Nat
  keyrev  : Nat

/-- The record of a flash that holds none: every slot A, nothing on trial. -/
def BootRec.blank : BootRec := { seq := 0, actM := 0, actF := 0, actC := 0, trial := false, tryUsed := false, minrb := 0, keyrev := 0 }

/-- A record as bytes, its CRC last. -/
def BootRec.bytes (r : BootRec) : List Byte :=
  let b := leBytes 4 0xB7A60D1E ++ leBytes 4 r.seq
    ++ leBytes 4 (r.actM + r.actF * 2 + r.actC * 4 + b2n r.trial * 8 + b2n r.tryUsed * 16) ++ leBytes 4 r.minrb ++ leBytes 4 r.keyrev
    ++ List.replicate 40 0
  b ++ leBytes 4 (crc32c b)

/-- The record that bytes hold, if it is valid (R405). -/
def BootRec.parse (bs : List Byte) : Option BootRec :=
  let w := fun (o : Nat) => leNat (slice bs o 4)
  if w 0 == 0xB7A60D1E && w 0x3C == crc32c (slice bs 0 0x3C) then
    some { seq := w 4, actM := fieldOf (w 8) 0 1, actF := fieldOf (w 8) 1 1, actC := fieldOf (w 8) 2 1, trial := bitOf (w 8) 3,
           tryUsed := bitOf (w 8) 4, minrb := w 0xC, keyrev := fieldOf (w 0x10) 0 4 }
  else none

/-- The record in copy c of the flash. -/
def copyRec (m : List Host.Cell) (c : Nat) : Option BootRec := BootRec.parse (flashRead m (0x10000 * c) 64)

/-- The copy that the hub uses: the valid one with the higher SEQ, modulo 2^32 (R405). -/
def useCopy (m : List Host.Cell) : Option Nat :=
  match copyRec m 0, copyRec m 1 with
  | some a, some b => some (if newer b.seq a.seq then 1 else 0)
  | some _, none => some 0
  | none, some _ => some 1
  | none, none => none

/-- The record in force, or the one that is being written. -/
def HDie.bootRec (h : HDie) : BootRec :=
  (match h.upd.writing with
   | some (_, bs) => BootRec.parse bs
   | none => copyRec h.upd.flash h.upd.use).getD BootRec.blank

/-- The FWU registers show the record. -/
def HDie.showRec (h : HDie) : HDie :=
  let r := h.bootRec
  ((((h.wr Reg.FWU_BOOT_ACT (r.actM + r.actF * 2 + r.actC * 4)).wr Reg.FWU_BOOT_SEQ (r.seq % 65536)).wr Reg.FWU_MINRB_MINRB r.minrb).wr
    Reg.FWU_KEYREV_REV r.keyrev).wr Reg.FWU_STAT_TRIAL (b2n r.trial)

/-- The record write that runs is complete: the copy is the one in force. -/
def HDie.finishRec (h : HDie) : HDie :=
  match h.upd.writing with
  | none => h
  | some (c, bs) =>
    ({ h with upd.flash := flashWrite h.upd.flash (0x10000 * c) bs, upd.writing := none, upd.use := c }.showRec).wr Reg.FWU_STAT_BUSY (b2n h.upd.chunk.isSome)

/-- A record is written into the other copy with SEQ plus 1, the ageing record with it (R405, R423); BUSY reads 1 until it is written (Table 18.9). -/
def HDie.writeRec (h : HDie) (r : BootRec) : HDie :=
  let g := h.finishRec
  let c := 1 - g.upd.use
  let g1 := { g with upd.flash := flashErase g.upd.flash (0x10000 * c) 0x10000, upd.saveDue := false }.countErase c
  let body := { r with seq := (g.bootRec.seq + 1) % 2 ^ 32 }.bytes
  { g1.wr Reg.FWU_STAT_BUSY 1 with upd.writing := some (c, body ++ List.replicate (0x1000 - 64) 255 ++ g1.ageRecord) }

/-- The ageing record is saved with the boot record unchanged; while HOLDUP_N is low it waits (R423, R429). -/
def HDie.saveAge (h : HDie) : HDie :=
  if h.on Reg.FWU_STAT_HOLDUP_LOW then { h with upd.saveDue := true }
  else if h.upd.writing.isSome then h
  else h.writeRec h.bootRec

/-- The active slot of a class (1 M, 2 F, 3 C). -/
def BootRec.active (r : BootRec) (cls : Nat) : Nat :=
  if cls = 1 then r.actM else if cls = 2 then 2 + r.actF else 4 + r.actC

/-- The record with slot k active. -/
def BootRec.withActive (r : BootRec) (k : Nat) : BootRec :=
  if k ≤ 1 then { r with actM := k } else if k ≤ 3 then { r with actF := k - 2 } else { r with actC := k - 4 }

/-! ### Image checks -/

/-- The header of slot k. -/
def HDie.header (h : HDie) (k : Nat) : List Byte := flashRead h.upd.flash (slotBase k) 512

/-- VERSION of slot k. -/
def HDie.imageVersion (h : HDie) (k : Nat) : Nat := leNat (flashRead h.upd.flash (slotBase k + 8) 4)

/-- LENGTH of a header. -/
def hdrLength (b : List Byte) : Nat := leNat (slice b 0x10 4)

/-- The payload of slot k. -/
def HDie.payload (h : HDie) (k : Nat) : List Byte :=
  flashRead h.upd.flash (slotBase k + 512) (min (slotSize k - 512) (hdrLength (h.header k)))

/-- Every byte of a range is 0. -/
def zeros (b : List Byte) (o n : Nat) : Bool := (slice b o n).all (· == 0)

/-- LENGTH, IMEM_LEN, DMEM_LEN or ENTRY is out of range (code 0x05). -/
def lengthBad (k : Nat) (b : List Byte) : Bool :=
  let len := hdrLength b
  let im := leNat (slice b 0x50 4)
  let dm := leNat (slice b 0x54 4)
  len == 0 || slotSize k - 512 < len ||
    (slotClass k == 1 && (im == 0 || 0x100000 < im || 0x100000 < dm || len < im + dm || im ≤ leNat (slice b 0x14 4)))

/-- A reserved byte is not 0, or IMEM_LEN or DMEM_LEN in class F or C (code 0x06). -/
def reservedBad (k : Nat) (b : List Byte) : Bool :=
  !(zeros b 6 2 && zeros b 0x1A 6 && zeros b 0x58 168 && zeros b 0x160 160) || (slotClass k != 1 && !(zeros b 0x50 8))

/-- The header checks 0x01 to 0x09 of slot k, stopping at the first failure: 0 passes (R410, Table 18.4). -/
def HDie.checkHeader (h : HDie) (k : Nat) : Nat :=
  let b := h.header k
  let key := leNat (slice b 0x19 1)
  if leNat (slice b 0 4) != 0x5A1B72E0 then 1
  else if leNat (slice b 5 1) != 1 then 2
  else if leNat (slice b 4 1) != slotClass k then 3
  else if !bitOf (leNat (slice b 0x18 1)) h.variant then 4
  else if lengthBad k b then 5
  else if reservedBad k b then 6
  else if 3 < key || bitOf h.bootRec.keyrev key then 7
  else if leNat (slice b 0xC 4) < h.bootRec.minrb then 8
  else if !ecdsaOk (Config.publicKey key) (slice b 0 0x100) (beNat (slice b 0x100 48)) (beNat (slice b 0x130 48)) then 9
  else 0

/-- The payload's SHA-384 is DIGEST. -/
def HDie.digestOk (h : HDie) (k : Nat) : Bool := sha384 (h.payload k) == slice (h.header k) 0x20 48

/-- An IMAGE fault of the update engine with code and slot (R410). -/
def HDie.imageFault (h : HDie) (code k : Nat) : HDie := h.fault 17 0x39 (code + k * 256)

/-! ### The update engine -/

/-- STATE of the update engine. -/
def HDie.fwu (h : HDie) : Nat := h.rd Reg.FWU_STAT_STATE

/-- The slot of the session. -/
def HDie.fwuSlot (h : HDie) : Nat := h.rd Reg.FWU_STAT_SLOT

/-- An UPDATE event (R415), in the host-attached role. -/
def HDie.fwuEvent (h : HDie) : HDie :=
  let k := h.fwuSlot
  if h.hostAttached then
    h.event 0xB 0 (k + slotClass k * 16 + h.rd Reg.FWU_STAT_ERR * 256 + h.imageVersion k * 2 ^ 32) h.fwu
  else h

/-- A refusal: ERR, REFUSED and the event; the state stays. -/
def HDie.fwuRefuse (h : HDie) (code : Nat) : HDie := ((h.wr Reg.FWU_STAT_ERR code).raise Reg.FWU_EVT_REFUSED).fwuEvent

/-- A change of STATE, with the event. -/
def HDie.fwuTo (h : HDie) (st : Nat) : HDie := (h.wr Reg.FWU_STAT_STATE st).fwuEvent

/-- The levels of MOTION_N and HOLDUP_N as a command finds them. -/
def HDie.fwuPins (h : HDie) (motionLow holdupLow : Bool) : HDie :=
  ({ h with upd.motLow := motionLow }.wr Reg.FWU_STAT_HOLDUP_LOW (b2n holdupLow)).showMotion

/-- Why R412 refuses START and ACTIVATE now: 0 for no reason. -/
def HDie.fwuBar (h : HDie) : Nat :=
  if h.on Reg.FWU_STAT_MOTION then 0x0F else if h.on Reg.FWU_STAT_HOLDUP_LOW then 0x10 else if h.on Reg.FWU_OWNER_LOCK then 0x11 else 0

/-- START (Table 18.5). -/
def HDie.fwuStart (h : HDie) (k : Nat) : HDie :=
  if h.fwu != 0 || 6 ≤ k then h.fwuRefuse 0x12
  else if h.bootRec.active (slotClass k) == k then h.fwuRefuse 0x0E
  else if h.fwuBar != 0 then h.fwuRefuse h.fwuBar
  else
    ({ (h.wr Reg.FWU_STAT_SLOT k).wr Reg.FWU_STAT_ERR 0 with
        upd.touched := [], upd.written := [], upd.chunk := none, upd.header := false, upd.ok := h.upd.ok.filter fun x => x != k }).fwuTo 1

/-- The chunk that FWU_BUF holds. -/
def HDie.chunkBytes (h : HDie) (len : Nat) : List Byte :=
  ((upto (ceilDiv len 4)).flatMap fun w => leBytes 4 (h.rd (Reg.FWU_BUF_DATA w))).take len

/-- Erase the sectors of a chunk that this session has not touched (R415). -/
def eraseSectors : List Nat → HDie → HDie
  | [], h => h
  | s :: ss, h =>
    eraseSectors ss
      (if h.upd.touched.contains s then h
       else { h with upd.flash := flashErase h.upd.flash (0x10000 * s) 0x10000, upd.touched := s :: h.upd.touched }.countErase s)

/-- PROGRAM (Table 18.5). -/
def HDie.fwuProgram (h : HDie) : HDie :=
  let off := h.rd Reg.FWU_CHOFF_OFFSET
  let len := h.rd Reg.FWU_CHLEN_LEN
  let k := h.fwuSlot
  if h.fwu != 1 || h.upd.chunk.isSome then h.fwuRefuse 0x12
  else if off % 256 != 0 || len % 4 != 0 || len < 4 || 16384 < len || slotSize k < off + len then h.fwuRefuse 0x05
  else if h.upd.written.any fun w => w.1 < off + len && off < w.1 + w.2 then h.fwuRefuse 0x0D
  else
    let a := slotBase k + off
    let first := a / 0x10000
    let h1 := eraseSectors ((upto ((a + len - 1) / 0x10000 - first + 1)).map fun i => first + i) h
    { h1.wr Reg.FWU_STAT_BUSY 1 with upd.chunk := some (off, h1.chunkBytes len) }

/-- PROGRAM_DONE: the chunk reads back as written, or the session ends with FLASH; what a failed chunk's bytes then hold is open (log 5). -/
def HDie.programDone (h : HDie) (good : Bool) : HDie :=
  match h.upd.chunk with
  | none => h
  | some (off, bs) =>
    let h1 := h.wr Reg.FWU_STAT_BUSY (b2n h.upd.writing.isSome)
    let a := slotBase h.fwuSlot + off
    if good then
      { h1 with upd.chunk := none, upd.written := h1.upd.written ++ [(off, bs.length)], upd.flash := flashWrite h1.upd.flash a bs }
    else
      let junk := (upto bs.length).map fun i => BitVec.ofNat 8 (Config.freeValue (h1.free + i))
      ({ h1.wr Reg.FWU_STAT_ERR 0x0C with
          upd.chunk := none, upd.flash := flashWrite h1.upd.flash a junk, free := h1.free + bs.length }).fwuTo 0

/-- A check of the session's image fails (R410). -/
def HDie.checkFails (h : HDie) (code : Nat) : HDie :=
  let h1 := ((h.wr Reg.FWU_STAT_ERR code).raise Reg.FWU_EVT_CHECK_FAIL).imageFault code h.fwuSlot
  { h1 with upd.header := false }.fwuTo 0

/-- The payload is read and its digest compared: the slot is staged, or the session ends. -/
def HDie.checkPayload (h : HDie) : HDie :=
  if h.digestOk h.fwuSlot then
    { h.raise Reg.FWU_EVT_STAGED with upd.ok := h.fwuSlot :: h.upd.ok, upd.header := false }.fwuTo 3
  else h.checkFails 0x0B

/-- CHECK_DONE (R410, R411): the header first; FWC is asked in an HA mode; then the payload. -/
def HDie.checkDone (h : HDie) : HDie :=
  let k := h.fwuSlot
  if h.fwu != 2 || h.upd.header then h
  else
    let code := h.checkHeader k
    if code != 0 then h.checkFails code
    else if h.modeOf 9 == 0 then h.checkPayload
    else if h.mayAsk 9 then
      { h with upd.header := true }.ask 9 (k + slotClass k * 16 + h.imageVersion k * 2 ^ 32) (hdrLength (h.header k)) k
    else (h.bump (Reg.SPL_FCNT_DEFAULTED 9)).checkPayload

/-- FWC's decision (Table 17.1): ACCEPT lets the payload be checked, REJECT fails check 0x0A. -/
def HDie.fwcDecide (h : HDie) (accept : Bool) : HDie :=
  if h.fwu != 2 || !h.upd.header then h else if accept then h.checkPayload else h.checkFails 0x0A

/-! ### The management core's image -/

/-- The resident part of slot k is written into instances 53 and 54, and the valid bits of the rest are cleared (R409, R361). -/
def HDie.coreLoaded (h : HDie) (k : Nat) : HDie :=
  let b := h.header k
  h.memDone ((h.mem.refill 53 (ceilDiv (leNat (slice b 0x50 4)) 8)).refill 54 (ceilDiv (leNat (slice b 0x54 4)) 8))

/-- A class M image starts in the core (R409): the resident part is loaded and the core runs at ENTRY; an image whose digest differs does not start, and
the core stays halted. -/
def HDie.startCore (h0 : HDie) (k : Nat) : HDie :=
  let h := if h0.digestOk k then h0.coreLoaded k else h0
  if h0.digestOk k then
    let b := h.header k
    let p := h.payload k
    let im := leNat (slice b 0x50 4)
    let dm := leNat (slice b 0x54 4)
    { (h.wr Reg.GLB_STATUS_BOOT 2).wr Reg.FWU_VERM_VERSION (h.imageVersion k) with
      boot.coreHeld := false, boot.coreOk := false, boot.entry := leNat (slice b 0x14 4), boot.imem := slice p 0 im, boot.dmem := slice p im dm, upd.run := k }
  else { h.wr Reg.GLB_STATUS_BOOT 3 with boot.coreHeld := false, boot.coreOk := false }

/-- Fallback of class M (R416): the record returns to the previous slot, whose image starts. -/
def HDie.fallbackM (h : HDie) : HDie :=
  let r := h.bootRec
  let bad := r.actM
  let h1 := { h.coreStop.writeRec { r with actM := 1 - bad, trial := false } with upd.switch := none }
  let h2 := ((h1.raise Reg.FWU_EVT_FALLBACK).bump Reg.FWU_FALLBACKS_COUNT).imageFault 0x13 bad
  let h3 := h2.startCore (1 - bad)
  if h3.fwu == 5 && slotClass h3.fwuSlot == 1 then (h3.wr Reg.FWU_STAT_ERR 0x13).fwuTo 0 else h3

/-- CONFIRM of the image on trial (R416): the record, MINRB, and the functions return. -/
def HDie.confirmM (h : HDie) : HDie :=
  let r := h.bootRec
  let rb := leNat (slice (h.header r.actM) 0xC 4)
  let h1 := { h.writeRec { r with trial := false, minrb := max r.minrb rb } with boot.coreOk := true }.raise Reg.FWU_EVT_CONFIRMED
  (if h1.fwu == 5 then h1.fwuTo 0 else h1).serveAll

/-- The management core is reset (Table 16.2): it restarts its running image, or falls back where that image is on trial (R416). -/
def HDie.coreReset (h : HDie) : HDie := if h.bootRec.trial && h.coreRuns then h.fallbackM else h.coreStop

/-- The update engine is reset (Tables 16.2 and 18.5): the session ends; a switch that ACTIVATE began goes on, and the trial with its window. -/
def HDie.updateReset (h : HDie) : HDie :=
  let k := h.fwuSlot
  let asks := h.spl.reqs.filter fun r => r.func == 9
  let h1 := asks.foldl (fun g r => g.dropReq 9 r.cookie) h
  let h2 := { h1.wr Reg.FWU_STAT_BUSY (b2n h1.upd.writing.isSome) with upd.chunk := none, upd.touched := [], upd.written := [], upd.header := false }
  let h3 := if 1 ≤ h2.fwu && h2.fwu ≤ 3 then { h2 with upd.ok := h2.upd.ok.filter fun x => x != k } else h2
  if h3.fwu == 0 then h3 else h3.fwuTo 0

/-! ### A class F image -/

/-- An IMG_DATA message (Table 18.6). -/
def imgData (seq op : Nat) (bs : List Byte) : BarMsg :=
  mkMsg 0x50 0 ((seq % 65536 + bs.length * 2 ^ 16 + op * 2 ^ 30) :: msgWords bs)

/-- The stream from message SEQ on, then START. -/
def imgStream : Nat → Nat → List Byte → List BarMsg
  | 0, seq, _ => [imgData seq 2 []]
  | k + 1, seq, bs =>
    if bs.isEmpty then [imgData seq 2 []] else imgData seq 0 (bs.take 24) :: imgStream k (seq + 1) (bs.drop 24)

/-- The stream of slot k from SEQ `from_` on (R418). -/
def HDie.streamFrom (h : HDie) (k from_ : Nat) : List BarMsg :=
  let bs := (h.header k ++ h.payload k).drop (24 * from_)
  imgStream bs.length from_ bs

/-- A class F update is under way: ACTIVATE chose the slot, and its microcode has not been healthy yet. -/
def HDie.updatesF (h : HDie) : Bool := h.upd.switch.any fun k => slotClass k == 2

/-- Send what is queued for the field die's ROM. -/
def HDie.sendImg (h : HDie) (ms : List BarMsg) : HDie :=
  { h with brg.bar.tx := (h.brg.bar.tx.filter fun m => mType m != 0x50) ++ ms }

/-- The image of slot k is streamed to the field die, its header checked first; `none` where the header fails, with its code. -/
def HDie.streamSlot (h : HDie) (k : Nat) : HDie × Nat :=
  let code := h.checkHeader k
  if code != 0 then (h, code) else ((h.wr Reg.GLB_STATUS_FIELD 1).sendImg (h.streamFrom k 0), 0)

/-- The class F image did not come to run (R417, R437): an update goes back to the previous slot; a load at boot tries the other slot once, and then the
field has FAILED. `again`: the field die must enter its ROM first. -/
def HDie.failF (h : HDie) (k code : Nat) (tried again : Bool) : HDie :=
  let h1 := (h.raise Reg.FWU_EVT_FALLBACK).imageFault code k
  let other := 5 - k
  let go := fun (g : HDie) =>
    let g1 := { g with upd.load := some { slot := other, tried := true, sent := !again, ran := false } }
    if again then g1.sendImg [imgData 0 1 []]
    else
      let r := g1.streamSlot other
      if r.2 = 0 then r.1
      else { (r.1.imageFault r.2 other).wr Reg.GLB_STATUS_FIELD 3 with upd.load := none }
  if h1.updatesF then
    let h2 := { (h1.writeRec (h1.bootRec.withActive h1.upd.prev)).wr Reg.FWU_STAT_ERR code with upd.switch := none }
    go (if h2.fwu == 0 then h2 else h2.fwuTo 0)
  else if tried then { h1.wr Reg.GLB_STATUS_FIELD 3 with upd.load := none }
  else go h1

/-- The field die's ROM is ready (R437): the slot that waits, or the active one, is checked and sent (CLASS_F_LOAD). -/
def HDie.romReady (h : HDie) : HDie :=
  let l := h.upd.load.getD { slot := h.bootRec.active 2, tried := false, sent := false, ran := false }
  let r := { h with upd.load := some { l with sent := true, ran := false } }.streamSlot l.slot
  if r.2 = 0 then r.1 else r.1.failF l.slot r.2 l.tried false

/-- The slot whose microcode is to run. -/
def HDie.fieldSlot (h : HDie) : Nat := (h.upd.load.map fun l => l.slot).getD (h.bootRec.active 2)

/-- A report names the microcode that is to run: its VERSION, and where a load is under way the ROM has been sent it (R417). -/
def HDie.rightField (h : HDie) (version : Nat) : Bool :=
  version == h.imageVersion h.fieldSlot && h.upd.load.all fun l => l.sent

/-- RUNNING: the microcode has started, and an update enters TRIAL (Table 18.5). -/
def HDie.fieldRuns (h : HDie) (version : Nat) : HDie :=
  let h1 := h.wr Reg.FWU_VERF_VERSION version
  if h1.rightField version then
    let h2 := { h1 with upd.load := h1.upd.load.map fun l => { l with ran := true } }
    if h2.updatesF && h2.fwu == 4 then h2.fwuTo 5 else h2
  else h1

/-- HEALTHY (R417, R435): the update is confirmed, or the load is over; a microcode other than the one that is to run is sent RESTART, and its slot loaded. -/
def HDie.fieldHealthy (h : HDie) (version : Nat) : HDie :=
  let h1 := h.fieldRuns version
  if h1.rightField version then
    let h2 := { h1.wr Reg.GLB_STATUS_FIELD 2 with upd.load := none, upd.switch := if h1.updatesF then none else h1.upd.switch }
    if h1.updatesF then (let h3 := h2.raise Reg.FWU_EVT_CONFIRMED; if h3.fwu == 0 then h3 else h3.fwuTo 0) else h2
  else
    let l := h1.upd.load.getD { slot := h1.fieldSlot, tried := false, sent := false, ran := false }
    ({ h1 with upd.load := some { l with sent := false, ran := false } }.wr Reg.GLB_STATUS_FIELD 1).sendImg [imgData 0 1 []]

/-- An IMG_STAT message's effect (R418). -/
def HDie.imgStat (h : HDie) (m : BarMsg) : HDie :=
  let seq := m.m2.fld 0 16
  match m.m1.fld 0 8 with
  | 1 => h.romReady
  | 3 => match h.upd.load with
    | some l => h.failF l.slot 0x0B l.tried false
    | none => h
  | 4 => h.fieldRuns m.m3.toNat
  | 5 => h.fieldHealthy m.m3.toNat
  | 6 => match h.upd.load with
    | some l => h.sendImg (h.streamFrom l.slot seq)
    | none => h
  | _ => h

/-! ### The field die's recovery ROM -/

/-- An IMG_STAT message of the field die. -/
def FDie.imgSay (f : FDie) (state seq : Nat) : FDie := f.rank5 (mkMsg 0x51 0 [state, seq % 65536, f.version])

/-- RESTART (R417): outputs are held, engines stop with their registers kept, CAN controllers go to INIT after their frame, and the ROM runs. -/
def FDie.restart (f : FDie) : FDie :=
  let f1 := f.wr Reg.FIO_SAFE_ACTIVE 0
  let f2 := (upto 16).foldl
    (fun g n => (g.wr (Reg.CAN_CTL_MODE n) 0).setCan n { g.can n with modeWait := g.rd (Reg.CAN_STAT_MODE n) != 0 }) f1
  { f2 with stage := 3, rom := [], romSeq := 0, upd := true, version := 0 }.imgSay 1 0

/-- START: the stream is complete and its digest right, and the microcode starts, FGL_PWRSTAT reading RUN; else it is reported (R322, R417). -/
def FDie.romStart (f : FDie) : FDie :=
  let len := hdrLength f.rom
  if f.rom.length < 512 || f.rom.length != 512 + len then f.imgSay 6 f.romSeq
  else if sha384 (f.rom.drop 512) == slice f.rom 0x20 48 then
    let g := if 2 ≤ f.rd Reg.FGL_PWRSTAT_STATE then f.wr Reg.FGL_PWRSTAT_STATE 0 else f
    { g with stage := 0, version := leNat (slice f.rom 8 4), rom := [], romSeq := 0 }.imgSay 4 (f.romSeq - 1)
  else { f with rom := [], romSeq := 0 }.imgSay 3 (f.romSeq - 1)

/-- An IMG_DATA message's effect (R418): stream bytes in order; a missing SEQ is named. -/
def FDie.imgIn (f : FDie) (m : BarMsg) : FDie :=
  let seq := m.m1.fld 0 16
  match m.m1.fld 30 2 with
  | 0 =>
    if f.stage != 3 then f
    else if seq == f.romSeq then { f with rom := f.rom ++ msgBytes m (m.m1.fld 16 5), romSeq := f.romSeq + 1 }
    else if f.romSeq < seq then f.imgSay 6 f.romSeq
    else f
  | 1 => if f.stage == 0 || f.stage == 3 then f.restart else f
  | 2 => if f.stage == 3 then f.romStart else f
  | _ => f

end Sys2Proof.Machine
end

