-- ==== Sys2Proof/Machine/FaultOps.lean ====
section
/-! DEFINITION. The fault collector (chapter 16): block resets (R372), classification (R375, R376), reactions and the ladder (R377 to R380), records
(R381, R382), shadows (R383), PEND and ACTIVE (R378, R384), and the grave latch (R385, R386). -/
namespace Sys2Proof.Machine

/-! ### Block resets -/

/-- A block reset of domain d (R372, R383): its shadow opens and the block is reset. A field-die domain is reached while the dies hear each other
(log 50). -/
def blockReset (d : Nat) (s : State) : State :=
  if resetUs d = 0 then s
  else
    let s1 := { s with h := s.h.openShadow d }
    if d == 12 then barrierReset s1
    else if d == 9 then { s1 with h := s1.h.coreReset }
    else if d == 10 then { s1 with h := s1.h.updateReset }
    else if d ≤ 11 then { s1 with h := s1.h.domainReset d }
    else if s1.linked then
      coolsEnd s1.f { s1 with f := s1.f.domainReset d }
    else s1

/-! ### Classification -/

/-- The class of a kind (Table 16.4): 0 C, 1 U, 2 F. -/
def kindClass (kind : Nat) : Nat := if kind == 0x10 || kind == 0x12 then 0 else if kind == 0x34 then 2 else 1

/-- How a fault is taken (R376): 0 no reaction, 1 its IRQ bit only, 2 on the ladder, 3 on the ladder and the gravest. -/
def HDie.faultLevel (h : HDie) (m : FaultMsg) : Nat :=
  let c := kindClass m.kind
  if h.on Reg.FLT_CFG_MODE then
    let k := max c (min 2 (h.rd (Reg.FLT_SCFG_CLASS m.source)))
    if k = 0 then 1 else k + 1
  else if c = 0 then 1
  else
    let v := h.rd (Reg.FLT_SCFG_SEV m.source)
    if v = 0 then 0 else if v = 3 then 3 else 2

/-- A time in the layout of Table 3.6 as nanoseconds. -/
def wordNs (t : Nat) : Nat := 1000000000 * (t / 2 ^ 32) + t % 2 ^ 32

/-- A time of the time base in the same nanoseconds. -/
def timeAsNs (t : Nat) : Nat := wordNs (timeWord t)

/-- Consequential (R383): TIME falls within a shadow of the source's domain, or of one that names it in FLT_DEP_d. -/
def HDie.consequential (h : HDie) (m : FaultMsg) : Bool :=
  let d := h.rd (Reg.FLT_SCFG_DOM m.source)
  let t := wordNs m.time
  h.flt.shadows.any fun x =>
    timeAsNs x.open_ ≤ t && t ≤ timeAsNs x.close && (x.dom == d || bitOf (h.rd (Reg.FLT_DEP_DOM x.dom)) d)

/-! ### Records -/

/-- The words of a processed message (Table 16.3). -/
def storeWords (F : Nat → Fld) (m : FaultMsg) (step : Nat) (h : HDie) : HDie :=
  (indexed (faultWords m step)).foldl (fun g x => g.wr (F x.1) x.2) h

/-- The fault log takes a message (R382). -/
def HDie.logFault (h : HDie) (m : FaultMsg) (step : Nat) : HDie :=
  let k := h.rd Reg.FLT_LOGSTAT_HEAD
  let h1 := storeWords (Reg.FLT_LOG_F_w k) m step h
  let h2 := h1.wr Reg.FLT_LOGSTAT_HEAD ((k + 1) % 64)
  if k = 63 then h2.bump Reg.FLT_LOGSTAT_WRAPS else h2

/-- The first-error capture takes a message, or counts it (R381). -/
def HDie.captureFault (h : HDie) (m : FaultMsg) (step : Nat) : HDie :=
  if kindClass m.kind == 0 && !h.on Reg.FLT_CFG_FEC_CE then h
  else if h.on Reg.FLT_FECSTAT_VALID then h.bump Reg.FLT_FECSTAT_LATER
  else (storeWords Reg.FLT_FEC_F_w m step h).wr Reg.FLT_FECSTAT_VALID 1

/-! ### Reactions -/

/-- The reaction set of a step (R377); BLOCK_RESET reads 0 where the domain cannot be reset (R372). -/
def HDie.reactions (h : HDie) (source step : Nat) : Nat :=
  let r := if step = 0 then h.rd (Reg.FLT_SCFG_REACT source) else if step = 1 then h.rd (Reg.FLT_SLAD_REACT1 source)
    else h.rd (Reg.FLT_SLAD_REACT2 source)
  if resetUs (h.rd (Reg.FLT_SCFG_DOM source)) = 0 then setBit r 2 false else r

/-- IRQ: a FAULT event, unless the fault is quiet (R378), and the management core's interrupt. -/
def HDie.irq (h : HDie) (m : FaultMsg) (quiet : Bool) : HDie :=
  let h1 := if h.hostAttached && !quiet then h.event 2 (m.source * 64 + m.kind) m.addr (m.source + m.kind * 1024) else h
  { h1 with flt.irqs := h1.flt.irqs + 1 }

/-- NMI: dropped while the core does not run. -/
def HDie.nmi (h : HDie) : HDie :=
  if h.coreRuns then { h with flt.nmis := h.flt.nmis + 1 } else (h.bump Reg.FLT_NMILOST_COUNT).raise Reg.FLT_STAT_NMI_LOST

/-- CHIP_RESET: FLT_LASTRST, then the reset. -/
def faultChipReset (m : FaultMsg) (s : State) : State :=
  chipReset 2 { s with h := ((s.h.wr Reg.FLT_LASTRST_SOURCE m.source).wr Reg.FLT_LASTRST_KIND m.kind).wr Reg.FLT_LASTRST_VALID 1 }

/-- The reactions of set `r` act in the order of Table 16.5; `quiet`: no event and no NMI (R378). A fault with IRQ or NMI leaves Rest (R30). -/
def react (r : Nat) (m : FaultMsg) (quiet : Bool) (s : State) : State :=
  let h0 := if bitOf r 0 || bitOf r 1 then s.h.restTrigger else s.h
  let h1 := if bitOf r 0 then h0.irq m quiet else h0
  let h2 := if bitOf r 1 && !quiet then h1.nmi else h1
  let h3 := if bitOf r 4 then h2.wr (Reg.FLT_SSTAT_ERRPIN m.source) 1 else h2
  let s1 := { s with h := h3 }
  if bitOf r 3 then faultChipReset m s1
  else if bitOf r 2 then blockReset (h3.rd (Reg.FLT_SCFG_DOM m.source)) s1
  else s1

/-- The grave latch takes the first fault of the gravest class that is not injected; an injected one sets ERRPIN (R385, R388). -/
def HDie.grave (h : HDie) (m : FaultMsg) : HDie :=
  if m.injected then h.wr (Reg.FLT_SSTAT_ERRPIN m.source) 1
  else if h.on Reg.FLT_GRAVE_VALID then h
  else
    ((((h.wr Reg.FLT_GRAVE_SOURCE m.source).wr Reg.FLT_GRAVE_KIND m.kind).wr Reg.FLT_GRAVE_VALID 1).wr Reg.FLT_GRAVET_TIME m.time).wr
      (Reg.FLT_SSTAT_GRAVE m.source) 1

/-! ### The ladder -/

/-- The step of a source as a fault at `t` ns finds it: 0 once REPEAT_MS has passed (R379). -/
def HDie.stepNow (h : HDie) (source t : Nat) : Nat × Bool :=
  match h.flt.lastAct.find? fun e => e.1 == source with
  | none => (h.rd (Reg.FLT_SSTAT_STEP source), false)
  | some e =>
    let near := t ≤ e.2 + 1000000 * max 1 (h.rd Reg.FLT_TIM_REPEAT_MS)
    (if near then h.rd (Reg.FLT_SSTAT_STEP source) else 0, near)

/-- The step at which a fault acts, and whether FLE is asked (R379, R380): 0 no, 1 asked, 2 decided as in HW for want of a token. -/
def HDie.climb (h : HDie) (m : FaultMsg) : Nat × Nat :=
  let p := h.stepNow m.source (wordNs m.time)
  if !p.2 || 2 ≤ p.1 then (p.1, 0)
  else if h.spl.reqs.any fun r => r.func == 8 && r.ctx == m.source then (p.1, 0)
  else if h.modeOf 8 == 0 then (p.1 + 1, 0)
  else if h.mayAsk 8 then (p.1, 1)
  else (p.1 + 1, 2)

/-- FLE is asked about a source, at its current step (R380); `quiet`: the fault posts no event (R378). -/
def HDie.fleAsk (h : HDie) (m : FaultMsg) (step : Nat) (quiet : Bool) : HDie :=
  { h with flt.fle := aput h.flt.fle m.source (m, quiet) }.ask 8 (m.source + m.kind * 1024 + step * 65536) 0 m.source

/-- A kind acts at a source (R378). -/
def HDie.kindActs (h : HDie) (m : FaultMsg) : HDie :=
  let ks := h.flt.kinds
  { h with flt.kinds := if ks.contains (m.source, m.kind) then ks else (m.source, m.kind) :: ks }

/-- A fault that is neither consequential nor of a disabled source is recorded, and acts as its class says; one of a class C kind acts at the present step
and leaves the ladder alone (R379). -/
def takeFault (m : FaultMsg) (s : State) : State :=
  let h := s.h
  let level := h.faultLevel m
  let quiet := h.on (Reg.FLT_SSTAT_PEND m.source) && h.flt.kinds.contains (m.source, m.kind)
  let ladder := 2 ≤ level && kindClass m.kind != 0
  let c := if ladder then h.climb m else ((h.stepNow m.source (wordNs m.time)).1, 0)
  let h1 := (h.bump (Reg.FLT_SCNT_FAULTS m.source)).wr (Reg.FLT_SSTAT_LASTKIND m.source) m.kind
  let h2 := (h1.logFault m c.1).captureFault m c.1
  let h3 := if ladder then { h2.wr (Reg.FLT_SSTAT_STEP m.source) c.1 with flt.lastAct := aput h2.flt.lastAct m.source (wordNs m.time) } else h2
  let h4 := if c.2 == 1 then h3.fleAsk m c.1 quiet else if c.2 == 2 then h3.bump (Reg.SPL_FCNT_DEFAULTED 8) else h3
  let h5 := if 1 ≤ level then (h4.wr (Reg.FLT_SSTAT_PEND m.source) 1).kindActs m else h4
  let h6 := if level == 3 then h5.grave m else h5
  let r := h6.reactions m.source c.1
  let acts := if level = 0 || !m.react then 0 else if level = 1 then r % 2 else r
  react acts m quiet { s with h := h6 }

/-- The collector processes one message (R375, R383). -/
def processFault (m : FaultMsg) (s : State) : State :=
  let h := s.h
  if !h.on (Reg.FLT_SCFG_PRESENT m.source) then s
  else if !h.on (Reg.FLT_SCFG_EN m.source) then { s with h := h.bump (Reg.FLT_SCNT_FAULTS m.source) }
  else if h.consequential m then
    { s with h := ((h.bump (Reg.FLT_SCNT_CONSEQ m.source)).bump Reg.FLT_CONSEQTOT_COUNT).wr (Reg.FLT_SSTAT_LASTKIND m.source) m.kind }
  else takeFault m s

/-- The message that is processed next: the earliest TIME, and of equal TIME the lower SOURCE (R375). -/
def nextFault : List FaultMsg → Option FaultMsg
  | [] => none
  | m :: r =>
    match nextFault r with
    | none => some m
    | some n => if wordNs n.time < wordNs m.time || (n.time == m.time && n.source < m.source) then some n else some m

/-- One message leaves the inbox and is processed. -/
def collectOne (s : State) : State :=
  match nextFault s.h.flt.inbox with
  | none => s
  | some m => processFault m { s with h := { s.h with flt.inbox := s.h.flt.inbox.erase m } }

/-- FLE's decision (R380): ESCALATE advances the step, and the new step's reactions act but for those that have acted; HOLD leaves it. -/
def fleDecide (source : Nat) (escalate : Bool) (s : State) : State :=
  match s.h.flt.fle.find? fun e => e.1 == source with
  | none => s
  | some (_, m, quiet) =>
    let s1 := { s with h := { s.h with flt.fle := adel s.h.flt.fle source } }
    if !escalate then s1
    else
      let st := s1.h.rd (Reg.FLT_SSTAT_STEP source)
      let new := min 2 (st + 1)
      let old := s1.h.reactions source st
      let h1 := s1.h.wr (Reg.FLT_SSTAT_STEP source) new
      let r := h1.reactions source new
      react (if m.react then (r ||| old) - old else 0) m quiet { s1 with h := h1 }

/-! ### What is active, and ERROR_N -/

/-- FLT_SSTAT_s.ACTIVE (R384): the condition that raised the fault persists. -/
def faultActive (s : State) (src : Nat) : Bool :=
  s.h.flt.outs.any (fun e => e.1 == src) || s.f.outs.any (fun e => e.1 == src)
    || (400 ≤ src && src ≤ 415 && s.f.rd (Reg.CAN_ECNT_STATE (src - 400)) == 2)
    || (416 ≤ src && src ≤ 419 && s.f.feedState (src - 416) == 5)
    || (src == 11 && (s.h.rd Reg.SWC_PLANE_RETIRED != 0 || s.h.sw.rateLow.isSome))

/-- A PEND bit is set (FLT_STAT.ANY). -/
def HDie.anyPend (h : HDie) : Bool := (upto 768).any fun s => h.on (Reg.FLT_SSTAT_PEND s)

/-- ERROR_N is asserted, low (R386, R441): through chip reset and until READY has been written 1; while the grave latch is set; while a source has ERRPIN. -/
def HDie.errorN (h : HDie) : Bool :=
  h.boot.inReset || !h.boot.ready || h.on Reg.FLT_GRAVE_VALID || (upto 768).any fun s => h.on (Reg.FLT_SSTAT_ERRPIN s)

/-- GLB_CTL is written (R441): once READY has been written 1, R386 alone governs ERROR_N until the next chip reset. -/
def HDie.readyWrite (h : HDie) (v : Nat) : HDie :=
  { h.wr Reg.GLB_CTL_READY (v % 2) with boot.ready := h.boot.ready || v % 2 == 1 }

/-- PEND of a source is written 1 (R384, R385): refused while ACTIVE reads 1; the grave source keeps it. -/
def pendClear (src : Nat) (s : State) : State :=
  if faultActive s src then { s with h := s.h.raise Reg.FLT_STAT_CLR_REFUSED }
  else if s.h.on (Reg.FLT_SSTAT_GRAVE src) then s
  else
    let h := (s.h.wr (Reg.FLT_SSTAT_PEND src) 0).wr (Reg.FLT_SSTAT_ERRPIN src) 0
    { s with h := { h with flt.kinds := h.flt.kinds.filter fun k => k.1 != src } }

/-- An injected message (R388). -/
def injectedMsg (v time : Nat) : FaultMsg :=
  { source := fieldOf v 0 10, kind := fieldOf v 10 6, master := 0xFF, access := 0xF, conseq := false, injected := true, react := bitOf v 16,
    addrValid := false, addr := 0, time := time, detail := 0 }

end Sys2Proof.Machine
end

