-- ==== Sys2Proof/Machine/SplitOps.lean ====
section
/-! DEFINITION. The function split's decisions (chapter 17): what each reply does (Table 17.1), what is decided as in HW (R400), defaults at a deadline
(R395), and the function machine (Table 17.2). -/
namespace Sys2Proof.Machine

/-! ### Decisions -/

/-- A DECISION code and ARG that Table 17.1 lists for function f; unused ARG bits are 0 (R395). -/
def replyOk (f d arg : Nat) : Bool :=
  match f with
  | 0 | 3 | 4 | 5 | 7 | 8 | 9 | 12 | 13 | 15 => (d == 1 || d == 2) && arg == 0
  | 1 => (d == 1 && arg == 0) || (d == 2 && arg < 2 ^ 20)
  | 2 => ((d == 1 || d == 2) && arg == 0) || (d == 3 && arg < 2 ^ 20)
  | 6 => (d == 1 && arg == 0) || (d == 2 && arg < 2 ^ 32) || (d == 3 && arg < 2 ^ 64)
  | 11 => d == 1 && arg < 2 ^ 32
  | 14 => ((d == 1 || d == 2) && arg == 0) || (d == 3 && arg < 2 ^ 16)
  | _ => false

/-- An H-die unit's part of a decision: functions DUP, MCR, HLD, RSQ, MST, FWC, LIF, PWE and CYA. `ctx` and `cookie` name what is decided. -/
def HDie.decide_ (h : HDie) (f ctx cookie d arg : Nat) : HDie :=
  match f with
  | 0 => h.dupDecide cookie (d == 1)
  | 1 => if d == 1 then h.mcrDrop ctx else h.mcrExtend ctx arg
  | 2 => if d == 2 then h.closePort ctx else if d == 3 then h.hldExtend ctx arg else h
  | 3 => if d == 1 then h.retirePlane ctx else h.keepPlane ctx
  | 4 => { h with red.mstStay := some (d == 2) }
  | 9 => h.fwcDecide (d == 1)
  | 11 => h.lifSet ctx (arg % 2 ^ 16) (arg / 2 ^ 16)
  | 13 => h.pwDecide ctx d
  | 15 => if d == 1 then h.cyaAdmit else h.cyaRefuse 7
  | _ => h

/-- FDP's decision about a channel in COOL (R353): it acts at the end of COOL. -/
def FDie.feedDecide (f : FDie) (n : Nat) (retry : Bool) : FDie :=
  if f.feedState n == 4 && (f.feed n).asked then f.setFeed n { f.feed n with decision := some retry } else f

/-- An F-die unit's part of a decision: functions NMG, ENG, FDP and GRM. -/
def FDie.decide_ (f : FDie) (fn ctx d arg : Nat) : FDie :=
  match fn with
  | 5 => if d == 1 then f.needTo ctx true else f
  | 6 => if d == 2 then f.pushNb ctx (arg % 2 ^ 32) else if d == 3 then (f.pushNb ctx (arg % 2 ^ 32)).pushNb ctx (arg / 2 ^ 32) else f
  | 7 => f.feedDecide ctx (d == 1)
  | 12 => f.groomDecide ctx (d == 1)
  | _ => f

/-- SCB's decision about an instance of either die (Table 15.3). -/
def scbDecide (ctx d arg : Nat) (s : State) : State :=
  let i := ctx % 256
  let a := ctx / 256
  if i < 64 then
    let r := s.h.mem.decide_ i a d arg
    let h1 := s.h.memDone r.1
    { s with h := if r.2 then h1.raise Reg.MEM_EVT_REMAP_FULL else h1 }
  else
    let r := s.f.mem.decide_ i a d arg
    { s with f := s.f.memDone r.1 r.2 }

/-- A decision acts (R395, Table 17.1). -/
def decide_ (f ctx cookie d arg : Nat) (s : State) : State :=
  if f == 8 then fleDecide ctx (d == 1) s
  else if f == 14 then scbDecide ctx d arg s
  else if f == 5 || f == 6 || f == 7 || f == 12 then { s with f := (s.f.decide_ f ctx d arg).settle }
  else { s with h := s.h.decide_ f ctx cookie d arg }

/-- A feed fault that FDP was asked about is decided as in HW (R353): the channel latches once the retries are spent, or retries at the end of COOL. -/
def FDie.feedHw (f : FDie) (n : Nat) : FDie :=
  let c := f.feed n
  if f.feedState n == 4 && c.asked then
    let f1 := f.setFeed n { c with asked := false }
    if f.rd (Reg.FED_STAT_ATTEMPTS n) == f.rd (Reg.FED_CFG_RETRIES n) then
      ((f1.wr (Reg.FED_STAT_STATE n) 5).feedEvt n (Reg.FED_EVT_LATCHED n)).feedWarn n
    else f1
  else f

/-- A request without a reply is decided as in HW (R396, R400, Table 17.1). -/
def decideHw (r : HaReq) (s : State) : State :=
  match r.func with
  | 0 => { s with h := s.h.dupDecide r.cookie true }
  | 2 | 4 | 5 | 6 | 11 => s
  | 7 => { s with f := (s.f.feedHw r.ctx).settle }
  | f => decide_ f r.ctx r.cookie 1 0 s

/-- The outcome of a request whose deadline passed (Table 17.1): FWC rejects, CYA refuses, MST takes over; the rest as in HW. -/
def decideLate (r : HaReq) (s : State) : State :=
  match r.func with
  | 0 => { s with h := (s.h.bump Reg.RED_DUPHW_COUNT).dupDecide r.cookie true }
  | 4 => { s with h := s.h.takeoverDue }
  | 7 => s
  | 9 | 15 => decide_ r.func r.ctx r.cookie 2 0 s
  | _ => decideHw r s

/-- Every withdrawn request is decided as in HW (R400, R401). -/
def settleOwed : Nat → State → State
  | 0, s => s
  | n + 1, s =>
    match s.h.spl.owed with
    | [] => s
    | r :: rs => settleOwed n (decideHw r { s with h := { s.h with spl.owed := rs } })

/-- No function has more than 64 requests, so that this many steps decide every request twice over. -/
def settleSplit (s : State) : State := settleOwed 2048 s

/-- The ports HOST, BARRIER and CORE are up (Table 6.1). -/
def HDie.unitUp (h : HDie) (p : Nat) : Bool :=
  match p with
  | 6 => h.pcieUp
  | 7 => h.on Reg.BAR_STAT_UP
  | _ => h.coreRuns

/-- The queues of these ports follow (Table 6.3), and every function is served where it can be (R33, R401). -/
def HDie.followPorts (h was : HDie) : HDie :=
  if h.boot.inReset then h
  else
    ([6, 7, 8].foldl
      (fun (g : HDie) p =>
        if was.unitUp p && !g.unitUp p then g.portLeavesUp p else if !was.unitUp p && g.unitUp p then (g.portReturnsUp p).servePort p else g) h).serveAll

/-- What a command leads to beyond its own effect: the units' ports and functions follow it, and withdrawn requests are decided. -/
def followUp (was : HDie) (s : State) : State := askAll (settleSplit { s with h := s.h.followPorts was })

/-- A command that a unit's port or the function split may take part in; what either die leaves for the ring or the barrier is sent. -/
def onSplit (g : State → State) (s : State) : Host.Outcome State Fault Refusal := onEach (fun x => followUp x.h (g x)) s

/-- Such a command of the host die's: nothing happens while chip reset is held (R433). -/
def onHost (g : State → State) (s : State) : Host.Outcome State Fault Refusal :=
  onEach (fun x => if x.h.boot.inReset then x else followUp x.h (g x)) s

/-! ### Replies -/

/-- The outstanding request that a reply from a place names: 1 the core, 2 the host; `hub` is the peer whose core replies, 0x7F for the hub's own. -/
def HDie.findReq (h : HDie) (f cookie place hub : Nat) : Option HaReq :=
  if place == 1 && h.rd (Reg.SPL_FCFG_PEER f) != hub then none
  else h.spl.reqs.find? fun r => r.func == f && r.cookie == cookie && r.place == place

/-- The deadline of a request in 2^-32 ns after it was made (Table 17.1); none where another event is the deadline (MST, NMG, FDP). -/
def deadlineOf (s : State) (f : Nat) : Option Nat :=
  match f with
  | 0 => some (ofUs 100)
  | 1 | 2 | 3 | 6 | 13 | 15 => some (ofUs (max 1 (s.h.rd (Reg.SPL_FCFG_DL_US f))))
  | 8 => some (ofUs (max 1 (s.h.rd Reg.FLT_CFG_FLE_US)))
  | 9 => some (ofMs 10000)
  | 11 => some (ofMs 60000)
  | 12 => some (ofMs (max 1 (s.f.rd Reg.GRM_CONF_MS)))
  | 14 => some (ofMs 10)
  | _ => none

/-- CYA decides at the latest at the start of the cycle before SWC_PLANACT (Table 17.1). -/
def HDie.cyaLimit (h : HDie) (t : Nat) : Nat :=
  match h.sw.checking with
  | some p => if h.on Reg.TIM_CYCLE_EN then min t (h.cycleStart ((p.act + 2 ^ 32 - 1) % 2 ^ 32)) else t
  | none => t

/-- The instant of an outstanding request's deadline; none where another event is the deadline. -/
def HaReq.dueAt (r : HaReq) (s : State) : Option Nat :=
  (deadlineOf s r.func).map fun d => if r.func == 15 then s.h.cyaLimit (r.time + d) else r.time + d

/-- The deadline of an outstanding request passes (R395). -/
def deadline (f cookie : Nat) (s : State) : State :=
  match s.h.spl.reqs.find? fun r => r.func == f && r.cookie == cookie with
  | none => s
  | some r =>
    let h1 := match r.dueAt s with
      | some t => s.h.advance t
      | none => s.h
    if f == 4 then { s with h := h1.takeoverDue }
    else decideLate r { s with h := (h1.dropReq f cookie).bump (Reg.SPL_FCNT_DEFAULTED f) }

/-- A reply to a function's request (R82, R395): its completion status and the state that it leaves. At the instant of the deadline, and after it, the deadline
wins (R402). A decision that cannot reach the field die is taken as in HW (log 51). -/
def reply (f cookie d arg place hub : Nat) (s : State) : Nat × State :=
  match s.h.findReq f cookie place hub with
  | none => (0x0D, s)
  | some r =>
    if (r.dueAt s).any fun t => t ≤ s.h.tb.now then (0x0D, deadline f cookie s)
    else if !replyOk f d arg then (0x02, s)
    else
      let t := { s with h := s.h.dropReq f cookie }
      (0, if r.ofField && !s.linked then decideHw r t else decide_ f r.ctx cookie d arg t)

/-! ### The function machine (Table 17.2) -/

/-- SPL_FSTAT_f.STATE. -/
def HDie.fnState (h : HDie) (f : Nat) : Nat := h.rd (Reg.SPL_FSTAT_STATE f)

/-- A function enters DRAINING: its requests are withdrawn, and it is served as in HW (R400). -/
def HDie.fnDrain (h : HDie) (f : Nat) : HDie :=
  (((h.withdraw f).wr (Reg.SPL_FSTAT_STATE f) 3).wr (Reg.SPL_FSTAT_SERVED f) 0).wr (Reg.SPL_FSTAT_HWSERVE f) 0

/-- The place that SERVED names while the function is ON: that of its mode, or HW while its place is gone (R33, R401). -/
def HDie.fnPlace (h : HDie) (f : Nat) : HDie :=
  let gone := h.placeGone f || (h.rd (Reg.SPL_FCFG_MODE f) == 2 && !h.on Reg.PCI_EQCFG_EN)
  (h.wr (Reg.SPL_FSTAT_HWSERVE f) (b2n gone)).wr (Reg.SPL_FSTAT_SERVED f) (if gone then 0 else h.rd (Reg.SPL_FCFG_MODE f))

/-- A function enters STARTING: it starts in the mode that the register holds now (R398, R399). -/
def HDie.fnStart (h : HDie) (f : Nat) : HDie :=
  { h.wr (Reg.SPL_FSTAT_STATE f) 1 with spl.starting := aput h.spl.starting f (h.rd (Reg.SPL_FCFG_MODE f)) }

/-- SPL_FCFG_f is written (R393, R398, Table 17.2). -/
def HDie.fnConfig (h : HDie) (f v : Nat) : HDie :=
  let en := fieldOf v 0 1
  let mode := fieldOf v 1 2
  if mode == 3 || (mode == 2 && !h.hostAttached) then h.raise (Reg.SPL_FSTAT_REFUSED f)
  else
    let moved := h.rd (Reg.SPL_FCFG_MODE f) != mode
    let h1 := (((h.wr (Reg.SPL_FCFG_EN f) en).wr (Reg.SPL_FCFG_MODE f) mode).wr (Reg.SPL_FCFG_PEER f) (fieldOf v 8 7)).wr (Reg.SPL_FCFG_DL_US f)
      (fieldOf v 16 16)
    let h2 := if moved then h1.wr (Reg.SPL_FSTAT_PENDING_MODE f) 1 else h1
    match h.fnState f with
    | 0 => if en == 1 then h2.fnStart f else h2
    | 1 => h2
    | 2 => if en == 0 || moved then h2.fnDrain f else h2.serve f
    | _ => h2.wr (Reg.SPL_FSTAT_PENDING_ENABLE f) en

/-- Starting ends (R399): the bucket is full, and the function is ON; where EN was cleared or MODE changed meanwhile, it drains at once. -/
def HDie.fnStarted (h : HDie) (f : Nat) : HDie :=
  if h.fnState f != 1 then h
  else
    let mode := h.rd (Reg.SPL_FCFG_MODE f)
    let same := aget h.spl.starting f mode == mode
    let h1 := { h.wr (Reg.SPL_FSTAT_STATE f) 2 with
      spl.buckets := h.spl.buckets.filter fun b => b.1 != f
      spl.starting := adel h.spl.starting f }
    let h2 := if same then h1.wr (Reg.SPL_FSTAT_PENDING_MODE f) 0 else h1
    if !same || !h.on (Reg.SPL_FCFG_EN f) then h2.fnDrain f
    else (h2.wr Reg.SPL_EVT_MOVED (h.rd Reg.SPL_EVT_MOVED ||| 2 ^ f)).fnPlace f

/-- The drain ends (R400): OFF, or STARTING in the recorded mode. -/
def HDie.fnDrained (h : HDie) (f : Nat) : HDie :=
  if h.fnState f != 3 || h.spl.owed.any (fun r => r.func == f) then h
  else if h.on (Reg.SPL_FCFG_EN f) then (h.fnStart f).wr (Reg.SPL_FSTAT_PENDING_ENABLE f) 0
  else (h.wr (Reg.SPL_FSTAT_STATE f) 0).wr (Reg.SPL_FSTAT_PENDING_ENABLE f) 0

end Sys2Proof.Machine
end

