-- ==== Sys2Proof/Machine/SplitFn.lean ====
section
/-! DEFINITION. The commands of the function split (chapter 17) and of the places it decides in: replies, deadlines, the function machine, the PCIe link and the
core's watchdog; and those redundancy commands by which a peer is lost or returns (R151, R397). -/
namespace Sys2Proof.Machine

/-! ### Replies -/

/-- HA_REPLY (R82): the descriptor that submission queue q performs next answers a request that the host was sent. -/
def haReply (q : Nat) (s : State) : State :=
  match s.h.current q 9 with
  | none => s
  | some st =>
    let d := st.desc
    let r := reply (d.d1.fld 0 4) d.d2.toNat (d.d1.fld 8 8) (two d.d4 d.d5) 2 0x7F s
    { r.2 with h := r.2.h.finish q st.ser r.1 0 }

def execHaReply (q : Fin 64) (s : State) : Host.Outcome State Fault Refusal := onHost (haReply q) s

/-- The 32 bytes of an HA_REPLY descriptor with TAG 0 (R82, R397). -/
def replyBytes (f cookie d arg : Nat) : List Byte :=
  leBytes 4 9 ++ leBytes 4 (f % 16 + d % 256 * 256) ++ leBytes 4 cookie ++ leBytes 4 0 ++ leBytes 8 arg ++ leBytes 8 0

/-- The key of a request of another hub: its function and cookie. -/
def peerKey (f cookie : Nat) : Nat := 2 ^ 32 * f + cookie

/-- CORE_HA_REPLY (R394, R397): the core answers a request of its own hub (`hub` 0x7F), or of another hub, by an EVENT frame. -/
def coreReply (hub f cookie d arg : Nat) (s : State) : State :=
  if !s.h.coreRuns then s
  else if hub == 0x7F then (reply f cookie d arg 1 0x7F s).2
  else if s.h.spl.peerReq.contains (hub, peerKey f cookie) then
    let h1 := if replyOk f d arg then { s.h with spl.peerReq := s.h.spl.peerReq.filter fun x => !(x == (hub, peerKey f cookie)) } else s.h
    { s with h := h1.sourceCtl 8 5 0xFC8 hub 0 (beBytes 4 (2 * 2 ^ 24) ++ replyBytes f cookie d arg) }
  else s

def execCoreHaReply (hub : Fin 128) (f : Fin 16) (cookie : Word) (d : Byte) (arg : BitVec 64) (s : State) : Host.Outcome State Fault Refusal :=
  onHost (coreReply hub f cookie.toNat d.toNat arg.toNat) s

/-- The event entry that the bytes of a REQUEST carry (Table 3.12). -/
def entryOf (bs : List Byte) : Ev :=
  let w := leNat (slice bs 0 4)
  { kind := fieldOf w 0 8, func := fieldOf w 8 4, ha := bitOf w 12, origin := fieldOf w 8 4, count := fieldOf w 16 16,
    cookie := leNat (slice bs 4 4), time := mkTime (leNat (slice bs 12 4)) (leNat (slice bs 8 4) % 2 ^ 30) 0,
    detail0 := leNat (slice bs 16 8), detail1 := leNat (slice bs 24 8) }

/-- A REQUEST of another hub reaches the core (R397); an untracked copy of one already handled does not (R147). -/
def HDie.peerRequest (h : HDie) (src : Nat) (e : Ev) (untrk : Bool) : HDie :=
  let k := (src, peerKey e.func e.cookie)
  if !h.coreRuns || (untrk && h.spl.peerSeen.contains k) then h
  else
    let rest := h.spl.peerSeen.filter fun x => !(x == k)
    { h with spl.peerSeen := (k :: rest).take 1024, spl.peerReq := k :: (h.spl.peerReq.filter fun x => !(x == k)),
             spl.coreIn := h.spl.coreIn ++ [e] }

/-- EVENT_FRAME_RECEIVED (R397): SUBKIND 0x01 REQUEST, 0x02 REPLY. -/
def eventFrame (f : Frame) (s : State) : State :=
  let untrk := s.h.sw.inbox.any fun b => decide (b.frame = f) && b.untrk
  let s1 := { s with h := s.h.takeInbox f }
  let v0 := beWord f.payload 0
  let bs := slice f.payload 4 32
  if hType f.hdr != 8 || f.payload.length != 36 then s1
  else
    match fieldOf v0 24 8 with
    | 1 => { s1 with h := s1.h.peerRequest (hSrc f.hdr) (entryOf bs) untrk }
    | 2 =>
      let w := leNat (slice bs 4 4)
      (reply (fieldOf w 0 4) (leNat (slice bs 8 4)) (fieldOf w 8 8) (leNat (slice bs 16 8)) 1 (hSrc f.hdr) s1).2
    | _ => s1

def execEventFrameReceived (f : Frame) (s : State) : Host.Outcome State Fault Refusal := onHost (eventFrame f) s

/-- HA_REQUEST_DEADLINE (R395, R402). -/
def execHaRequestDeadline (f : Fin 16) (cookie : Word) (s : State) : Host.Outcome State Fault Refusal := onHost (deadline f cookie.toNat) s

/-! ### The function machine -/

/-- FUNCTION_CONFIG_WRITE (R393, R398): SPL_FCFG_f is written. -/
def execFunctionConfigWrite (f : Fin 16) (v : Word) (s : State) : Host.Outcome State Fault Refusal :=
  onHost (fun x => { x with h := x.h.fnConfig f v.toNat }) s

/-- FUNCTION_START_DONE (R399). -/
def execFunctionStartDone (f : Fin 16) (s : State) : Host.Outcome State Fault Refusal := onHost (fun x => { x with h := x.h.fnStarted f }) s

/-- FUNCTION_DRAIN_DONE (R400). -/
def execFunctionDrainDone (f : Fin 16) (s : State) : Host.Outcome State Fault Refusal := onHost (fun x => { x with h := x.h.fnDrained f }) s

/-! ### The places -/

/-- PCIE_RESET (R92): a function level reset (0), a hot reset (1), or loss of the link (2). -/
def execPcieReset (kind : Fin 3) (s : State) : Host.Outcome State Fault Refusal := onHost (fun x => { x with h := x.h.pciReset kind }) s

/-- PERST_DEASSERT (R439, R440): in the host-attached role the endpoint may train its link from now on. -/
def execPerstDeassert (s : State) : Host.Outcome State Fault Refusal :=
  onHost (fun x => if x.h.hostAttached then { x with h := { x.h with boot.perst := true } } else x) s

/-- PCIE_LINK_UP (R33, R439): PCI_LINK shows the lanes in use and the speed. -/
def HDie.pcieLink (h : HDie) (width speed : Nat) : HDie :=
  if !h.hostAttached || !h.boot.perst then h
  else
    let w := if width == 0 then 1 else if width == 1 then 2 else 4
    { ((h.wr Reg.PCI_LINK_UP 1).wr Reg.PCI_LINK_WIDTH w).wr Reg.PCI_LINK_SPEED (speed + 1) with hostq.linkUp := true }

/-- `width` 0, 1, 2: one, two or four lanes; `speed` 0 to 3: 2.5, 5, 8 or 16 GT/s. Events that waited are posted (R66). -/
def execPcieLinkUp (width : Fin 3) (speed : Fin 4) (s : State) : Host.Outcome State Fault Refusal :=
  onHost (fun x => { x with h := (x.h.pcieLink width speed).drain }) s

/-- WATCHDOG (R374, R402): the management core has stopped: its functions are served in HW, and the fault is reported. -/
def execWatchdog (s : State) : Host.Outcome State Fault Refusal :=
  onHost (fun x => if x.h.coreRuns then { x with h := { x.h with boot.coreOk := false }.fault 16 0x30 0 } else x) s

/-! ### Peers -/

/-- PATH_STATE_RECEIVED (R151): link states and the ring state; a peer that returns decides again (R397). -/
def execPathStateReceived (f : Frame) (s : State) : Host.Outcome State Fault Refusal :=
  onHost (fun x => { x with h := (x.h.takeInbox f).pathIn f }) s

/-- A listed member that never sent one. -/
def PathSt.silent (hub now : Nat) : PathSt :=
  { hub := hub, eUp := false, wUp := false, fec := false, fb := false, eNeigh := 0x7F, wNeigh := 0x7F, time := now, absent := true }

/-- A member without a PATH_STATE for 300 ms is absent, with both its links down, one that never sent any included (R151; log 186). -/
def HDie.memberAbsent (h : HDie) (hub : Nat) : HDie :=
  match h.red.paths.find? fun p => p.hub == hub with
  | none =>
    if h.numbered && h.member hub && hub != h.hubNum then
      { h with red.paths := PathSt.silent hub h.tb.now :: h.red.paths }.ringUpdate
    else h
  | some p =>
    if p.absent then h
    else
      let h1 := h.advance (p.time + ofMs 300)
      { h1 with red.paths := h1.red.paths.map fun (x : PathSt) => if x.hub == hub then { x with absent := true, eUp := false, wUp := false } else x }.ringUpdate

/-- MEMBER_ABSENT_TIMEOUT (R151). -/
def execMemberAbsentTimeout (hub : Fin 120) (s : State) : Host.Outcome State Fault Refusal :=
  onHost (fun x => { x with h := x.h.memberAbsent hub }) s

end Sys2Proof.Machine
end

