-- ==== Sys2Proof/Machine/FaultCmds.lean ====
section
/-! DEFINITION. The commands of the fault collector and of the detectors that stand outside other units (chapter 16). -/
namespace Sys2Proof.Machine

/-- BLOCK_RESET_COMMAND (R372): FLT_BRST is written with DOM and GO. -/
def blockCommand (v : Nat) (s : State) : State :=
  let d := fieldOf v 0 6
  if !bitOf v 31 then s
  else if resetUs d = 0 then { s with h := s.h.raise Reg.FLT_STAT_CFG_REFUSED }
  else blockReset d s

/-- A reset of domain d ends (Table 16.2): the management core runs its image again, unless ACTIVATE holds it until the new one starts (R416). -/
def HDie.resetDone (h : HDie) (d : Nat) : HDie :=
  if !h.flt.resets.contains d then h
  else
    let start := (h.flt.shadows.reverse.find? fun x => x.dom == d).map (fun x => x.open_ + ofUs (resetUs d))
    let h1 := (h.advance (start.getD 0)).showShadows
    let h2 := { h1 with flt.resets := h1.flt.resets.filter fun x => x != d }
    if d == 9 && !h2.upd.switch.any (fun k => slotClass k == 1) then { h2 with boot.coreHeld := false } else h2

/-- BLOCK_RESET_DONE (R372). -/
def execBlockResetDone (d : Fin 64) (s : State) : Host.Outcome State Fault Refusal := onHost (fun x => { x with h := x.h.resetDone d }) s

/-- SHADOW_CLOSE (R383): the shadow of domain d closes. -/
def HDie.shadowClose (h : HDie) (d : Nat) : HDie :=
  match h.flt.shadows.reverse.find? fun x => x.dom == d with
  | none => h
  | some x => (h.advance (x.close + 1)).showShadows

def execShadowClose (d : Fin 64) (s : State) : Host.Outcome State Fault Refusal := onH (fun h => h.shadowClose d) s

/-- LADDER_STEP_DECAY (R379): REPEAT_MS has passed with no acting fault of the source; its step is 0. -/
def HDie.stepDecay (h : HDie) (src : Nat) : HDie :=
  match h.flt.lastAct.find? fun e => e.1 == src with
  | none => h
  | some e =>
    let h1 := h.advance (ofNs (e.2 + 1000000 * max 1 (h.rd Reg.FLT_TIM_REPEAT_MS)))
    { h1.wr (Reg.FLT_SSTAT_STEP src) 0 with flt.lastAct := adel h1.flt.lastAct src }

def execLadderStepDecay (src : Fin 768) (s : State) : Host.Outcome State Fault Refusal := onH (fun h => h.stepDecay src) s

/-- PEND_CLEAR (R384): FLT_SSTAT_s.PEND is written 1. -/
def execPendClear (src : Fin 768) (s : State) : Host.Outcome State Fault Refusal := onHost (pendClear src) s

/-- FEC_CLEAR (R381): FLT_FECSTAT.CLR is written. -/
def execFecClear (s : State) : Host.Outcome State Fault Refusal :=
  onH (fun h => (h.wr Reg.FLT_FECSTAT_VALID 0).wr Reg.FLT_FECSTAT_LATER 0) s

/-- FLT_INJ is written (R388): the collector processes the message at once. -/
def inject (v : Nat) (s : State) : State := if bitOf v 31 then processFault (injectedMsg v (timeWord s.h.tb.now)) s else s

/-- FFL_INJ is written (R388): the detector of a source from 256 to 511 reports. -/
def FDie.inject (f : FDie) (v : Nat) : FDie :=
  if bitOf v 31 && 256 ≤ fieldOf v 0 10 && fieldOf v 0 10 ≤ 511 then f.report (injectedMsg v (timeWord f.tb.now)) else f

def execFieldFaultInject (v : Word) (s : State) : Host.Outcome State Fault Refusal := onWrite (fun f => f.inject v.toNat) s

/-! ### Conditions that are out of range -/

/-- A condition of the host die goes out of range, which is reported, or returns (R374, R384). -/
def HDie.outOf (h : HDie) (src item kind detail : Nat) (out : Bool) : HDie :=
  let was := h.flt.outs.contains (src, item)
  let rest := h.flt.outs.filter fun x => !(x == (src, item))
  let h1 := { h with flt.outs := if out then (src, item) :: rest else rest }
  if out && !was then h1.fault src kind detail else h1

/-- SUPPLY_OUT_OF_RANGE (R374, R458): rails 0 to 5 by the host die, with their bits of PWM_SUPSTAT; FVSUP and FVCAN by the field die. `out` false: the
rail is in range (again). -/
def execSupplyOutOfRange (rail : Fin 8) (out : Bool) (s : State) : Host.Outcome State Fault Refusal :=
  if rail.val < 6 then
    onH (fun h => (h.wr Reg.PWM_SUPSTAT_INRANGE (setBit (h.rd Reg.PWM_SUPSTAT_INRANGE) rail (!out))).outOf 1 rail 0x31 rail out) s
  else onF (fun f => if f.stage == 4 then f else f.outOf 257 rail 0x31 rail out) s

/-- JUNCTION_OVERTEMP (R374): a junction's temperature in 1/16 °C; above 125 °C it is out of range. -/
def execJunctionOvertemp (field : Bool) (t : BitVec 16) (s : State) : Host.Outcome State Fault Refusal :=
  let out := decide (2000 < signed 16 t.toNat)
  if field then onF (fun f => if f.stage == 4 then f else f.outOf 258 0 0x32 t.toNat out) s
  else onH (fun h => h.outOf 2 0 0x32 t.toNat out) s

/-- CLOCK_LOSS (R374): clock domain CD_n loses its clock, or has it again: CD_1 to CD_8 and CD_12 through source 3, CD_9 to CD_11 through source 270. -/
def execClockLoss (n : Fin 13) (lost : Bool) (s : State) : Host.Outcome State Fault Refusal :=
  if 9 ≤ n.val && n.val ≤ 11 then onF (fun f => if f.stage == 4 then f else f.outOf 270 n 0x33 n lost) s
  else onH (fun h => if n.val = 0 then h else h.outOf 3 n 0x33 n lost) s

end Sys2Proof.Machine
end

