-- ==== Sys2Proof/Machine/Update.lean ====
section
/-! DEFINITION. The commands of the update engine (chapter 18). -/
namespace Sys2Proof.Machine

/-! ### Sessions (R412, R415) -/

/-- The balls as a command finds them: MOTION_N low; HOLDUP_N has gone low (R412). -/
def HDie.atPins (h : HDie) (motionLow holdupLow : Bool) : HDie := h.fwuPins motionLow (holdupLow || h.on Reg.FWU_STAT_HOLDUP_LOW)

/-- UPDATE_START. -/
def execUpdateStart (slot : Fin 16) (motionLow holdupLow : Bool) (s : State) : Host.Outcome State Fault Refusal :=
  onHost (fun x => { x with h := (x.h.atPins motionLow holdupLow).fwuStart slot }) s

/-- UPDATE_PROGRAM. -/
def execUpdateProgram (s : State) : Host.Outcome State Fault Refusal := onHost (fun x => { x with h := x.h.fwuProgram }) s

/-- PROGRAM_DONE: whether the chunk reads back as written. -/
def execProgramDone (good : Bool) (s : State) : Host.Outcome State Fault Refusal := onHost (fun x => { x with h := x.h.programDone good }) s

/-- CHECK: WRITING to CHECKING; while a chunk is being programmed it is not accepted. -/
def HDie.fwuCheck (h : HDie) : HDie := if h.fwu != 1 || h.upd.chunk.isSome then h.fwuRefuse 0x12 else h.fwuTo 2

/-- UPDATE_CHECK. -/
def execUpdateCheck (s : State) : Host.Outcome State Fault Refusal := onHost (fun x => { x with h := x.h.fwuCheck }) s

/-- CHECK_DONE. -/
def execCheckDone (s : State) : Host.Outcome State Fault Refusal := onHost (fun x => { x with h := x.h.checkDone }) s

/-- ABORT (Table 18.5): WRITING, CHECKING or STAGED to IDLE, the slot unchecked. -/
def HDie.fwuAbort (h : HDie) : HDie := if 1 ≤ h.fwu && h.fwu ≤ 3 then h.updateReset else h.fwuRefuse 0x12

/-- UPDATE_ABORT. -/
def execUpdateAbort (s : State) : Host.Outcome State Fault Refusal := onHost (fun x => { x with h := x.h.fwuAbort }) s

/-! ### Switching (R416, R417) -/

/-- ACTIVATE (Table 18.5): the boot record takes the new slot; the core is held, or the field die is sent RESTART. -/
def HDie.fwuActivate (h : HDie) : HDie :=
  let k := h.fwuSlot
  if h.fwu != 3 then h.fwuRefuse 0x12
  else if h.fwuBar != 0 then h.fwuRefuse h.fwuBar
  else
    let r := h.bootRec
    let new := r.withActive k
    let h1 := { h.raise Reg.FWU_EVT_ACTIVATED with upd.prev := r.active (slotClass k), upd.switch := if slotClass k == 3 then none else some k }
    let h2 := h1.writeRec (if slotClass k == 1 then { new with trial := true, tryUsed := true } else new)
    let h3 := (h2.wr Reg.FWU_STAT_ERR 0).fwuTo 4
    if slotClass k == 1 then h3.coreStop
    else if slotClass k == 2 then { h3 with upd.load := some { slot := k, tried := false, sent := false, ran := false } }.sendImg [imgData 0 1 []]
    else h3

/-- UPDATE_ACTIVATE. -/
def execUpdateActivate (motionLow holdupLow : Bool) (s : State) : Host.Outcome State Fault Refusal :=
  onHost (fun x => { x with h := (x.h.atPins motionLow holdupLow).fwuActivate }) s

/-- BOOT_RECORD_WRITTEN: the record that was being written is in force; a class C update is over (Table 18.5). -/
def HDie.recWritten (h : HDie) : HDie :=
  let h1 := h.finishRec
  if h1.fwu == 4 && slotClass h1.fwuSlot == 3 then h1.fwuTo 0 else h1

def execBootRecordWritten (s : State) : Host.Outcome State Fault Refusal := onHost (fun x => { x with h := x.h.recWritten }) s

/-- CLASS_M_IMAGE_STARTED (R409, R416): DIGEST is checked once more and the core starts at ENTRY; where it differs the hub falls back (log 66). -/
def HDie.classMStarted (h : HDie) : HDie :=
  match h.upd.switch with
  | none => h
  | some k =>
    if slotClass k != 1 then h
    else
      let h1 := { h.finishRec.startCore k with upd.switch := none }
      let goes := fun (g : HDie) (st : Nat) => if g.fwu == 4 then g.fwuTo st else g
      if h1.rd Reg.GLB_STATUS_BOOT == 2 then goes h1 5 else goes ((h1.wr Reg.FWU_STAT_ERR 0x0B).imageFault 0x0B k).fallbackM 0

def execClassMImageStarted (s : State) : Host.Outcome State Fault Refusal := onHost (fun x => { x with h := x.h.classMStarted }) s

/-- CONFIRM (R416), which the image in the core writes: of the image on trial; else of an image that needs no window, whose CONFIRM returns the functions. -/
def HDie.fwuConfirm (h : HDie) (core : Bool) : HDie :=
  if !core || !h.coreRuns then h.fwuRefuse 0x12
  else if h.bootRec.trial then h.confirmM
  else if !h.boot.coreOk then { h with boot.coreOk := true }
  else h.fwuRefuse 0x12

/-- CONFIRM_WINDOW_EXPIRY (R416): the image on trial has not confirmed within CONFIRM_S. -/
def HDie.windowOver (h : HDie) : HDie := if h.bootRec.trial && h.coreRuns then h.fallbackM else h

/-- UPDATE_CONFIRM: `core`, the writer is the core of this hub; `expired`, the window expires in the same instant, and wins (Table 18.8). -/
def execUpdateConfirm (core expired : Bool) (s : State) : Host.Outcome State Fault Refusal :=
  onHost (fun x => { x with h := if expired && x.h.bootRec.trial then x.h.windowOver else x.h.fwuConfirm core }) s

def execConfirmWindowExpiry (s : State) : Host.Outcome State Fault Refusal := onHost (fun x => { x with h := x.h.windowOver }) s

/-- CLASS_F_HEALTH_TIMEOUT (R417, R437): no HEALTHY within F_MS, also where the barrier was lost after the microcode of an update started. -/
def HDie.healthOver (h : HDie) : HDie :=
  match h.upd.load with
  | some l => h.failF l.slot 0x14 l.tried true
  | none => if h.updatesF then h.failF (h.bootRec.active 2) 0x14 false true else h

def execClassFHealthTimeout (s : State) : Host.Outcome State Fault Refusal := onHost (fun x => { x with h := x.h.healthOver }) s

/-- IMG_DATA (R418): the field die takes a message of the image stream. -/
def execImgData (m : BarMsg) (s : State) : Host.Outcome State Fault Refusal := onTakeF 0x50 m (fun f => f.imgIn m) s

/-- A report of the ROM or of the microcode (R418). Once no class F update is under way any more, SLEEP is not refused for one (R320; log 51). -/
def imgStat_ (m : BarMsg) (s : State) : State :=
  let h := s.h.imgStat m
  { s with h := h, f.upd := s.f.upd && (m.m1.fld 0 8 != 5 || h.upd.load.isSome) }

/-- IMG_STAT (R418). -/
def execImgStat (m : BarMsg) (s : State) : Host.Outcome State Fault Refusal := onHost (takeH 0x51 m (imgStat_ m)) s

/-! ### Motion and ownership (R412 to R414) -/

/-- MOTION_BROADCAST (R413): the lead sends RING to every hub, its own included; a hub that follows no lead copies its own. -/
def HDie.motionSend (h : HDie) : HDie :=
  let v := h.rd Reg.FWU_MOTCFG_RING
  if h.leads && h.numbered then
    (h.sendRequest 127 0 (requestPayload 2 0xFF 4 0xC0030 0 0 (leBytes 4 v))).ringMotion v
  else if h.rd Reg.RED_LEADSTAT_LEAD_HUB == 0x7F then h.ringMotion v
  else h

def execMotionBroadcast (s : State) : Host.Outcome State Fault Refusal := onH (fun h => h.motionSend) s

/-- MOTION_TIMEOUT (R413): a hub that follows a lead has had no write for 10 ms. -/
def HDie.motionOver (h : HDie) : HDie :=
  let l := h.rd Reg.RED_LEADSTAT_LEAD_HUB
  if l == 0x7F then h.ringMotion (h.rd Reg.FWU_MOTCFG_RING) else if h.leads then h else h.ringMotion 1

def execMotionTimeout (s : State) : Host.Outcome State Fault Refusal := onH (fun h => h.motionOver) s

/-- FWU_MOTCFG is written: a hub that follows no lead copies it at once (R413). -/
def HDie.motionCfg (h : HDie) (v : Nat) : HDie :=
  let h1 := h.wr Reg.FWU_MOTCFG_RING (v % 2)
  if h1.rd Reg.RED_LEADSTAT_LEAD_HUB == 0x7F then h1.ringMotion (v % 2) else h1

/-- A write of FWU_OWNER from a hub (R414): performed where it comes from hub FWU_OWNER.HUB. -/
def HDie.ownerWrite (h : HDie) (from_ v : Nat) : HDie :=
  if from_ == h.rd Reg.FWU_OWNER_HUB then
    ((h.wr Reg.FWU_OWNER_LOCK (v % 2)).wr Reg.FWU_OWNER_HUB (fieldOf v 8 7)).wr Reg.FWU_STAT_OWNER_LOCK (v % 2)
  else h.raise Reg.FWU_EVT_REFUSED

/-- OWNER_WRITE (R414): `hub` none for a local access. -/
def execOwnerWrite (hub : Option (Fin 128)) (v : Word) (s : State) : Host.Outcome State Fault Refusal :=
  onH (fun h => h.ownerWrite ((hub.map fun x => x.val).getD h.self) v.toNat) s

/-- HOLDUP_N_RISE (R412, R423): HOLDUP_LOW clears, and a save that waited is performed. -/
def HDie.holdupRise (h : HDie) : HDie :=
  let h1 := h.wr Reg.FWU_STAT_HOLDUP_LOW 0
  if h1.upd.saveDue then { h1 with upd.saveDue := false }.saveAge else h1

def execHoldupNRise (s : State) : Host.Outcome State Fault Refusal := onH (fun h => h.holdupRise) s

/-- A save of the ageing record, with the HOLDUP_N ball as the command finds it (R423, R429). -/
def HDie.saveAt (h : HDie) (holdupLow : Bool) : HDie := (h.atPins h.upd.motLow holdupLow).saveAge

end Sys2Proof.Machine
end

