-- ==== Sys2Proof/Machine/Startup.lean ====
section
/-! DEFINITION. Power-up, chip reset, booting, the barrier link's coming and going, and joining the ring (chapter 20). -/
namespace Sys2Proof.Machine

/-! ### Chip reset (R431, R433 to R435) -/

/-- HOST_RAIL_LOSS (R431): a host rail of Table 21.5, or the 25 MHz reference as 6, goes below its threshold. Removal of VAUX_H clears the grave latch
(R385). -/
def railLoss (rail : Nat) (s : State) : State :=
  let h := s.h
  let h1 := if rail == 5 then
      match h.graveSource with
      | some src =>
        { h with regs := h.regs.filter fun e =>
            !((8 * 0xA0020 ≤ e.1 && e.1 < 8 * 0xA0030) || (8 * (0xA1008 + 0x10 * src) ≤ e.1 && e.1 < 8 * (0xA1008 + 0x10 * src) + 32)) }
      | none => h
    else h
  chipReset 0 { s with h := h1 }

def execHostRailLoss (rail : Fin 7) (s : State) : Host.Outcome State Fault Refusal := onEach (railLoss rail) s

/-- RST_N_ASSERT (R433): RST_N has been low for 1 µs. -/
def execRstNAssert (s : State) : Host.Outcome State Fault Refusal := onEach (chipReset 1) s

/-- Whether a field-die register keeps its content when GLB_RST resets the field die (R435): Groom rules, GRM_HIT and counts, and what the variant fixes. -/
def groomKeeps (key : Nat) : Bool := variantKey key || (8 * 0x8A0200 ≤ key && key < 8 * 0x8A0400) || (8 * 0x8A0010 ≤ key && key < 8 * 0x8A0014)

/-- The field die powers on (R432): it comes to its recovery ROM; what is out of range outside stays so, and the FVIO voltages are judged anew. -/
def FDie.powerOn (f : FDie) : FDie :=
  (upto 8).foldl (fun g b => g.showFvio b)
    { FDie.clear with
      variant := f.variant, regs := f.regs.filter fun e => variantKey e.1, mems := memsReset f.mems
      outs := f.outs, fvio := f.fvio, free := f.free, tb := { FDie.clear.tb with now := f.tb.now } }

/-- GLB_RST is written (R433, R435): GO and KEY 0xC4A5 reset the host die, and FIELD the field die too. -/
def glbReset (v : Nat) (s : State) : State :=
  if !bitOf v 0 || fieldOf v 16 16 != 0xC4A5 || s.h.boot.inReset then s
  else
    let f1 := if bitOf v 1 && s.f.stage != 4 then { s.f.powerOn with regs := s.f.regs.filter fun e => groomKeeps e.1 } else s.f
    chipReset 3 { s with f := f1 }

/-- SOFT_RESET (R433). -/
def execSoftReset (v : Word) (s : State) : Host.Outcome State Fault Refusal := onEach (glbReset v.toNat) s

/-- FIELD_RESET (R435): GLB_RST with FIELD as well as GO. -/
def execFieldReset (s : State) : Host.Outcome State Fault Refusal := onEach (glbReset 0xC4A50003) s

/-- JTAG_RESET (R433). -/
def execJtagReset (s : State) : Host.Outcome State Fault Refusal := onEach (chipReset 4) s

/-! ### Booting (R406, R436) -/

/-- The ageing record of the copy in use, else of the other; else zeros, with RECORD_LOST (R424). -/
def HDie.loadAge (h : HDie) : HDie :=
  let at_ := fun (c : Nat) => flashRead h.upd.flash (0x10000 * c + 0x1000) 0x1000
  let a := at_ h.upd.use
  let b := at_ (1 - h.upd.use)
  if ageValid a then h.takeRecord a else if ageValid b then h.takeRecord b else h.raise Reg.AGE_EVT_RECORD_LOST

/-- The boot record is read, and the class M slot chosen (R406): a trial that has been started once goes back before any image starts. -/
def HDie.romReads (h : HDie) : HDie :=
  let c := useCopy h.upd.flash
  let h1 := { h with upd.use := c.getD 0 }
  let h2 := (if c.isNone then h1.raise Reg.FWU_STAT_NOREC else h1).showRec.loadAge
  let r := h2.bootRec
  let h3 :=
    if !r.trial then h2
    else if !r.tryUsed then h2.writeRec { r with tryUsed := true }
    else
      (((h2.writeRec { r with actM := 1 - r.actM, trial := false }).raise Reg.FWU_EVT_FALLBACK).bump Reg.FWU_FALLBACKS_COUNT).imageFault 0x13 r.actM
  h3.wr Reg.GLB_STATUS_BOOT 1

/-- Chip reset is released (R435, R442, R456): the cause is shown, the straps are sampled and the boot ROM reads its record. `high` and `hubId` are the
levels of ROLE and HUBID held for the last 50 µs; of an unstable ball there is none: ROLE then reads low, and HUBID 0x7F with BAD_STRAP. -/
def HDie.released (h : HDie) (high : Option Bool) (hubId : Option Nat) : HDie :=
  let role := high.getD false
  let strap := hubId.getD 0x7F
  let h1 := { h with boot.inReset := false, boot.roleHigh := role, boot.hubId := strap }
  let h2 := ((h1.wr Reg.GLB_RSTCAUSE_CAUSE (2 ^ h.boot.cause)).wr Reg.GLB_STATUS_ROLE (b2n (!role || h1.variant == 2))).wr Reg.GLB_HUBNUM_STRAP
    strap
  let h3 := if hubId.isNone || 120 ≤ strap && strap ≤ 126 then h2.raise Reg.GLB_EVT_BAD_STRAP else h2
  h3.romReads.showBuf

def execChipResetRelease (high : Option Bool) (hubId : Option (Fin 128)) (s : State) : Host.Outcome State Fault Refusal :=
  onSplit (fun x => if x.h.boot.inReset then { x with h := x.h.released high (hubId.map (·.val)) } else x) s

/-- What is wrong with class M slot k at boot: none, or an IMAGE code, 0 for a slot that has not been checked (R415, R436). -/
def HDie.bootBad (h : HDie) (k : Nat) : Option Nat :=
  if !h.upd.ok.contains k then some 0
  else
    let c := h.checkHeader k
    if c != 0 then some c else if h.digestOk k then none else some 0x0B

/-- The boot ROM tries slot k; `last`: the other slot has failed already. -/
def HDie.bootSlot (h : HDie) (k : Nat) (last : Bool) : HDie :=
  match h.bootBad k with
  | none => h.startCore k
  | some c =>
    let h1 := h.imageFault c k
    if last then h1.wr Reg.GLB_STATUS_BOOT 3 else { h1.raise Reg.FWU_EVT_FALLBACK with boot.tryOther := true }

/-- BOOT_IMAGE_LOADED (R436): the chosen slot is checked and its image loaded and started; where it fails, the other is tried once, by the next such
command; where both fail, BOOT reads FAILED. -/
def HDie.bootLoaded (h : HDie) : HDie :=
  let g := if h.rd Reg.GLB_STATUS_BOOT == 0 then h.romReads else h
  if g.rd Reg.GLB_STATUS_BOOT != 1 then g
  else
    let h1 := g.finishRec
    let k := h1.bootRec.actM
    if h1.boot.tryOther then h1.bootSlot (1 - k) true else h1.bootSlot k false

def execBootImageLoaded (s : State) : Host.Outcome State Fault Refusal := onHost (fun x => { x with h := x.h.bootLoaded }) s

/-- READY_WRITE (R441): GLB_CTL is written. -/
def execReadyWrite (v : Word) (s : State) : Host.Outcome State Fault Refusal := onH (fun h => h.readyWrite v.toNat) s

/-! ### The barrier link (R17, R224, R437) -/

/-- The host die's end of the link is up: credits are granted afresh, and the field copy of the cycle is written (R245). -/
def HDie.linkUp (h : HDie) : HDie :=
  let h1 := (((h.wr Reg.BAR_STAT_UP 1).wr Reg.BAR_STAT_CH_LOCK 0xFF).raise Reg.BAR_EVT_UP)
  { h1 with brg.bar := BarEnd.start, brg.imgIn := [], brg.strIn := [], flt.outs := h1.flt.outs.filter fun x => x.1 != 15 }.copyCycle

/-- The field die's first words at link-up (R322, R387, R435, R437): WAKE messages that were kept, with HIT as it stands (Table 13.6), and faults; then HEALTHY if
the microcode runs, else the ROM is ready. -/
def FDie.linkTalk (f : FDie) : FDie :=
  let hit := BitVec.ofNat 32 (f.rd Reg.GRM_HIT_RULE)
  let f1 := f.wakeHeld.foldl (fun (g : FDie) (m : BarMsg) => g.toHost { m with m2 := hit }) { f with wakeHeld := [] }
  let f3 := f1.sendHeld
  if f3.stage == 0 then f3.imgSay 5 0 else { f3 with stage := 3, rom := [], romSeq := 0 }.imgSay 1 0

/-- The field die's end of the link is up; FTM_LAT shows the latency that it measures (R244). -/
def FDie.linkUpF (f : FDie) (lat : Nat) : FDie :=
  let f1 := f.wr Reg.FTM_LAT_LAT lat
  { f1 with linkUp := true, bar := BarEnd.start, waits := [], imgRx := [], outs := f1.outs.filter fun x => x.1 != 259, tb := { f1.tb with first := true } }.linkTalk

/-- The field die can train the link: it has its supply and its clock. -/
def FDie.canTrain (f : FDie) : Bool := f.stage == 2 || f.stage == 3 || (f.stage == 0 && f.rd Reg.FGL_PWRSTAT_STATE != 2)

/-- The field die loses the link (R17): its fault is kept, and a download is dropped (R419). -/
def FDie.linkLost (f : FDie) : FDie :=
  if f.linkUp then
    (({ f with linkUp := false, bar := BarEnd.clear, waits := [], rom := [], romSeq := 0 }.bqClear 288).bqClear 289).outOf 259 0 0x19 0 true
  else f

/-- BARRIER_LINK_UP (R437). A field die that has not yet declared the loss that a chip reset of the host die is to it does so first (R435). -/
def linkUp_ (lat : Nat) (s : State) : State :=
  if s.h.on Reg.BAR_STAT_UP || !s.f.canTrain then s
  else
    let f0 := s.f.linkLost
    let h1 := s.h.linkUp
    let f1 := (f0.wr Reg.MEM_CFG_SCRUB_MS (h1.rd Reg.MEM_CFG_SCRUB_MS)).wr Reg.MEM_CFG_CE_WIN_MS (h1.rd Reg.MEM_CFG_CE_WIN_MS)
    { s with h := h1, f := { f1 with plan := h1.fieldPlan }.linkUpF lat, link := { toF := [], toH := [] } }

def execBarrierLinkUp (lat : BitVec 16) (s : State) : Host.Outcome State Fault Refusal := onHost (linkUp_ lat.toNat) s

/-- The host die loses the link (R17, R226): counted and reported; after an ordered sleep it is no loss (R321). -/
def HDie.linkLost (h : HDie) : HDie :=
  if !h.on Reg.BAR_STAT_UP then h
  else
    let h1 := ((h.wr Reg.BAR_STAT_UP 0).wr Reg.BAR_STAT_CH_LOCK 0).barrierGone
    if h1.on Reg.BAR_FSTAT_ASLEEP then h1 else ((h1.raise Reg.BAR_EVT_LOST).bump Reg.BAR_LOSTCNT_COUNT).outOf 15 0 0x19 0 true

/-- The ends of the barrier link that hear no valid block for 10 µs declare its loss, each for itself (R17): what was on its way to such an end is lost. -/
def linkLost_ (hEnd fEnd : Bool) (s : State) : State :=
  { s with
    f := if fEnd then s.f.linkLost else s.f
    h := if hEnd && !s.h.boot.inReset then s.h.linkLost else s.h
    link := { toF := if fEnd then [] else s.link.toF, toH := if hEnd then [] else s.link.toH } }

/-- FIELD_POWER_ON (R432): FVSUP has stayed at or above 8.5 V for 2 ms. -/
def execFieldPowerOn (s : State) : Host.Outcome State Fault Refusal :=
  .next { s with f := if s.f.stage == 4 then s.f.powerOn else s.f }

/-! ### Joining (R442 to R446) -/

/-- NUM of a join frame (Table 20.3). -/
def jNum (f : Frame) : Nat := fieldOf (beWord f.payload 0) 16 7
/-- JSEQ. -/
def jSeq (f : Frame) : Nat := fieldOf (beWord f.payload 0) 0 16
/-- The sender's UID. -/
def jUid (f : Frame) : Nat := beNat (slice f.payload 4 8)
/-- TUID. -/
def jTuid (f : Frame) : Nat := beNat (slice f.payload 12 8)

/-- GLB_HUBREQ acts: a hub that knows its number claims it, one that was refused claims again (R444). -/
def HDie.claimAsked (h : HDie) : HDie :=
  (if h.rd Reg.GLB_JOIN_STATE == 3 && h.rd Reg.GLB_HUBREQ_NUM < 120 then h.wr Reg.GLB_JOIN_STATE 0 else h).claimStart

/-- HUB_NUMBER_REQUEST (R10, R442, R444): GLB_HUBREQ is written, and holds what was written last; ignored while the strap names a number and once the hub is
numbered, and while a claim runs until that ends (Table 20.5). -/
def HDie.hubReq (h : HDie) (v : Nat) : HDie :=
  let h1 := h.wr Reg.GLB_HUBREQ_NUM (v % 128)
  if h.rd Reg.GLB_HUBNUM_STRAP < 120 || h.hubNum != 0x7F then h1
  else if h.rd Reg.GLB_JOIN_STATE == 1 then { h1 with boot.reqWaits := true }
  else h1.claimAsked

def execHubNumberRequest (v : Word) (s : State) : Host.Outcome State Fault Refusal := onH (fun h => h.hubReq v.toNat) s

/-- CLAIM_RESEND (R444): 1 ms after the CLAIM before, up to three. -/
def HDie.claimAgain (h : HDie) : HDie :=
  let n := h.boot.claims
  if h.rd Reg.GLB_JOIN_STATE == 1 && 1 ≤ n && n ≤ 2 then
    let h1 := (h.advance (h.boot.claimAt + ofMs n)).sendJoin 0x10 h.wantNum 0
    { h1 with boot.claims := n + 1 }
  else h

def execClaimResend (s : State) : Host.Outcome State Fault Refusal := onH (fun h => h.claimAgain) s

/-- CLAIM_TIMEOUT (R38, R444): 4 ms after the first CLAIM without an objection the hub is numbered and sends JOINED. -/
def HDie.claimWon (h : HDie) : HDie :=
  if h.rd Reg.GLB_JOIN_STATE == 1 && 1 ≤ h.boot.claims then
    let n := h.wantNum
    let h1 := ((((h.advance (h.boot.claimAt + ofMs 4)).wr Reg.GLB_HUBNUM_NUM n).wr Reg.GLB_JOIN_STATE 2).raise Reg.GLB_EVT_NUMBERED).addMember n
    (({ h1 with boot.claims := 0, boot.reqWaits := false }.sendJoin 0x12 n 0).ringUpdate.leadEval).showLaunch
  else h

def execClaimTimeout (s : State) : Host.Outcome State Fault Refusal := onH (fun h => h.claimWon) s

/-- The claim fails (R444); a GLB_HUBREQ written while it ran acts now (Table 20.5, log 184). -/
def HDie.claimFails (h : HDie) : HDie :=
  let h1 := { (h.wr Reg.GLB_JOIN_STATE 3).raise Reg.GLB_EVT_DUP_NUM with boot.claims := 0, boot.reqWaits := false }
  if h.boot.reqWaits then h1.claimAsked else h1

/-- The join agent takes a join frame once (R443): one whose UID and JSEQ it has acted on, or its own, has no effect (log 68). -/
def HDie.joinOnce (h : HDie) (f : Frame) (g : HDie → HDie) : HDie :=
  let h1 := h.takeInbox f
  let k := (jUid f, jSeq f)
  if jUid f == h1.rd Reg.GLB_UID_UID || h1.boot.seenJoin.contains k || f.payload.length != 20 then h1
  else
    let mine := (k :: h1.boot.seenJoin.filter fun e => e.1 == k.1).take 4
    g { h1 with boot.seenJoin := mine ++ h1.boot.seenJoin.filter fun e => e.1 != k.1 }

/-- A CLAIM (R444): a numbered hub objects to one for its own number; a lower UID ends a claim for the same number. A hub that claims has left the
number it was recorded under (log 69). -/
def HDie.claimIn (h : HDie) (f : Frame) : HDie :=
  let n := jNum f
  let u := jUid f
  let h1 := { h with boot.uids := h.boot.uids.filter fun e => e.2 != u }
  if h1.numbered && n == h1.hubNum then h1.sendJoin 0x11 n u
  else if h1.rd Reg.GLB_JOIN_STATE == 1 && n == h1.wantNum && u < h1.rd Reg.GLB_UID_UID then h1.claimFails
  else h1

def execClaimReceived (f : Frame) (s : State) : Host.Outcome State Fault Refusal := onH (fun h => h.joinOnce f fun g => g.claimIn f) s

/-- An OBJECT that names the hub's UID ends its claim (R444). -/
def HDie.objectIn (h : HDie) (f : Frame) : HDie :=
  if h.rd Reg.GLB_JOIN_STATE == 1 && jTuid f == h.rd Reg.GLB_UID_UID then h.claimFails else h

def execObjectReceived (f : Frame) (s : State) : Host.Outcome State Fault Refusal := onH (fun h => h.joinOnce f fun g => g.objectIn f) s

/-- A JOINED (R145, R213, R445, R446): the number is a member; with a UID other than the one last recorded its records are freed. For the hub's own number
it is a duplicate, and the higher UID enters CONFLICT. -/
def HDie.joinedIn (h : HDie) (f : Frame) : HDie :=
  let n := jNum f
  let u := jUid f
  if 120 ≤ n then h
  else if n == h.hubNum then
    let h1 := h.raise Reg.GLB_EVT_DUP_NUM
    if u < h1.rd Reg.GLB_UID_UID && h1.numbered then (h1.wr Reg.GLB_JOIN_STATE 4).leadEval else h1
  else
    let h1 := (h.addMember n).ringUpdate
    if aget h1.boot.uids n u == u && ahas h1.boot.uids n then h1
    else
      { h1.forget n with boot.uids := aput h1.boot.uids n u, brg.orders := h1.brg.orders.filter fun (o : OrdRec) => o.src != n }.showOrd

def execJoinedReceived (f : Frame) (s : State) : Host.Outcome State Fault Refusal := onH (fun h => h.joinOnce f fun g => g.joinedIn f) s

/-- JOINED_PERIOD (R445, R446): a hub with a number repeats its JOINED every 1 s. -/
def execJoinedPeriod (s : State) : Host.Outcome State Fault Refusal :=
  onH (fun h => if h.hubNum == 0x7F then h else h.sendJoin 0x12 h.hubNum 0) s

end Sys2Proof.Machine
end

