-- ==== Sys2Proof/Machine/Rest.lean ====
section
/-! DEFINITION. Rest (R28 to R31): the request with its refusals, entry and exit. -/
namespace Sys2Proof.Machine

/-- A plan gives the hub a non-empty input or output image. -/
def HDie.planBusy (h : HDie) (p : Option Plan) : Bool :=
  match p with
  | none => false
  | some x => h.numbered && (x.ins.getD h.hubNum 0 != 0 || (x.outs.getD h.hubNum (0, 0)).1 != 0)

/-- Why a request for Rest is refused (R28, Table 1.5): the code of PWM_REST.REFUSE, 0 for none. Of several reasons the first of EXITING, PLAN, QUEUE, UPDATE,
HA, SPUR is shown, and a queue counts while it is enabled (log 145). -/
def HDie.restRefusal (h : HDie) : Nat :=
  if h.rd Reg.PWM_REST_STATE == 3 then 6
  else if h.planBusy h.sw.inForce || h.planBusy h.sw.admitted then 1
  else if (upto 64).any (fun q => h.on (Reg.PCI_SQCFG_EN q) && h.sqAvail q != 0) then 2
  else if h.fwu != 0 then 3
  else if !h.spl.reqs.isEmpty then 4
  else if (upto 4).any (fun s => h.on (Reg.SPU_CFG_EN s)) then 7
  else 0

/-- PWM_REST.REQ is written 1 (R10, R28): refused with a reason, or entry begins. In Rest, or while it is being entered, nothing else changes. -/
def HDie.restRequest (h : HDie) : HDie :=
  let h1 := h.wr Reg.PWM_REST_REQ 1
  if h.rd Reg.PWM_REST_STATE == 1 || h.rd Reg.PWM_REST_STATE == 2 then h1
  else
    let r := h.restRefusal
    if r != 0 then h1.wr Reg.PWM_REST_REFUSE r
    else (h1.wr Reg.PWM_REST_REFUSE 0).wr Reg.PWM_REST_STATE 1

def execRestRequest (s : State) : Host.Outcome State Fault Refusal := onHost (fun x => { x with h := x.h.restRequest }) s

/-- PWM_REST.REQ is written 0 (R30): the exit begins; an entry not yet complete is abandoned, and REFUSE stays as it is (log 88). -/
def HDie.restLeave (h : HDie) : HDie :=
  let h1 := h.wr Reg.PWM_REST_REQ 0
  match h.rd Reg.PWM_REST_STATE with
  | 1 => h1.wr Reg.PWM_REST_STATE 0
  | 2 => h1.wr Reg.PWM_REST_STATE 3
  | _ => h1

def execRestExitRequest (s : State) : Host.Outcome State Fault Refusal := onHost (fun x => { x with h := x.h.restLeave }) s

/-- Rest entry is complete (R29): counted; the management core's clock stops, and its functions follow it; the PCIe link is in L1.2, and the spur
lanes are powered down. -/
def HDie.restEntered (h : HDie) : HDie :=
  if h.rd Reg.PWM_REST_STATE == 1 then
    let h1 := (h.wr Reg.PWM_REST_STATE 2).bump Reg.PWM_RESTCNT_COUNT
    { h1 with hostq.l12 := h.pcieUp, spurs := h.spurs.map fun x => { x with lane := false } }
  else h

def execRestEntryComplete (s : State) : Host.Outcome State Fault Refusal := onHost (fun x => { x with h := x.h.restEntered }) s

/-- REST_EXIT_COMPLETE (R30): every unit runs again; the PCIe link exits L1.2, and the lanes of the spurs that are enabled are powered. -/
def HDie.restLeft (h : HDie) : HDie :=
  if h.rd Reg.PWM_REST_STATE == 3 then
    { h.wr Reg.PWM_REST_STATE 0 with
      hostq.l12 := false
      spurs := (indexed h.spurs).map fun e => { e.2 with lane := h.on (Reg.SPU_CFG_EN e.1) } }
  else h

def execRestExitComplete (s : State) : Host.Outcome State Fault Refusal := onHost (fun x => { x with h := x.h.restLeft }) s

end Sys2Proof.Machine
end

