-- ==== Sys2Proof/Machine/RegOps.lean ====
section
/-! DEFINITION. Registers as software reads and writes them (R10, R11, R48, R55, R56): what every register does, and, block by block, what those of the
host die do beside it. -/
namespace Sys2Proof.Machine

/-! ### Every register (R56) -/

/-- The 64-bit field of a pair, by the address of its low word. -/
def pairAt (a : Nat) : Option (Fld × Acc) := (fieldsAt a).find? fun f => f.1.width == 64

/-- What a read returns of a register file, and what it leaves: RC fields clear; the low word of a pair captures the high word, which the next read of the
high word returns. No register reads 0 (R48). -/
def plainRead (regs : Regs) (cap : List (Nat × Nat)) (a : Nat) : Nat × Regs × List (Nat × Nat) :=
  match pairAt a with
  | some f => let v := regGet regs f.1; (v % 2 ^ 32, regs, aput cap (a + 4) (v / 2 ^ 32))
  | none =>
    match pairAt (a - 4) with
    | some f =>
      if ahas cap a then (aget cap a 0, regs, adel cap a) else (regGet regs f.1 / 2 ^ 32, regs, cap)
    | none => (((fieldsAt a).map (fieldRead regs)).sum, (fieldsAt a).foldl fieldAfterRead regs, cap)

/-- Software may write a field now (R10, R55). -/
def maySet (locked : Bool) (c : Acc) : Bool :=
  match c with
  | .rw => true
  | .rwl => !locked
  | _ => false

/-- What a write leaves of a register file: its fields by their access codes; the high word of a pair is held, and the low word commits the pair. -/
def plainWrite (regs : Regs) (hold : List (Nat × Nat)) (a v : Nat) : Regs × List (Nat × Nat) :=
  let lk := regGet regs (lockAt a) != 0
  match pairAt a with
  | some f =>
    if maySet lk f.2 then (regPut regs f.1 (v % 2 ^ 32 + aget hold (a + 4) (regGet regs f.1 / 2 ^ 32) % 2 ^ 32 * 2 ^ 32), adel hold (a + 4))
    else (regs, hold)
  | none =>
    match pairAt (a - 4) with
    | some f => if maySet lk f.2 then (regs, aput hold a (v % 2 ^ 32)) else (regs, hold)
    | none => ((fieldsAt a).foldl (fieldWrite lk v) regs, hold)

/-- A register of the host die is read. -/
def HDie.plainRead (h : HDie) (a : Nat) : Nat × HDie :=
  let r := Machine.plainRead h.regs h.hiCap a
  (r.1, { h with regs := r.2.1, hiCap := r.2.2 })

/-- A register of the host die is written. -/
def HDie.plainWrite (h : HDie) (a v : Nat) : HDie :=
  let r := Machine.plainWrite h.regs h.hiHold a v
  { h with regs := r.1, hiHold := r.2 }

/-- A register of the field die is read. -/
def FDie.plainRead (f : FDie) (a : Nat) : Nat × FDie :=
  let r := Machine.plainRead f.regs f.hiCap a
  (r.1, { f with regs := r.2.1, hiCap := r.2.2 })

/-- A register of the field die is written. -/
def FDie.plainWrite (f : FDie) (a v : Nat) : FDie :=
  let r := Machine.plainWrite f.regs f.hiHold a v
  { f with regs := r.1, hiHold := r.2 }

/-! ### Writes to the host die's blocks -/

/-- PCI (R59, R60): CFG registers enable queues; a base does not change while EN is 1. -/
def HDie.pciWrite (h : HDie) (a v : Nat) : HDie :=
  let q := a % 0x1000 / 32
  let o := a % 32
  if !h.hostAttached then
    if a == 0x20108 || (o == 8 && ((0x21000 ≤ a && a < 0x21800) || (0x22000 ≤ a && a < 0x22800))) then h.queueCfg 2 0 v
    else if a == 0x20004 || 0x2FF00 ≤ a then h.plainWrite a v
    else h
  else if a == 0x20108 then h.queueCfg 2 0 v
  else if a == 0x20100 || a == 0x20104 then (if h.on Reg.PCI_EQCFG_EN then h else h.plainWrite a v)
  else if 0x21000 ≤ a && a < 0x21800 then
    if o == 8 then h.queueCfg 0 q v else if o < 8 && h.on (Reg.PCI_SQCFG_EN q) then h else h.plainWrite a v
  else if 0x22000 ≤ a && a < 0x22800 then
    if o == 8 then h.queueCfg 1 q v else if o < 8 && h.on (Reg.PCI_CQCFG_EN q) then h else h.plainWrite a v
  else h.plainWrite a v

/-- Transmitter taps within R103. -/
def tapWordOk (v : Nat) : Bool := tapsOk (fieldOf v 0 4) (fieldOf v 8 6) (fieldOf v 16 5)

/-- RNG_PCFG_p (R108, R112, R127). -/
def HDie.portCfg (h0 : HDie) (p v : Nat) : HDie :=
  let h := if bitOf v 2 then h0 else h0.setPort p { h0.port p with fbOff := true }
  let h1 := (((h.wr (Reg.RNG_PCFG_FEC p) (fieldOf v 1 1)).wr (Reg.RNG_PCFG_FALLBACK_EN p) (fieldOf v 2 1)).wr (Reg.RNG_PCFG_TRAIN_TMO p)
    (fieldOf v 8 8)).wr (Reg.RNG_PCFG_FAULT_HOLD p) (fieldOf v 16 8)
  let prbs := bitOf v 3
  let lpbk := fieldOf v 4 2
  let h2 := if prbs != h.on (Reg.RNG_PCFG_PRBS_MODE p) || lpbk != h.rd (Reg.RNG_PCFG_LPBK p) then h1.portTest p prbs lpbk else h1
  if bitOf v 0 != h.on (Reg.RNG_PCFG_EN p) then h2.portEnable p (bitOf v 0) else h2

/-- PSTAT.LF shows FORCE_LF as it is set or cleared: 1 while it, or the local condition that caused a FAULT, is present (Table 4.12). -/
def HDie.showLf (h : HDie) (p : Nat) : HDie :=
  let cause := h.rd (Reg.RNG_PSTAT_CAUSE p)
  h.wr (Reg.RNG_PSTAT_LF p) (b2n (h.on (Reg.RNG_INJ_FORCE_LF p) || (h.pst p == 7 && 2 ≤ cause && cause ≤ 6)))

/-- RNG_INJ_p (R126): HCRC, CRC and SYNC of the next frame or block; FORCE_LF holds a local fault. -/
def HDie.portInject (h : HDie) (p v : Nat) : HDie :=
  let c := h.port p
  let h1 := h.setPort p { c with injHcrc := c.injHcrc || bitOf v 0, injCrc := c.injCrc || bitOf v 1 }
  let h2 := h1.wr (Reg.RNG_INJ_FORCE_LF p) (fieldOf v 8 1)
  let h3 := if bitOf v 2 then h2.hitBlock p else h2
  let h4 := if bitOf v 8 then h3.localFault p 0 5 else h3
  h4.showLf p

/-- While TAPMAN is 1, a lane has the manual taps. -/
def HDie.manualTaps (h : HDie) (p l : Nat) : HDie :=
  if h.on (Reg.RNG_LCFG_TAPMAN p l) then
    ((h.wr (Reg.RNG_LTAP_PRE p l) (h.rd (Reg.RNG_LTAPM_PRE p l))).wr (Reg.RNG_LTAP_MAIN p l) (h.rd (Reg.RNG_LTAPM_MAIN p l))).wr
      (Reg.RNG_LTAP_POST p l) (h.rd (Reg.RNG_LTAPM_POST p l))
  else h

/-- RNG (R103, R108, R125, R126, R127). A write of CHK leaves PRBSLOCK as it is (log 185). -/
def HDie.rngWrite (h : HDie) (a v : Nat) : HDie :=
  let p := (a - 0x30000) / 0x1000
  let o := a % 0x1000
  let l := (o - 0x400) / 0x40
  if 1 < p then h.plainWrite a v
  else if o == 0 then h.portCfg p v
  else if o == 0xC then (if bitOf v 0 then h.retrain p else h)
  else if o == 0x50 then h.portInject p v
  else if 0x400 ≤ o && o < 0x480 then
    match o % 0x40 with
    | 0x00 => (h.plainWrite a v).manualTaps p l
    | 0x08 => if tapWordOk v then (h.plainWrite a v).manualTaps p l else h
    | 0x14 =>
      let h1 := h.wr (Reg.RNG_LINJ_RATE p l) (fieldOf v 1 4)
      if bitOf v 0 then h1.hitBlock p else h1
    | _ => h.plainWrite a v
  else h.plainWrite a v

/-- RED (R153, R159, R163). -/
def HDie.redWrite (h : HDie) (a v : Nat) : HDie :=
  if a == 0x40040 then
    if bitOf v 31 then h.streamLookup (fieldOf v 0 7) (fieldOf v 8 12) else h.plainWrite a v
  else if a == 0x40100 then h.leadCfg v
  else if a == 0x40110 then (if bitOf v 0 then h.handover (fieldOf v 8 7) else h)
  else h.plainWrite a v

/-- SWC (R168, R173, R179, R187). -/
def HDie.swcWrite (h : HDie) (a v : Nat) : HDie :=
  if a == 0x50000 then h.bufferCfg none v
  else if a == 0x50064 then h.planeEnable (v % 16)
  else if 0x50080 ≤ a && a < 0x500A8 then h.holdWrite ((a - 0x50080) / 4) v
  else if a == 0x50110 then (if bitOf v 0 then h.planAdmit else h)
  else if 0x51000 ≤ a && a < 0x52400 && a % 0x40 == 0 then h.bufferCfg (some ((a - 0x51000) / 0x40)) v
  else h.plainWrite a v

/-- SPU (R103, R134). -/
def HDie.spuWrite (h : HDie) (a v : Nat) : HDie :=
  let s := (a - 0x60000) / 0x1000
  match a % 0x1000 with
  | 0x00 => if s < 4 then h.spurCfg s v else h.plainWrite a v
  | 0x3C =>
    if s < 4 then
      let h1 := h.wr (Reg.SPU_INJ_RATE s) (fieldOf v 1 4)
      let h2 := if bitOf v 0 then h1.hitSpur s else h1
      let c := h2.spur s
      { h2 with spurs := h2.spurs.set s { c with injFcs := c.injFcs || bitOf v 5 } }
    else h
  | 0x40 => if tapWordOk v then h.plainWrite a v else h
  | _ => h.plainWrite a v

/-- TIM (R231, R233, R234): STEP and SET together are refused; the epoch does not change while TIM_CYCLE.EN is 1. -/
def HDie.timWrite (h : HDie) (a v : Nat) : HDie :=
  if a == 0x70010 then h.incWrite v
  else if a == 0x70014 then { h with hiHold := aput h.hiHold 0x70014 (v % 256) }
  else if a == 0x70034 then
    if bitOf v 0 && bitOf v 1 then h.raise Reg.TIM_EVT_CFG_REFUSED
    else if bitOf v 0 then h.moveTime ((h.tb.now : Int) + h.stepSize) (bitOf v 2)
    else if bitOf v 1 then h.moveTime (h.setTime : Int) (bitOf v 2)
    else h
  else if a == 0x70040 then h.cycleCfg v
  else if a == 0x70044 || a == 0x70048 || a == 0x7004C then (if h.on Reg.TIM_CYCLE_EN then h else h.plainWrite a v)
  else h.plainWrite a v

/-- A BRG_VEP_v write that R45 refuses: EN set together with a TARGET or SEL outside the range of its KIND; the reserved endpoints 12 to 15 lie inside that of ALIAS
(log 147). -/
def vepBad (v : Nat) : Bool :=
  let tgt := fieldOf v 14 10
  let sel := fieldOf v 0 7
  bitOf v 31 &&
  match fieldOf v 28 3 with
  | 0 => tgt == 0 || 423 < tgt || sel != 0
  | 1 => tgt < 144 || 159 < tgt
  | 2 => tgt < 16 || 143 < tgt || sel == 0 || 8 < sel || 8 < (tgt - 16) % 8 + sel
  | _ => false

/-- A BRG_VEP_v write that R45 refuses: by its range, or because the target unit is absent on the variant. -/
def HDie.vepRefused (h : HDie) (w : Nat) : Bool := vepBad w || (bitOf w 31 && lacksEp h.variant (fieldOf w 14 10))

/-- A BRG_WIN_n or BRG_VEP_v register is written: four bytes of its word (R362). -/
def HDie.tableWrite (h : HDie) (a v : Nat) : HDie :=
  match bridgeWord a with
  | some w => (h.memRun (h.mem.narrow 52 w.1 (15 * 2 ^ w.2))).plainWrite a v
  | none => h.plainWrite a v

/-- BRG_VEP_v is written (R44, R45). -/
def HDie.vepWrite (h : HDie) (v w : Nat) : HDie := if h.vepRefused w then h.raise Reg.BRG_STATUS_VEP_REFUSED else h.tableWrite (0x82000 + 4 * v) w

/-- BRG_WIN_n is written (R51, R53). -/
def HDie.winWrite (h : HDie) (n w : Nat) : HDie := h.tableWrite (0x81000 + 4 * n) w

/-- BRG (R45, R53). -/
def HDie.brgWrite (h : HDie) (a v : Nat) : HDie :=
  if 0x82000 ≤ a && a < 0x82940 then h.vepWrite ((a - 0x82000) / 4) v else h.tableWrite a v

/-- A reaction set without BLOCK_RESET where the domain cannot be reset (R372): bits `lsb` + 2 cleared. -/
def noBlockReset (dom lsb v : Nat) : Nat := if resetUs dom = 0 && bitOf v (lsb + 2) then v - 2 ^ (lsb + 2) else v

/-- FLT, but for the registers that reach beyond the host die (R372, R376, R381). -/
def HDie.fltWrite (h : HDie) (a v : Nat) : HDie :=
  let s := (a - 0xA1000) / 16
  let dom := h.rd (Reg.FLT_SCFG_DOM s)
  if a == 0xA0040 then (if bitOf v 1 then (h.wr Reg.FLT_FECSTAT_VALID 0).wr Reg.FLT_FECSTAT_LATER 0 else h)
  else if 0xA1000 ≤ a && a < 0xA4000 then
    match a % 16 with
    | 0 => h.plainWrite a (noBlockReset dom 8 v)
    | 4 => h.plainWrite a (noBlockReset dom 0 (noBlockReset dom 8 v))
    | _ => h.plainWrite a v
  else h.plainWrite a v

/-- FWU_CMD (R411 to R416): 1 START, 2 PROGRAM, 3 CHECK, 4 ACTIVATE, 5 CONFIRM, 6 ABORT; the pins are as they were last seen. -/
def HDie.fwuCmd (h : HDie) (core : Bool) (v : Nat) : HDie :=
  match fieldOf v 0 4 with
  | 1 => h.fwuStart (fieldOf v 4 4)
  | 2 => h.fwuProgram
  | 3 => h.fwuCheck
  | 4 => h.fwuActivate
  | 5 => h.fwuConfirm core
  | 6 => h.fwuAbort
  | _ => h

/-- FWU (R412 to R414): OWNER counts whose hub writes; software's writes to FWU_RINGMOT are ignored, and the hub's own (master 0xFF) are not (R413). -/
def HDie.fwuWrite (h : HDie) (from_ master a v : Nat) : HDie :=
  match a with
  | 0xC0004 => h.fwuCmd (master == 0x41 && from_ == h.self) v
  | 0xC0028 => h.ownerWrite from_ v
  | 0xC002C => h.motionCfg v
  | 0xC0030 => if master == 0xFF then h.ringMotion (v % 2) else h
  | _ => h.plainWrite a v

/-- PWM_REST (R28, R30). -/
def HDie.pwmWrite (h : HDie) (a v : Nat) : HDie :=
  if a == 0xD0000 then (if bitOf v 0 then h.restRequest else h.restLeave) else h.plainWrite a v

/-- A register of the host die is written, where the write's effect stays on the host die. `from_`: the hub that writes. One of a unit that the variant
lacks ignores it (R3). -/
def HDie.regWrite (h : HDie) (from_ master a v : Nat) : HDie :=
  if lacksReg h.variant a then h
  else
  match a / 0x10000 with
  | 0x0 => if a == 0xC then h.hubReq v else if a == 0x20 then h.readyWrite v else h.plainWrite a v
  | 0x1 => if 0x10100 ≤ a && a < 0x10200 && a % 16 == 0 then h.fnConfig ((a - 0x10100) / 16) v else h.plainWrite a v
  | 0x2 => h.pciWrite a v
  | 0x3 => h.rngWrite a v
  | 0x4 => h.redWrite a v
  | 0x5 => h.swcWrite a v
  | 0x6 => h.spuWrite a v
  | 0x7 => h.timWrite a v
  | 0x8 => h.brgWrite a v
  | 0xA => h.fltWrite a v
  | 0xB => if a == 0xB0008 then (if bitOf v 0 then h.saveAt (h.on Reg.FWU_STAT_HOLDUP_LOW) else h) else h.plainWrite a v
  | 0xC => h.fwuWrite from_ master a v
  | 0xD => h.pwmWrite a v
  | _ => h.plainWrite a v

/-! ### MEM: instances of both dies (chapter 15) -/

/-- The instance whose registers an address of MEM names. -/
def memInst (a : Nat) : Option Nat := if 0x91000 ≤ a && a < 0x95000 then some ((a - 0x91000) / 0x40) else none

/-- A register of MEM is written: MEM_CFG acts on both dies; an instance's registers stand on the die that holds it (log 61). -/
def memWrite (a v : Nat) (s : State) : State :=
  match memInst a with
  | some i =>
    let o := (a - 0x91000) % 0x40
    if o == 0x18 then onMem i (fun m => (m.injWrite i v, false)) s
    else if 0x20 ≤ o then onMem i (fun m => (m.remapWrite i ((o - 0x20) / 4) v, false)) s
    else if i < 64 then { s with h := s.h.plainWrite a v }
    else { s with f := s.f.plainWrite a v }
  | none =>
    if a == 0x9000C then (if bitOf v 0 then memFlush s else s)
    else if a == 0x90000 then { s with h := s.h.plainWrite a v, f := s.f.plainWrite a v }
    else { s with h := s.h.plainWrite a v }

/-! ### The whole host die -/

/-- A register of the host die is written, by hub `from_` with a master. -/
def hostWrite (from_ master a v : Nat) (s : State) : State :=
  if a == 0x1C then glbReset v s
  else if a == 0xA0018 then blockCommand v s
  else if a == 0xA0060 then inject v s
  else if 0xA1000 ≤ a && a < 0xA4000 && a % 16 == 8 then (if bitOf v 0 then pendClear ((a - 0xA1000) / 16) s else s)
  else if a == 0xE0030 then (if bitOf v 0 then fwake s else s)
  else if a / 0x10000 == 9 then memWrite a v s
  else { s with h := s.h.regWrite from_ master a v }

/-- A word of the stream table as RED_STE, RED_STHI and RED_STWIN show it (R163): read from its memory, all ones and DATA_ERROR where that is
uncorrectable (R361). -/
def HDie.steRead (h : HDie) (master access a : Nat) : Nat × Nat × HDie :=
  let i := (a - 0x43000) / 16
  let r := h.readEntry master access i
  let h1 := r.1
  let e := h1.red.table.find? fun x => x.idx == i
  if r.2 then (7, 2 ^ 32 - 1, h1)
  else
    match a % 16, e with
    | 0, some x => (0, 1 + x.src * 2 + x.stream * 2 ^ 8 + x.path * 2 ^ 20, h1)
    | 4, some x => (0, x.high + min 0xFFFF ((h1.tb.now - x.last) / ofMs 1) * 2 ^ 16, h1)
    | 8, some x => (0, x.window % 2 ^ 32, { h1 with hiCap := aput h1.hiCap (a + 4) (x.window / 2 ^ 32) })
    | 12, some x => if ahas h1.hiCap a then (0, aget h1.hiCap a 0, { h1 with hiCap := adel h1.hiCap a }) else (0, x.window / 2 ^ 32, h1)
    | 8, none => (0, 0, { h1 with hiCap := aput h1.hiCap (a + 4) 0 })
    | 12, none => (0, aget h1.hiCap a 0, { h1 with hiCap := adel h1.hiCap a })
    | _, _ => (0, 0, h1)

/-- A register of the host die is read, where only the host die takes part, by a master with an access type (R202, R203): its status, its value and what
it leaves. One of a unit that the variant lacks reads 0 (R3). A BAR4 window or a virtual endpoint is read from its memory (Table 15.2). -/
def HDie.regRead (h : HDie) (master access a : Nat) : Nat × Nat × HDie :=
  if lacksReg h.variant a then (0, 0, h)
  else if a == 0x70000 then let r := h.capture.plainRead a; (0, r.1, r.2)
  else if 0x70200 ≤ a && a < 0x70300 then
    let s := (a - 0x70200) / 0x40
    match a % 0x40 with
    | 0x10 => let r := (h.ptpId s false).plainRead a; (0, r.1, r.2)
    | 0x20 => let r := (h.ptpId s true).plainRead a; (0, r.1, r.2)
    | 0x1C => let r := h.plainRead a; (0, r.1, r.2.ptpSh s false)
    | 0x2C => let r := h.plainRead a; (0, r.1, r.2.ptpSh s true)
    | _ => let r := h.plainRead a; (0, r.1, r.2)
  else if 0x43000 ≤ a && a < 0x4F000 then h.steRead master access a
  else
    match bridgeWord a with
    | some w =>
      let q := h.readWords master access 52 w.1 1
      if q.2 then (7, 2 ^ 32 - 1, q.1) else let r := q.1.plainRead a; (0, r.1, r.2)
    | none => let r := h.plainRead a; (0, r.1, r.2)

/-- A register of the host die is read (R384, R386: FLT_STAT and FLT_SSTAT_s.ACTIVE show what is so now). -/
def hostRead (master access a : Nat) (s : State) : Nat × Nat × State :=
  if a == 0xA0008 then
    let r := s.h.plainRead a
    (0, b2n s.h.anyPend + 2 * b2n s.h.errorN + 4 * s.h.rd Reg.FLT_GRAVE_VALID + r.1 / 8 * 8, { s with h := r.2 })
  else if 0xA1000 ≤ a && a < 0xA4000 && a % 16 == 8 then
    let r := s.h.plainRead a
    (0, r.1 + 2 * b2n (faultActive s ((a - 0xA1000) / 16)), { s with h := r.2 })
  else if ((memInst a).getD 0) ≥ 64 then
    let r := s.f.plainRead a
    (0, r.1, { s with f := r.2 })
  else
    let r := s.h.regRead master access a
    (r.1, r.2.1, { s with h := r.2.2 })

end Sys2Proof.Machine
end

