-- ==== Sys2Proof/Machine/RegField.lean ====
section
/-! DEFINITION. Registers of the field die as the hub reads and writes them: what those of each block do beside R56. -/
namespace Sys2Proof.Machine

/-! ### Writes -/

/-- FGL (R194, R320): REQ 1 is STANDBY, 2 SLEEP, which takes effect once the write has been answered, and 0 and 3 are RUN. -/
def FDie.fglWrite (f : FDie) (a v : Nat) : FDie :=
  if a == 0x800100 then
    match v % 4 with
    | 1 => if f.rd Reg.FGL_PWRSTAT_STATE ≤ 1 then f.standby else f
    | 2 =>
      let r := f.pwrRefuse 2
      if f.rd Reg.FGL_PWRSTAT_STATE < 2 && r != 0 then f.wr Reg.FGL_PWRSTAT_REFUSE r else f
    | _ => if f.rd Reg.FGL_PWRSTAT_STATE == 1 then f.wr Reg.FGL_PWRSTAT_STATE 0 else f
  else if 0x800400 ≤ a && a < 0x800440 && a % 16 == 0 then f.fifoCfg (288 + (a - 0x800400) / 16) v
  else f.plainWrite a v

/-- A cluster's registers of MAR, at offset 0x800 of the cluster (R252, R263, R290, R291). -/
def FDie.clusterWrite (f : FDie) (c o a v : Nat) : FDie :=
  match o with
  | 0x800 =>
    let f1 := if bitOf v 8 then f.swapWrite c else f
    if bitOf v 9 then f1.forceWrite c else f1
  | 0x804 => f.clusterEnable c (v % 256)
  | 0x80C => f.softStrings (2 + c) v 0 true
  | 0x810 => f.softStrings (2 + c) v 0 false
  | _ => f.plainWrite a v

/-- An engine's registers (R194, R253, R268). -/
def FDie.engineWrite (f : FDie) (n o a v : Nat) : FDie :=
  match o with
  | 0x04 => f.pinWindow n v
  | 0x40 => f.fifoCfg n v
  | 0x50 => f.fifoCfg (128 + n) v
  | 0x64 => f.imageSlice n false v
  | 0x68 => f.imageSlice n true v
  | _ => f.plainWrite a v

/-- MAR. A word of an active instruction bank whose cluster runs is not written: ACCESS_FAULT (R290). -/
def FDie.marWrite (f : FDie) (a v : Nat) : Nat × FDie :=
  if a < 0x820000 then
    let c := (a - 0x810000) / 0x1000
    let o := a % 0x1000
    (0, if o < 0x400 then f.engineWrite (8 * c + o / 0x80) (o % 0x80) a v else f.clusterWrite c o a v)
  else if a < 0x830000 then
    let c := (a - 0x820000) / 0x1000
    let w := a % 0x1000 / 4
    let r := f.imemWrite c (w / 512) (w % 512) v
    (if r.2 then 0 else 6, r.1)
  else
    (0, match a with
        | 0x830008 => f.softStrings 0 v 0 true
        | 0x83000C => f.softStrings 1 v 0 true
        | 0x830010 => f.softStrings 0 v 0 false
        | 0x830014 => f.softStrings 1 v 0 false
        | _ => f.plainWrite a v)

/-- A slice that R314 refuses: an offset or a length that is not a multiple of 4, more than 64 bytes, or past byte 4,095. `head` are the bytes that a
filter's slice has before its data (R312). -/
def sliceBad (head v : Nat) : Bool :=
  let off := fieldOf v 0 12
  let len := fieldOf v 16 7
  off % 4 != 0 || len % 4 != 0 || 64 < len || 4096 < off + head + len

/-- A transmit buffer's registers (R305, R309, R314): REQ and CANCEL of a pool buffer are ignored. -/
def FDie.txbWrite (f : FDie) (n k o a v : Nat) : FDie :=
  match o with
  | 0x0 =>
    if f.inPool n k then f
    else
      let f1 := if bitOf v 0 then f.txRequest n k true else f
      if bitOf v 1 then f1.txCancel n k else f1
  | 0xC => if sliceBad 0 v then f.canEvt n (Reg.CAN_EVT_CFG_REFUSED n) else f.plainWrite a v
  | _ => f.plainWrite a v

/-- A filter's registers (R312, R314): setting EN of its slice begins the slice anew. -/
def FDie.filterWrite (f : FDie) (n k o a v : Nat) : FDie :=
  match o with
  | 0x8 =>
    if sliceBad 4 v then f.canEvt n (Reg.CAN_EVT_CFG_REFUSED n)
    else
      let f1 := f.plainWrite a v
      if bitOf v 31 && !f.on (Reg.CAN_FIMG_EN n k) then f1.setCan n { f1.can n with seen := (f1.can n).seen.filter fun x => x != k } else f1
  | _ => f.plainWrite a v

/-- CAN_TXSQ_n (R309): BASE does not change while EN is 1; the pool is the buffers from BASE on. -/
def FDie.txsqWrite (f : FDie) (n v : Nat) : FDie :=
  let f1 := if f.on (Reg.CAN_TXSQ_EN n) then f else f.wr (Reg.CAN_TXSQ_BASE n) (fieldOf v 0 5)
  let f2 := f1.wr (Reg.CAN_TXSQ_EN n) (fieldOf v 7 1)
  (upto 32).foldl (fun g k => g.wr (Reg.CAN_TXB_POOL n k) (b2n (f2.inPool n k))) f2

/-- CAN. Controllers 4 to 15 have no transceiver: writes to its registers are ignored (R325). -/
def FDie.canWrite (f : FDie) (a v : Nat) : FDie :=
  let n := (a - 0x840000) / 0x1000
  let o := a % 0x1000
  if 15 < n then f.plainWrite a v
  else if 0x400 ≤ o && o < 0x600 then f.txbWrite n ((o - 0x400) / 16) (o % 16) a v
  else if 0x600 ≤ o && o < 0xE00 then f.filterWrite n ((o - 0x600) / 16) (o % 16) a v
  else
    match o with
    | 0x000 => f.canCtl n v
    | 0x004 => if bitOf v 0 && f.rd (Reg.CAN_ECNT_STATE n) == 2 then f.setCan n { f.can n with recov := true } else f
    | 0x008 => f.timingWrite n 0 v
    | 0x00C => f.timingWrite n 1 v
    | 0x010 => f.timingWrite n 2 v
    | 0x02C => f.txsqWrite n v
    | 0x0A0 => if n < 4 then f.xcvWrite n (v % 4) else f
    | 0x0A4 => if n < 4 then (f.plainWrite a v).latchFollows n else f
    | 0x0A8 => f.nmCfg n v
    | 0x108 => f.rxqGet n 0 v
    | 0x128 => f.rxqGet n 1 v
    | 0xE00 => f.fifoCfg (256 + n) v
    | 0xE10 => f.fifoCfg (272 + n) v
    | _ => f.plainWrite a v

/-- FIO (R254, R268, R274): FIO_BOUT_b shows the same outputs as FIO_OUT_n. -/
def FDie.fioWrite (f : FDie) (a v : Nat) : FDie :=
  let b := (a - 0x868000) / 0x100
  if a < 0x868000 then
    let n := (a - 0x860000) / 16
    if n < 256 && a % 16 == 0 then f.fioCfg n v
    else if n < 256 && a % 16 == 4 then f.softOut n (bitOf v 0)
    else f.plainWrite a v
  else if a < 0x868800 then
    match a % 0x100 with
    | 0x00 => (f.plainWrite a v).judgeFvio b
    | 0x0C => f.softBank b 0xFFFFFFFF v
    | 0x10 => f.softBank b v 0xFFFFFFFF
    | 0x14 => f.softBank b v 0
    | 0x18 => if fieldOf v 0 12 % 4 != 0 || fieldOf v 16 12 % 4 != 0 then f else f.plainWrite a v
    | _ => f.plainWrite a v
  else if a == 0x869000 then (if bitOf v 8 then f.safeClear else f)
  else f.plainWrite a v

/-- FED (R348 to R351): limits and models do not change while the channel is not OFF. -/
def FDie.fedWrite (f : FDie) (a v : Nat) : FDie :=
  let n := (a - 0x880000) / 0x1000
  let o := a % 0x1000
  if n < 4 then
    if o == 0 then f.feedCfg n v
    else if (o == 0x04 || o == 0x0C || o == 0x1C || o == 0x20) && f.feedState n != 0 then f.feedEvt n (Reg.FED_EVT_CFG_REFUSED n)
    else if o == 0x18 then (f.plainWrite a v).feedWarn n
    else f.plainWrite a v
  else if a == 0x884000 then (f.plainWrite a v).warnPin
  else f.plainWrite a v

/-- GRM (R331, R332). -/
def FDie.grmWrite (f : FDie) (a v : Nat) : FDie :=
  if 0x8A0100 ≤ a && a < 0x8A0150 then f.groomInput ((a - 0x8A0100) / 4) v
  else if 0x8A0200 ≤ a && a < 0x8A0400 && a % 16 == 0 then f.groomRule ((a - 0x8A0200) / 16) v
  else f.plainWrite a v

/-- FTM (R245, R249): the cycle registers are written by the hub itself, master 0xFF, and software's writes to them are ignored. -/
def FDie.ftmWrite (f : FDie) (master a v : Nat) : FDie :=
  if master == 0xFF then
    match a with
    | 0x8C0020 => f.cycleCfg v
    | 0x8C0024 => f.wr Reg.FTM_EPNS_NS v
    | 0x8C0028 => f.wr Reg.FTM_EPSL_SEC v
    | 0x8C002C => f.wr Reg.FTM_EPSH_SEC v
    | _ => f.plainWrite a v
  else f.plainWrite a v

/-- A register of a memory instance of the field die is written (R370). -/
def FDie.memRegWrite (f : FDie) (a v : Nat) : FDie :=
  match memInst a with
  | some i =>
    if i < 64 then f
    else
      let o := (a - 0x91000) % 0x40
      if o == 0x18 then f.memDone (f.mem.injWrite i v) false
      else if 0x20 ≤ o then f.memDone (f.mem.remapWrite i ((o - 0x20) / 4) v) false
      else f.plainWrite a v
  | none => f

/-- A register of the field die is written: the ring status of Table 8.3, and what it leaves. One of a unit that the variant lacks ignores it (R3). -/
def FDie.regWrite (f : FDie) (master a v : Nat) : Nat × FDie :=
  if lacksReg f.variant a then (0, f)
  else if a < 0x800000 then (0, f.memRegWrite a v)
  else if a < 0x810000 then (0, f.fglWrite a v)
  else if a < 0x840000 then f.marWrite a v
  else if a < 0x860000 then (0, f.canWrite a v)
  else if a < 0x880000 then (0, f.fioWrite a v)
  else if a < 0x8A0000 then (0, f.fedWrite a v)
  else if a < 0x8C0000 then (0, f.grmWrite a v)
  else if a < 0x8E0000 then (0, f.ftmWrite master a v)
  else if a == 0x8E0010 then (0, f.inject v)
  else (0, f.plainWrite a v)

/-! ### Reads -/

/-- The bits of a bank's 32 lines as a word. -/
def FDie.bankBits (f : FDie) (b : Nat) (g : FDie → Nat → Bool) : Nat := ((upto 32).map fun i => b2n (g f (32 * b + i)) * 2 ^ i).sum

/-- A register of the field die is read: status, value and what it leaves. An uncorrectable instruction word is DATA_ERROR (R361). One of a unit
that the variant lacks reads 0 (R3). The access crossed the barrier: its type is 8 (R203). -/
def FDie.regRead (f : FDie) (master a : Nat) : Nat × Nat × FDie :=
  let plain := fun (g : FDie) => let r := g.plainRead a; ((0, r.1, r.2) : Nat × Nat × FDie)
  let b := (a - 0x868000) / 0x100
  if lacksReg f.variant a then (0, 0, f)
  else if a == 0x8C0000 then plain f.capture
  else if 0x820000 ≤ a && a < 0x830000 then
    let c := (a - 0x820000) / 0x1000
    let w := a % 0x1000 / 4
    let r := f.fetchCheck master 8 c (w / 512) (w % 512)
    if r.2 then (7, 2 ^ 32 - 1, r.1) else plain r.1
  else if 0x868000 ≤ a && a < 0x868800 && a % 0x100 == 8 then (0, f.bankBits b FDie.level, f)
  else if 0x868000 ≤ a && a < 0x868800 && a % 0x100 == 0xC then (0, f.bankBits b (fun g n => g.on (Reg.FIO_OUT_VALUE n)), f)
  else if 0x844000 ≤ a && a < 0x850000 && (a % 0x1000 == 0xA0 || a % 0x1000 == 0xA4) then (0, 0, f)
  else plain f

end Sys2Proof.Machine
end

