-- ==== Sys2Proof/Machine/Access.lean ====
section
/-! DEFINITION. An access where it is performed: what an endpoint and an offset name (R41 to R44, Table 2.5), the parts of an access (R208, Table 8.4, R226),
the data windows (R271, R315), and how the parts' outcomes end it (R208). -/
namespace Sys2Proof.Machine

/-! ### What an access names -/

/-- The field die is not reached (R17, R321): the link is down, or the field die sleeps. -/
def HDie.fieldGone (h : HDie) : Bool := !h.on Reg.BAR_STAT_UP || h.on Reg.BAR_FSTAT_ASLEEP

/-- The units of the field die are not reached (R437): so too when neither class F slot has given it a microcode. -/
def HDie.unitsGone (h : HDie) : Bool := h.fieldGone || h.rd Reg.GLB_STATUS_FIELD == 3

/-- An access that ends as a whole. -/
def wholeBad (len status : Nat) : List Part := [{ at_ := 0, len := len, place := .bad status }]

/-- The register space of BAR0 that lies across the barrier: the field die's, and the registers of its memory instances (R370). -/
def crosses (a : Nat) : Bool := (0x800000 ≤ a && a < 0x900000) || 64 ≤ (memInst a).getD 0

/-- The register space of BAR0 at an address (Table 2.7): a region that is reserved reads 0 (R48), as a host-die register without fields. -/
def regSpot (gone : Bool) (a : Nat) : Place :=
  if crosses a then (if gone then .bad 3 else .field a) else .host a

/-- An access to the registers from `base`, of an extent (R43, Table 8.4): consecutive 4-byte accesses, but one of 8 bytes on a pair, or across the barrier
(R56, R226). -/
def regParts (gone : Bool) (base ext off len : Nat) : List Part :=
  let one := fun (o n : Nat) => ({ at_ := o, len := n, place := if ext < off + o + n then .bad 4 else regSpot gone (base + off + o) } : Part)
  if ext ≤ off then wholeBad len 4
  else if len == 0 || 256 < len || len % 4 != 0 || off % 4 != 0 then wholeBad len 5
  else if len == 8 && (base + off) % 8 == 0 && off + 8 ≤ ext && (isPair (base + off) || crosses (base + off)) then [one 0 8]
  else (upto (len / 4)).map fun i => one (4 * i) 4

/-- A byte-addressed window's bytes as parts that do not cross an 8-byte boundary (R226). -/
def byteParts (ep off : Nat) : Nat → Nat → Nat → List Part
  | 0, _, _ => []
  | k + 1, o, left =>
    if left = 0 then []
    else
      let n := min left (8 - (off + o) % 8)
      { at_ := o, len := n, place := .window ep (off + o) } :: byteParts ep off k (o + n) (left - n)

/-- The bytes at an offset of CAN_n's window that are ports or elements (Table 12.5): 0 none, 1 a push port, 2 the pop port, 3 a transmit buffer, 4 an element
or slot that is only read. -/
def canKind (o : Nat) : Nat :=
  if o == 0 || o == 4 then 1
  else if o == 8 then 2
  else if o < 0x1000 || 0xA000 ≤ o || 0x50 ≤ o % 0x80 then 0
  else if o < 0x2000 then 3
  else 4

/-- A FIFO port (Table 8.4): a push or a pop for every 4 bytes, all at the same offset. -/
def portParts (ep off len : Nat) : List Part :=
  if len == 0 || 256 < len || len % 4 != 0 then wholeBad len 5
  else (upto (len / 4)).map fun i => { at_ := 4 * i, len := 4, place := .window ep off }

/-- Bytes of CAN_n's window, all of one element (R315, Table 8.4). -/
def elemParts (ep off len : Nat) (wr : Bool) : List Part :=
  if (upto len).any (fun i => canKind (off + i) < 3) then wholeBad len 4
  else if wr && canKind off == 4 then wholeBad len 4
  else if len == 0 || 256 < len then wholeBad len 5
  else byteParts ep off len 0 len

/-- An access to the data window of a unit (R271, R315, R355). A read of a push port and a write to a pop port are ADDR_ERROR; FEED_n and SP_s list no
offset. -/
def winParts (ep off len : Nat) (wr : Bool) : List Part :=
  if 16 ≤ ep && ep < 144 then
    if (off == 0 && wr) || (off == 4 && !wr) then portParts ep off len else wholeBad len 4
  else if 144 ≤ ep && ep < 160 then
    match canKind off with
    | 0 => wholeBad len 4
    | 1 => if wr then portParts ep off len else wholeBad len 4
    | 2 => if wr then wholeBad len 4 else portParts ep off len
    | _ => elemParts ep off len wr
  else if 160 ≤ ep && ep < 416 then (if off == 0 && len == 1 then byteParts ep 0 1 0 1 else wholeBad len 4)
  else wholeBad len 4

/-- Base and extent of the registers of a fixed endpoint (Tables 2.3, 2.4 and 2.10). -/
def epBase (ep : Nat) : Nat × Nat :=
  match ep with
  | 0 => (0, 2 ^ 24)
  | 1 => (0x70000, 0x10000)
  | 2 => (0x8C0000, 0x20000)
  | 3 => (0x40000, 0x10000)
  | 4 => (0x50000, 0x10000)
  | 5 => (0xA0000, 0x10000)
  | 6 => (0x8E0000, 0x20000)
  | 7 => (0xB0000, 0x10000)
  | 8 => (0xC0000, 0x10000)
  | 9 => (0x90000, 0x10000)
  | 10 => (0x8A0000, 0x20000)
  | 11 => (0x10000, 0x10000)
  | _ =>
    if ep < 144 then (0x810000 + 0x1000 * ((ep - 16) / 8) + 0x80 * ((ep - 16) % 8), 0x80)
    else if ep < 160 then (0x840000 + 0x1000 * (ep - 144), 0x1000)
    else if ep < 416 then (0x860000 + 16 * (ep - 160), 0x10)
    else if ep < 420 then (0x880000 + 0x1000 * (ep - 416), 0x1000)
    else (0x60000 + 0x1000 * (ep - 420), 0x1000)

/-- The offset region of an access (Table 2.5): none where it crosses from one region into another, or lies in the reserved one (R43, R208). -/
def regionOf (off len : Nat) : Option Nat :=
  let r := off / 2 ^ 24
  if r == (off + max len 1 - 1) / 2 ^ 24 && r < 2 then some r else none

/-- An endpoint that has a unit: 0 to 11 and 16 to 423. -/
def fixedEp (ep : Nat) : Bool := ep ≤ 11 || (16 ≤ ep && ep ≤ 423)

/-- An access to a fixed endpoint (R41 to R43); those of the field die's units are unreachable with it. One that the variant
lacks does not exist (R3). -/
def HDie.fixedParts (h : HDie) (ep off len : Nat) (wr : Bool) : List Part :=
  if lacksEp h.variant ep then wholeBad len 2
  else if 16 ≤ ep && ep ≤ 419 && h.unitsGone then wholeBad len 3
  else
    match regionOf off len with
    | none => wholeBad len 4
    | some 0 => regParts h.fieldGone (epBase ep).1 (epBase ep).2 off len
    | some _ => if ep < 16 then wholeBad len 4 else winParts ep (off % 2 ^ 24) len wr

/-- An access to virtual endpoint v (R44, R45): ALIAS is its target; CAN_NODE shows the last-frame slot SEL of its controller; ENGINE_SET the ports of its
engines. -/
def HDie.vepParts (h : HDie) (v off len : Nat) (wr : Bool) : List Part :=
  let tgt := h.rd (Reg.BRG_VEP_TARGET v)
  let sel := h.rd (Reg.BRG_VEP_SEL v)
  let kind := h.rd (Reg.BRG_VEP_KIND v)
  if !h.on (Reg.BRG_VEP_EN v) || 2 < kind || !fixedEp tgt || lacksEp h.variant tgt then wholeBad len 2
  else if kind == 0 || regionOf off len != some 1 then h.fixedParts tgt off len wr
  else
    let o := off % 2 ^ 24
    if h.unitsGone then wholeBad len 3
    else if kind == 1 then
      if wr || 0x50 ≤ o then wholeBad len 4 else elemParts tgt (0x6000 + 0x80 * sel + o) len false
    else if o / 8 < sel then winParts (tgt + o / 8) (o % 8) len wr
    else wholeBad len 4

/-- The inbox data window (Table 2.5, Table 8.4): none where the write is accepted as one record. -/
def inboxParts (off len : Nat) (wr : Bool) : Option (List Part) :=
  if regionOf off len != some 1 || !wr then some (wholeBad len 4)
  else if len == 0 || 256 < len || 256 < off % 256 + len then some (wholeBad len 5)
  else none

/-- The parts of an access to an endpoint of this hub; none for an accepted inbox write. -/
def HDie.goal (h : HDie) (ep off len : Nat) (wr : Bool) : Option (List Part) :=
  if fixedEp ep then some (h.fixedParts ep off len wr)
  else if ep == 424 then (if h.hostAttached then inboxParts off len wr else some (wholeBad len 2))
  else if ep < 432 then some (wholeBad len 2)
  else some (h.vepParts (ep - 432) off len wr)

/-! ### Parts, performed -/

/-- The first failing part by offset (R208). -/
def firstBad (bad : Option (Nat × Nat)) (at_ status : Nat) : Option (Nat × Nat) :=
  if status = 0 then bad
  else
    match bad with
    | some b => if b.1 ≤ at_ then bad else some (at_, status)
    | none => some (at_, status)

/-- What an access has so far, with one more part done. -/
def FieldAcc.part (a : FieldAcc) (at_ status : Nat) (bytes : List Byte) : FieldAcc :=
  { a with bad := firstBad a.bad at_ status, got := a.got ++ [(at_, bytes)] }

/-- The status that the access ends with (R208). -/
def FieldAcc.status (a : FieldAcc) : Nat := match a.bad with | some b => b.2 | none => 0

/-- The bytes that the access has read. -/
def FieldAcc.bytes (a : FieldAcc) : List Byte := a.got.foldl (fun b p => patch b p.1 p.2) (List.replicate a.len 0)

/-- The first of two statuses that is not OK. -/
def firstOf (a b : Nat) : Nat := if a = 0 then b else a

/-- The access type of an access at its target (Table 8.2). -/
def FieldAcc.access (a : FieldAcc) : Nat :=
  match a.who with
  | 0 | 9 => if a.op = 1 then 0 else 1
  | 4 | 5 => 7
  | _ => accessCode (if a.master = 0x40 then 1 else 0) a.op false

/-- A register of the host die is read, 4 bytes or a pair (R56), by a master with an access type (R202, R203). -/
def readPart (master access a len : Nat) (s : State) : Nat × List Byte × State :=
  let lo := hostRead master access a s
  if len == 8 then
    let hi := hostRead master access (a + 4) lo.2.2
    (firstOf lo.1 hi.1, leBytes 4 lo.2.1 ++ leBytes 4 hi.2.1, hi.2.2)
  else (lo.1, leBytes 4 lo.2.1, lo.2.2)

/-- A register of the host die is written, 4 bytes or a pair: the high word is held, and the low word commits it. -/
def writePart (from_ master a : Nat) (bs : List Byte) (s : State) : State :=
  let lo := leNat (slice bs 0 4)
  if bs.length == 8 then hostWrite from_ master a lo (hostWrite from_ master (a + 4) (leNat (slice bs 4 4)) s)
  else hostWrite from_ master a lo s

/-- A tag from `t` on that no barrier request waits under. -/
def freeTag (ws : List BarWait) : Nat → Nat → Nat
  | 0, t => t
  | k + 1, t => if ws.any fun w => w.tag == t then freeTag ws k (t % 4095 + 1) else t

/-- A REQ_RD or REQ_WR message (Table 8.10). -/
def reqMsg (tag master : Nat) (wr win : Bool) (ep off len : Nat) (bs : List Byte) : BarMsg :=
  mkMsg (if wr then 0x31 else 0x30) tag
    [off % 2 ^ 24 + len * 2 ^ 24 + b2n win * 2 ^ 28, master + ep * 2 ^ 16, leNat (slice bs 0 4), leNat (slice bs 4 4)]

/-- A part crosses the barrier (R226): its request waits for credit, and for its response. -/
def HDie.requestPart (h : HDie) (acc master : Nat) (wr win : Bool) (ep off : Nat) (p : Part) (bs : List Byte) : HDie :=
  let t := freeTag h.brg.waits h.brg.waits.length (max 1 h.brg.nextTag)
  { h with
    brg.waits := h.brg.waits ++ [({ tag := t, acc := acc, at_ := p.at_, len := p.len, write := wr } : BarWait)]
    brg.nextTag := t % 4095 + 1 }.toField (reqMsg t master wr win ep off p.len bs)

/-- One part is performed, or crosses the barrier. In chip reset nothing more is. -/
def runPart (from_ : Nat) (data : List Byte) (p : Part) (x : FieldAcc × State) : FieldAcc × State :=
  let a := x.1
  let s := x.2
  let wr := a.op != 1
  let bs := if wr then slice data p.at_ p.len else []
  if s.h.boot.inReset then x
  else
    match p.place with
    | .bad st => (a.part p.at_ st [], s)
    | .host r =>
      if wr then (a, writePart from_ a.master r bs s)
      else
        let q := readPart a.master a.access r p.len s
        (a.part p.at_ q.1 q.2.1, q.2.2)
    | .field r => ({ a with left := a.left + 1 }, { s with h := s.h.requestPart a.acc a.master wr false 0 r p bs })
    | .window ep o => ({ a with left := a.left + 1 }, { s with h := s.h.requestPart a.acc a.master wr true ep o p bs })

/-- The parts in increasing address. -/
def runParts (from_ : Nat) (data : List Byte) : List Part → FieldAcc × State → FieldAcc × State
  | [], x => x
  | p :: ps, x => runParts from_ data ps (runPart from_ data p x)

/-- An access with its parts: it ends at once where no part waits for the barrier. -/
def performParts (from_ : Nat) (data : List Byte) (a : FieldAcc) (ps : List Part) (s : State) : State :=
  let a1 : FieldAcc := { a with acc := s.h.brg.nextAcc, left := 0, got := [], bad := none }
  let r := runParts from_ data ps (a1, { s with h := { s.h with brg.nextAcc := s.h.brg.nextAcc + 1 } })
  if r.2.h.boot.inReset then r.2
  else if r.1.left = 0 then { r.2 with h := r.2.h.endAcc r.1 r.1.status r.1.bytes }
  else { r.2 with h := { r.2.h with brg.accs := r.2.h.brg.accs ++ [r.1] } }

/-- An accepted access is performed: in its parts, or as a record of the inbox. -/
def performJob (j : Job) (s : State) : State :=
  match j.parts with
  | some ps => performParts j.from_ j.data j.acc ps s
  | none =>
    { s with h := (s.h.deliver
        { cls := 5, len := j.acc.len, trunc := false, untracked := false, stale := false, inbox := true, src := j.from_, stream := j.car.stream,
          seq := j.car.seq, offset := j.off % 2 ^ 24, time := j.car.time, payload := j.data, since := s.h.tb.now }).endAcc j.acc 0 [] }

/-- The accesses that wait are performed in order of arrival, one at a time (R24): none while one waits for the barrier. -/
def runJobs : Nat → State → State
  | 0, s => s
  | n + 1, s =>
    match s.h.brg.jobs with
    | [] => s
    | j :: r =>
      if s.h.brg.accs.isEmpty && !s.h.boot.inReset then runJobs n (performJob j { s with h := { s.h with brg.jobs := r } }) else s

/-- The accesses that wait go on as far as they can. -/
def goOn (s : State) : State := runJobs s.h.brg.jobs.length s

/-- An access is accepted (R24): it is performed once those before it have been. -/
def accept (j : Job) (s : State) : State := goOn { s with h := { s.h with brg.jobs := s.h.brg.jobs ++ [j] } }

/-- The entry of a virtual endpoint is read from instance 52 (Table 15.1): the flag says that it is uncorrectable. -/
def HDie.checkVep (h : HDie) (master access ep : Nat) : HDie × Bool :=
  if ep < 432 then (h, false) else h.readWords master access 52 (128 + (ep - 432) / 2) 1

/-- An access to this hub's endpoint `ep`, on behalf of hub `from_`, is accepted: what its address names now it keeps (Table 2.12). One to a virtual endpoint whose entry
is uncorrectable ends with DATA_ERROR (Table 15.2). -/
def perform (from_ ep off : Nat) (data : List Byte) (c : Carrier) (a : FieldAcc) (s : State) : State :=
  let r := s.h.checkVep a.master 0xE ep
  let parts := if r.2 then some (wholeBad a.len 7) else s.h.goal ep off a.len (a.op != 1)
  accept { from_ := from_, off := off, data := data, car := c, acc := a, parts := parts } { s with h := r.1 }

/-- A command after which accesses that waited may go on. -/
def onJobs (g : State → State) (s : State) : Host.Outcome State Fault Refusal := onHost (fun x => goOn (g x)) s

/-- A barrier request of the H-die ends (R226): its part of the access has a status and data; the access ends with its last part. -/
def HDie.partEnds (h : HDie) (w : BarWait) (status : Nat) (bytes : List Byte) : HDie :=
  let h1 := { h with brg.waits := h.brg.waits.filter fun (x : BarWait) => x.tag != w.tag }
  match h1.brg.accs.find? fun a => a.acc == w.acc with
  | none => h1
  | some a =>
    let b := { a with left := a.left - 1 }.part w.at_ status (if w.write then [] else bytes)
    let others := h1.brg.accs.filter fun (x : FieldAcc) => x.acc != w.acc
    if b.left = 0 then { h1 with brg.accs := others }.endAcc b b.status b.bytes
    else { h1 with brg.accs := h1.brg.accs.map fun (x : FieldAcc) => if x.acc == w.acc then b else x }

/-! ### The field die's side -/

/-- Bytes of a window's element (R315, Table 12.5): its key and the offset in it. -/
def elemAt (n o : Nat) : Nat × Nat :=
  let i := o % 0x1000 / 0x80
  ((if o < 0x2000 then txKey n i
    else if o < 0x4000 then rxKey n 0 ((o - 0x2000) / 0x80)
    else if o < 0x6000 then rxKey n 1 ((o - 0x4000) / 0x80)
    else slotKey n ((o - 0x6000) / 0x80)), o % 0x80)

/-- The bytes of an element's words. -/
def wordBytes (ws : List Nat) : List Byte := ws.flatMap fun w => leBytes 4 w

/-- Twenty words from their bytes. -/
def elemWords (bs : List Byte) : List Nat := (upto 20).map fun i => leNat (slice bs (4 * i) 4)

/-- Pops of a FIFO port, one for every 4 bytes (R192, R197). -/
def popBytes (q : Nat) : Nat → FDie → List Byte × FDie
  | 0, f => ([], f)
  | k + 1, f =>
    let r := f.softPop q
    let t := popBytes q k r.1
    (leBytes 4 r.2 ++ t.1, t.2)

/-- Pushes at a FIFO port, one for every 4 bytes (R192, R198); the closing port of CAN_TSQ_n closes the packet with each (R195, R315). -/
def pushBytes (q : Nat) (closes : Bool) : Nat → List Byte → FDie → FDie
  | 0, _, f => f
  | k + 1, bs, f =>
    let g := f.pushNb q (leNat (slice bs 0 4))
    pushBytes q closes k (bs.drop 4) (if closes then (g.commit q).1 else g)

/-- A read in a data window of the field die, by a master, across the barrier (R203): status and data. An uncorrectable word of an element is DATA_ERROR
(Table 15.2). -/
def FDie.winRead (f : FDie) (master ep o len : Nat) : Nat × List Byte × FDie :=
  match winParts ep o len false with
  | { at_ := _, len := _, place := .bad st } :: _ => (st, [], f)
  | _ =>
    if ep < 144 then
      let r := popBytes (128 + (ep - 16)) (len / 4) f
      (0, r.1, r.2)
    else if ep < 160 then
      if o == 8 then
        let r := popBytes (272 + (ep - 144)) (len / 4) f
        (0, r.1, r.2)
      else
        let e := elemAt (ep - 144) o
        let r := f.readWords master 8 (elemWord e.1).1 ((elemWord e.1).2 + e.2 / 8) 1
        if r.2 then (7, [], r.1) else (0, slice (wordBytes (f.elem e.1)) e.2 len, r.1)
    else (0, leBytes 1 (b2n (f.level (ep - 160)) + 2 * b2n (f.holder (ep - 160))), f)

/-- Bytes of an element, all of one word, are written in element memory: the word whole, or narrowly (R362). -/
def FDie.elemBytesStored (f : FDie) (key o len : Nat) : FDie :=
  let w := elemWord key
  if len = 8 then f.writeWords w.1 (w.2 + o / 8) 1
  else f.narrowWord w.1 (w.2 + o / 8) ((2 ^ len - 1) * 2 ^ (o % 8))

/-- A write in a data window of the field die: a transmit buffer that is not FREE or DONE, or that is in the stream pool, and a line that has a driver, are
ACCESS_FAULT. -/
def FDie.winWrite (f : FDie) (ep o : Nat) (bs : List Byte) : Nat × FDie :=
  match winParts ep o bs.length true with
  | { at_ := _, len := _, place := .bad st } :: _ => (st, f)
  | _ =>
    if ep < 144 then (0, pushBytes (ep - 16) false (bs.length / 4) bs f)
    else if ep < 160 then
      let n := ep - 144
      if o < 8 then (0, pushBytes (256 + n) (o == 4) (bs.length / 4) bs f)
      else
        let k := (o - 0x1000) / 0x80
        if (f.txState n k != 0 && f.txState n k != 4) || f.inPool n k then (6, f)
        else (0, (f.elemBytesStored (txKey n k) (o % 0x80) bs.length).setElem (txKey n k) (elemWords (patch (wordBytes (f.elem (txKey n k))) (o % 0x80) bs)))
    else if f.rd (Reg.FIO_CFG_DRV (ep - 160)) != 0xFF then (6, f)
    else (0, f.softOut (ep - 160) (leNat bs % 2 == 1))

/-- A read request is performed on the field die: its registers, 4 or 8 bytes, or a window. -/
def FDie.reqRead (f : FDie) (m : BarMsg) : Nat × List Byte × FDie :=
  let a := reqOff m
  if reqWin m then (if 16 ≤ reqEp m && reqEp m ≤ 419 && !lacksEp f.variant (reqEp m) then f.winRead (reqMaster m) (reqEp m) a (reqLen m) else (2, [], f))
  else
    let lo := f.regRead (reqMaster m) a
    if reqLen m == 8 then
      let hi := lo.2.2.regRead (reqMaster m) (a + 4)
      (firstOf lo.1 hi.1, leBytes 4 lo.2.1 ++ leBytes 4 hi.2.1, hi.2.2)
    else (lo.1, leBytes 4 lo.2.1, lo.2.2)

/-- A write request is performed on the field die: of 8 bytes on a pair the high word is held and the low word commits it; else the lower address first
(R47, R56). -/
def FDie.reqWrite (f : FDie) (m : BarMsg) : Nat × FDie :=
  let a := reqOff m
  let bs := reqData m
  let lo := leNat (slice bs 0 4)
  let hi := leNat (slice bs 4 4)
  if reqWin m then (if 16 ≤ reqEp m && reqEp m ≤ 419 && !lacksEp f.variant (reqEp m) then f.winWrite (reqEp m) a bs else (2, f))
  else if reqLen m == 8 then
    if isPair a then
      let x := f.regWrite (reqMaster m) (a + 4) hi
      let y := x.2.regWrite (reqMaster m) a lo
      (firstOf y.1 x.1, y.2)
    else
      let x := f.regWrite (reqMaster m) a lo
      let y := x.2.regWrite (reqMaster m) (a + 4) hi
      (firstOf x.1 y.1, y.2)
  else f.regWrite (reqMaster m) a lo

/-- An RSP message (Table 8.10). -/
def rspMsg (tag status : Nat) (bs : List Byte) : BarMsg :=
  mkMsg 0x10 tag [status + bs.length * 16, leNat (slice bs 0 4), leNat (slice bs 4 4)]

/-- A request of the host die is performed and answered (R225, R226). STANDBY ends first (R322). -/
def FDie.serveReq (f : FDie) (wr : Bool) (m : BarMsg) : FDie :=
  let g := f.toRun
  if !wr then
    let r := g.reqRead m
    r.2.2.toHost (rspMsg (mTag m) r.1 (if r.1 = 0 then r.2.1 else []))
  else
    let r := g.reqWrite m
    r.2.toHost (rspMsg (mTag m) r.1 [])

/-- A write to FGL_PWR asks for SLEEP, and nothing refuses it (R320). -/
def FDie.sleepDue (f : FDie) (a v : Nat) : Bool :=
  a == 0x800100 && v % 4 == 2 && f.rd Reg.FGL_PWRSTAT_STATE < 2 && f.pwrRefuse 2 == 0

/-- SLEEP is entered once the write has been answered (R320, R321): the SLEEP_NOTICE leaves before the link stops. -/
def goToSleep (s : State) : State :=
  let r := carryF s
  let t := carryF { r with f := r.f.wakeMsg 3 0 0 2 }
  { t with f := t.f.enterSleep }

end Sys2Proof.Machine
end

