-- ==== Sys2Proof/Machine/Remote.lean ====
section
/-! DEFINITION. Accesses that this hub originates: register writes, BAR0 and BAR4 accesses (R46 to R53, R206, R209), remote descriptors and those of the
management core (R72, R74, R204 to R217). -/
namespace Sys2Proof.Machine

/-! ### Register writes -/

/-- A write as it is performed at its register, where an aligned address names one (R56): those across the barrier only while its link is up. -/
def writeAny (master a v : Nat) (s : State) : State :=
  if a % 4 != 0 then s
  else if !crosses a then hostWrite s.h.self master a v s
  else if s.linked then
    let t := s.tellPlan
    let due := t.f.sleepDue a v
    let r := fieldAct (fun f => (f.toRun.regWrite master a v).2) t
    if due then goToSleep r else r
  else s

/-- An access to BAR0 or to a register in its address space, for the host. -/
def barJob (wr : Bool) (a len : Nat) (data : List Byte) (h : HDie) : Job :=
  let x : FieldAcc := { acc := 0, who := 0, ref := 0, master := 0x40, op := if wr then 2 else 1, src := h.self, rnum := 0, raddr := a, len := len,
                        left := 0, got := [], bad := none }
  { from_ := h.self, off := a, data := slice data 0 len, car := { stream := 0, seq := 0, time := 0 }, acc := x,
    parts := some (regParts h.fieldGone 0 (2 ^ 24) a len) }

/-- An access that crosses the barrier takes its turn at the field die; one of the host die alone is performed at once (R49). -/
def Job.start (j : Job) (s : State) : State := if j.crosses then accept j s else goOn (performJob j s)

/-- REGISTER_WRITE (R56, R10, R15): software writes the register at `a`, an aligned address; a write to one of the field die crosses the barrier as a request. -/
def registerWrite (a v : Nat) (s : State) : State := if a % 4 != 0 then s else (barJob true a 4 (leBytes 4 v) s.h).start s

def execRegisterWrite (a : BitVec 24) (v : Word) (s : State) : Host.Outcome State Fault Refusal := onHost (registerWrite a.toNat v.toNat) s

/-- A read that the hub makes for itself of a register across the barrier (R15); its data reaches `HDie.endAcc` as `who` says, about `ref`. -/
def ownRead (who ref a : Nat) (h : HDie) : Job :=
  { from_ := h.self, off := a, data := [], car := { stream := 0, seq := 0, time := 0 },
    acc := { acc := 0, who := who, ref := ref, master := 0xFF, op := 1, src := h.self, rnum := 0, raddr := a, len := 4, left := 0, got := [], bad := none },
    parts := some (regParts h.fieldGone 0 (2 ^ 24) a 4) }

/-- CYCLE_TOTAL_UPDATE (R422): each FED_TCYC_n is read; its data reaches `HDie.cycleTotal`. -/
def cycleTotals (s : State) : State := (upto 4).foldl (fun x n => accept (ownRead 6 n (0x880054 + 0x1000 * n) x.h) x) s

def execCycleTotalUpdate (s : State) : Host.Outcome State Fault Refusal := onHost cycleTotals s

/-- BLOCK_LOCK_SET (R55): the lock bit of block `b`, in the order of Table 2.10. -/
def execBlockLockSet (b : Fin 23) (s : State) : Host.Outcome State Fault Refusal :=
  onHost (writeAny 0x40 ((blocks.map fun x => x.2.2.1).getD b.val 0) 1) s

/-- BRG_WIN_WRITE (R51, R53). -/
def execBrgWinWrite (n : Fin 256) (v : Word) (s : State) : Host.Outcome State Fault Refusal :=
  onHost (fun x => { x with h := x.h.winWrite n.val v.toNat }) s

/-- BRG_VEP_WRITE (R44, R45). -/
def execBrgVepWrite (v : Fin 592) (w : Word) (s : State) : Host.Outcome State Fault Refusal :=
  onHost (fun x => { x with h := x.h.vepWrite v.val w.toNat }) s

/-! ### Where an access goes -/

/-- Where a ring address leads (R36, R39, R135). -/
inductive Route where
  | local_ | refused | broadcast | unreachable | ring
  deriving DecidableEq, Repr

/-- A port can take a frame of this hub (R39, R135). -/
def HDie.canSend (h : HDie) : Bool := h.numbered && (h.active 0 || h.active 1)

/-- Table 2.2, read for a hub that may be unnumbered (R39). -/
def HDie.goes (h : HDie) (hub : Nat) (wr : Bool) : Route :=
  if hub == h.self then .local_
  else if 120 ≤ hub && hub < 127 then .refused
  else if hub == 127 then (if wr then .broadcast else .refused)
  else if h.canSend then .ring
  else .unreachable

/-- A remote access that finds no port in ACTIVE counts as a frame that is not sent (R135). -/
def HDie.noPath (h : HDie) : HDie := if h.numbered then h.bump Reg.RED_NOPATH_COUNT else h

/-- A fresh serial for an access that no descriptor makes. -/
def HDie.freshSer (h : HDie) : Nat × HDie := (h.hostq.ser, { h with hostq.ser := h.hostq.ser + 1 })

/-- What an inbox record of the hub's own write shows: no frame carried it, so its stream and sequence number are open (log 5). -/
def HDie.ownCarrier (h : HDie) : Carrier × HDie :=
  ({ stream := Config.freeValue h.free % 4096, seq := Config.freeValue (h.free + 1) % 65536, time := h.tb.now }, { h with free := h.free + 2 })

/-- An access to the hub's own endpoints (R205). -/
def performOwn (who ref master op raddr len : Nat) (data : List Byte) (s : State) : State :=
  let c := s.h.ownCarrier
  let a : FieldAcc := { acc := 0, who := who, ref := ref, master := master, op := op, src := s.h.self, rnum := 0, raddr := raddr, len := len, left := 0,
                        got := [], bad := none }
  perform s.h.self (raEp raddr) (raOff raddr) data c.1 a { s with h := c.2 }

/-- A non-posted access is kept until its end (R213, R214). -/
def HDie.keepNp (h : HDie) (r : NpReq) : HDie := { h with brg.nps := h.brg.nps ++ [r] }.showBrg

/-- A non-posted access starts (R36, R135, R204, R211, R213): `r` without its hub, number and send time. -/
def startNp (r0 : NpReq) (s : State) : State :=
  let r : NpReq := { r0 with hub := raHub r0.raddr, rnum := 0, sent := s.h.tb.now, resends := 0, phase := 3 }
  match s.h.goes r.hub (r.op != 1) with
  | .local_ => performOwn 2 r.ser r.master r.op r.raddr r.len r.data { s with h := s.h.keepNp r }
  | .refused | .broadcast => { s with h := (s.h.keepNp r).endNp r 16 [] }
  | .unreachable => { s with h := (s.h.noPath.keepNp r).endNp r 3 [] }
  | .ring =>
    let t := s.h.takeRnum r.master r.hub
    let g := t.2.keepNp { r with rnum := t.1, phase := 0 }
    { s with h := g.sendRequest r.hub (raEp r.raddr) (requestPayload r.op r.master r.len (raOff r.raddr) 0 t.1 r.data) }

/-- A posted write of this hub that no ring carries, or that every hub receives, is kept until its own copy is performed (R37, R217). -/
def HDie.keepPw (h : HDie) (ser master hub raddr : Nat) (data : List Byte) : HDie :=
  let w : PostedW := { ser := ser, master := master, hub := hub, rnum := 0, raddr := raddr, data := data, time := h.tb.now, orig := ser, resent := false,
                       wait := false, resends := 0, slot := h.pwSlot, fid := none }
  { h.pwStore w.slot with brg.posted := h.brg.posted ++ [w] }.showBrg

/-- A posted write that is refused, or finds no path, at its origin (R204): a fault of kind PWE, in place of the outcome's own. One of BAR4 or of the core is reported
as R219 states; a descriptor tells of its outcome itself (log 138). -/
def HDie.pwRefused (h : HDie) (master raddr : Nat) (e : End) : HDie :=
  if master < 64 then h.bridgeFault 8 master (accessCode 0 2 false) raddr (endRing e) (raHub raddr) 0 h.tb.now
  else
    h.reportPw { ser := 0, master := master, hub := raHub raddr, rnum := 0, raddr := raddr, data := [], time := h.tb.now, orig := 0, resent := false,
                 wait := false, resends := 0, slot := 0, fid := none } e

/-- A posted write starts (R36, R37, R74, R135, R217): its outcome at the origin, or none where a frame carries it: its descriptor then completes when the
frame has left. -/
def startPw (ser master raddr : Nat) (data : List Byte) (s : State) : Option End × State :=
  match s.h.goes (raHub raddr) true with
  | .local_ => (some 0, performOwn 3 ser master 2 raddr data.length data { s with h := s.h.keepPw ser master 128 raddr data })
  | .refused => (some 16, { s with h := s.h.pwRefused master raddr 16 })
  | .unreachable => (some 3, { s with h := s.h.noPath.pwRefused master raddr 3 })
  | .broadcast =>
    let g := (s.h.keepPw ser master 127 raddr data).requestFrame 127 (raEp raddr) (requestPayload 2 master data.length (raOff raddr) 0 0 data)
    (none, performOwn 5 ser master 2 raddr data.length data { s with h := g.1.departing master ser g.2 })
  | .ring =>
    let g := s.h.sendPw ser ser master raddr data false
    (none, { s with h := g.1.departing master ser g.2 })

/-- The store of posted writes has no room (R217). -/
def HDie.pwFull (h : HDie) : Bool := 512 ≤ h.brg.posted.length

/-! ### Remote descriptors, and accesses of the core (R72, R74) -/

/-- OP of a REQUEST for a descriptor's opcode (Tables 3.2 and 8.5): REMOTE_WRITE is posted, and so is a broadcast by REMOTE_WRITE_ACK (R37). -/
def HDie.opOf (h : HDie) (opcode raddr : Nat) : Nat :=
  match opcode with
  | 3 => 1
  | 4 => if h.goes (raHub raddr) true = .broadcast then 2 else 3
  | _ => 2

/-- RADDR of a remote descriptor (Table 3.4). -/
def dRaddr (d : Desc) : Nat := two d.d2 d.d3 % 2 ^ 44

/-- The write data of a remote descriptor: in it with INLINE, else as host memory gave it; none where the read failed. -/
def remoteData (d : Desc) (read : Option (List Byte)) : Option (List Byte) :=
  let len := d.d1.fld 0 9
  if dInline d then some (slice (leBytes 4 d.d4.toNat ++ leBytes 4 d.d5.toNat) 0 len) else read.map fun b => slice b 0 len

/-- A remote descriptor of queue q is performed; `ok`: the write of read data to host memory succeeds. While the store of posted writes is full, a posted write waits in its queue (R217). -/
def remoteDesc (q opcode : Nat) (read : Option (List Byte)) (ok : Bool) (s : State) : State :=
  match s.h.current q opcode with
  | none => s
  | some st =>
    let len := st.desc.d1.fld 0 9
    let raddr := dRaddr st.desc
    let op := s.h.opOf opcode raddr
    let r : NpReq := { ser := st.ser, kind := 0, q := q, master := q, hub := 0, rnum := 0, op := op, raddr := raddr, data := [], len := len, sent := 0,
                       resends := 0, phase := 3, swap := false, ur := false }
    if len = 0 || 256 < len || (dInline st.desc && 8 < len) then { s with h := s.h.finish q st.ser 2 0 }
    else if op = 1 then startNp r { s with h := (s.h.begin_ q st.ser).setDma q st.ser ok }
    else
      match remoteData st.desc read with
      | none => { s with h := s.h.finish q st.ser 3 0 }
      | some data =>
        if op = 3 then startNp { r with data := data } { s with h := s.h.begin_ q st.ser }
        else if s.h.pwFull then s
        else
          let t := startPw st.ser q raddr data { s with h := s.h.begin_ q st.ser }
          match t.1 with
          | some e => if t.2.h.boot.inReset then t.2 else { t.2 with h := t.2.h.finish q st.ser (endStatus e) 0 }
          | none => t.2

/-- An access of the management core (master 0x41). -/
def coreAccess (opcode : Nat) (c : CoreAcc) (s : State) : State :=
  if !s.h.coreRuns || c.len = 0 || 256 < c.len then s
  else
    let raddr := c.addr % 2 ^ 44
    let op := s.h.opOf opcode raddr
    let f := s.h.freshSer
    let r : NpReq := { ser := f.1, kind := 2, q := 0, master := 0x41, hub := 0, rnum := 0, op := op, raddr := raddr,
                       data := if op = 1 then [] else slice c.data 0 c.len, len := c.len, sent := 0, resends := 0, phase := 3, swap := false, ur := false }
    if op = 2 then (if s.h.pwFull then s else (startPw f.1 0x41 raddr r.data { s with h := f.2 }).2)
    else startNp r { s with h := f.2 }

/-- A remote access of submission queue q, or of the core. -/
def remote (opcode : Nat) (from_ : Sum (Fin 64) CoreAcc) (read : Option (List Byte)) (ok : Bool) (s : State) : State :=
  match from_ with
  | .inl q => remoteDesc q.val opcode read ok s
  | .inr c => coreAccess opcode c s

/-- REMOTE_WRITE (R72, R74). `read`: the data as host memory gave it. -/
def execRemoteWrite (from_ : Sum (Fin 64) CoreAcc) (read : Option (List Byte)) (s : State) : Host.Outcome State Fault Refusal :=
  onHost (remote 2 from_ read true) s

/-- REMOTE_READ (R72). `ok`: the write of the data to host memory succeeds. -/
def execRemoteRead (from_ : Sum (Fin 64) CoreAcc) (ok : Bool) (s : State) : Host.Outcome State Fault Refusal := onHost (remote 3 from_ none ok) s

/-- REMOTE_WRITE_ACK (R72). -/
def execRemoteWriteAck (from_ : Sum (Fin 64) CoreAcc) (read : Option (List Byte)) (s : State) : Host.Outcome State Fault Refusal :=
  onHost (remote 4 from_ read true) s

/-! ### The BARs (R22, R46) -/

/-- A BAR as Table 2.7 and R46 give it: its number, its size as a power of two, and whether it is a 64-bit and a prefetchable memory BAR. -/
structure Bar where
  num      : Nat
  log2     : Nat
  wide     : Bool
  prefetch : Bool
  deriving DecidableEq, Repr

/-- The BARs that the hub presents: in the host-attached role those of Table 2.7 and no others, in the remote role none (R23, R46). -/
def HDie.bars (h : HDie) : List Bar :=
  if h.hostAttached then
    [{ num := 0, log2 := 24, wide := true, prefetch := false }, { num := 2, log2 := 16, wide := false, prefetch := false },
      { num := 4, log2 := 30, wide := true, prefetch := false }]
  else []

/-- The host reaches BAR `num`: the hub presents it, and the PCIe link is up. -/
def HDie.reached (h : HDie) (num : Nat) : Bool := h.pcieUp && h.bars.any fun b => b.num == num

/-- The hub accepts no further non-posted PCIe request (R206). -/
def HDie.npFull (h : HDie) : Bool := 32 ≤ (h.brg.nps.filter fun r => r.kind == 1 && r.op == 1).length

/-! ### BAR2 (R50) -/

/-- The doorbell at a BAR2 offset (Table 2.8): its kind, 0 SQ tail, 1 CQ head, 2 EQ head, and its queue. -/
def doorAt (a : Nat) : Option (Nat × Nat) :=
  if a % 8 != 0 then none
  else if a < 0x200 then some (0, a / 8)
  else if 0x400 ≤ a && a < 0x600 then some (1, (a - 0x400) / 8)
  else if a == 0x800 then some (2, 64)
  else none

/-- An index is written to a doorbell (R50, R62, R64). -/
def HDie.doorbell (h : HDie) (kind q v : Nat) : HDie :=
  match kind with
  | 0 => h.sqDoorbell q v
  | 1 => retireBound q (h.hostq.sqs.map (·.q)) (h.headDoorbell q v)
  | _ => (h.headDoorbell 64 v).drain

/-- A host access to BAR2 (R50): a read returns 0; a write of 4 bytes, or of 8 aligned bytes, to an offset of Table 2.8 is its doorbell; any other is ignored. -/
def HDie.bar2 (h : HDie) (r : Bar2) : HDie :=
  if !h.reached 2 || (!r.wr && h.npFull) then h
  else if !r.wr then h.hostRead { bar := 2, addr := r.a.toNat, data := List.replicate r.len 0, ur := false }
  else
    match doorAt r.a.toNat with
    | some (k, q) => if r.len == 4 || r.len == 8 then h.doorbell k q (r.data.toNat % 2 ^ 32) else h
    | none => h

/-- SQ_TAIL_DOORBELL (R50, R62): an access to the first row of Table 2.8. -/
def execSqTailDoorbell (r : Bar2) (s : State) : Host.Outcome State Fault Refusal := onH (fun h => h.bar2 r) s

/-- CQ_HEAD_DOORBELL (R50, R64): an access to the second row of Table 2.8. -/
def execCqHeadDoorbell (r : Bar2) (s : State) : Host.Outcome State Fault Refusal := onH (fun h => h.bar2 r) s

/-- EQ_HEAD_DOORBELL (R50, R64): an access to the third row of Table 2.8, or beyond it. -/
def execEqHeadDoorbell (r : Bar2) (s : State) : Host.Outcome State Fault Refusal := onH (fun h => h.bar2 r) s

/-! ### BAR0 (R47 to R49) -/

/-- A near-side refusal (R209): counted, a NEAR fault. -/
def HDie.near (h : HDie) (access : Nat) : HDie := (h.bump Reg.BRG_NEARERR_COUNT).hostFault 7 access 0

/-- A host access through BAR0: one of a field-die block takes its turn at the field die, and one of a host-die block is performed at once (R49). While 32 BAR4
reads are outstanding a read is not accepted (R206). -/
def bar0 (wr : Bool) (a len : Nat) (data : List Byte) (s : State) : State :=
  if !s.h.reached 0 || (!wr && s.h.npFull) then s
  else if !((len == 4 || len == 8) && a % len == 0) then
    let h := s.h.near (if wr then 1 else 0)
    { s with h := if wr then h else h.hostRead { bar := 0, addr := a, data := [], ur := true } }
  else (barJob wr a len data s.h).start s

/-- A host access to the MSI-X table and pending bits (R89; log 84), in dwords of one or two; read data returns as of BAR 9. While 32
BAR4 reads are outstanding a read is not accepted (R206). -/
def HDie.msix (h : HDie) (wr : Bool) (a len : Nat) (data : List Byte) : HDie :=
  if !h.reached 0 || a % 4 != 0 || (!wr && h.npFull) then h
  else if wr then (upto (len / 4)).foldl (fun g i => g.msixWrite (a + 4 * i) (leNat (slice data (4 * i) 4))) h
  else h.hostRead { bar := 9, addr := a, data := (upto (len / 4)).flatMap fun i => leBytes 4 (h.msixRead (a + 4 * i)), ur := false }

/-- BAR0_ACCESS (R47): a read or a write of `len` bytes; `msix`: of the MSI-X table, whose place the spec does not give (log 84). -/
def execBar0Access (msix wr : Bool) (a : BitVec 24) (len : Nat) (data : List Byte) (s : State) : Host.Outcome State Fault Refusal :=
  if msix then onH (fun h => h.msix wr a.toNat len data) s else onHost (bar0 wr a.toNat len data) s

/-! ### BAR4 (R51 to R53, R206, R209, R210) -/

/-- The first enabled byte of a request. -/
def firstOn (be : List Bool) : Option Nat := be.findIdx? id

/-- The ring address that a BAR4 offset names (R51). -/
def HDie.winAddr (h : HDie) (a : Nat) : Nat :=
  let n := fieldOf a 22 8
  h.rd (Reg.BRG_WIN_HUB n) * 2 ^ 37 + h.rd (Reg.BRG_WIN_EP n) * 2 ^ 27 + h.rd (Reg.BRG_WIN_OFFS n) * 2 ^ 22 + a % 2 ^ 22

/-- The window lets the access through (R52). -/
def HDie.winAllows (h : HDie) (n : Nat) (wr : Bool) : Bool :=
  h.on (Reg.BRG_WIN_EN n) && h.on (if wr then Reg.BRG_WIN_WR_EN n else Reg.BRG_WIN_RD_EN n)

/-- A BAR4 read that waits for its end. -/
def bar4Np (ser op raddr len : Nat) (data : List Byte) (swap : Bool) : NpReq :=
  { ser := ser, kind := 1, q := 0, master := 0x40, hub := 0, rnum := 0, op := op, raddr := raddr, data := data, len := len, sent := 0, resends := 0,
    phase := 3, swap := swap, ur := false }

/-- A BAR4 read, or write, of the bytes from offset a on, once its window's entry has been read from instance 52 (Table 15.1): `lost` where that is uncorrectable, and
the access then ends with DATA_ERROR (Table 15.2). -/
def bar4Go (wr : Bool) (a len : Nat) (data : List Byte) (hole lost : Bool) (s : State) : State :=
  let n := fieldOf a 22 8
  let swap := s.h.on (Reg.BRG_WIN_SWAP n)
  let raddr := s.h.winAddr a
  let f := s.h.freshSer
  let access := if wr then 3 else 2
  let bytes := if swap then swapGroups data else data
  if 256 < a % 256 + len || (wr && hole) || (swap && (a % 4 != 0 || len % 4 != 0)) then
    let h := f.2.near access
    { s with h := if wr then h else (h.keepNp (bar4Np f.1 1 raddr len [] false)).bar4Done f.1 [] true }
  else if lost || !s.h.winAllows n wr then
    let posted := wr && !(s.h.on (Reg.BRG_WIN_WACK n) && s.h.goes (raHub raddr) true ≠ .broadcast)
    let h := if posted then f.2.pwRefused 0x40 raddr (if lost then 7 else 16)
      else f.2.hostFault (if lost then endKind 7 else 1) access (if lost then 7 + s.h.self * 2 ^ 16 else 0)
    { s with h := if wr then h else (h.keepNp (bar4Np f.1 1 raddr len [] false)).bar4Done f.1 (allOnes len) false }
  else if !wr then startNp (bar4Np f.1 1 raddr len [] swap) { s with h := f.2 }
  else if s.h.on (Reg.BRG_WIN_WACK n) && s.h.goes (raHub raddr) true ≠ .broadcast then
    startNp (bar4Np f.1 3 raddr len bytes false) { s with h := f.2 }
  else if s.h.pwFull then s
  else (startPw f.1 0x40 raddr bytes { s with h := f.2 }).2

/-- A BAR4 memory request: byte enables `be` from offset a on, and, for a write, a byte for each. One without an enabled byte reads and writes nothing, and
as a read it completes in its turn. While 32 reads are outstanding a read is not accepted (R206). -/
def bar4 (wr : Bool) (a : Nat) (be : List Bool) (data : List Byte) (s : State) : State :=
  if !s.h.reached 4 || (!wr && s.h.npFull) then s
  else
    match firstOn be with
    | none =>
      if wr then s
      else
        let f := s.h.freshSer
        { s with h := (f.2.keepNp (bar4Np f.1 1 (s.h.winAddr a) 0 [] false)).bar4Done f.1 [] false }
    | some i =>
      let len := be.length - i - (firstOn be.reverse).getD 0
      let w := s.h.readWords 0x40 (if wr then 3 else 2) 52 (fieldOf (a + i) 22 8 / 2) 1
      bar4Go wr (a + i) len (slice data i len) (!((be.drop i).take len).all id) w.2 { s with h := w.1 }

/-- BAR4_ACCESS (R51). -/
def execBar4Access (wr : Bool) (a : BitVec 30) (be : List Bool) (data : List Byte) (s : State) : Host.Outcome State Fault Refusal :=
  onHost (bar4 wr a.toNat be data) s

end Sys2Proof.Machine
end

