-- ==== Sys2Proof/Machine/Bridge.lean ====
section
/-! DEFINITION. The commands of the ring bridge (chapter 8): REQUEST, RESPONSE and ACK frames as they arrive, retries, deadlines and the settlement of
posted writes. -/
namespace Sys2Proof.Machine

/-! ### REQUEST frames at the target (R213, R215) -/

/-- OP of a REQUEST or RESPONSE. -/
def pOp (f : Frame) : Nat := fieldOf (beWord f.payload 0) 28 4
/-- MASTER. -/
def pMaster (f : Frame) : Nat := fieldOf (beWord f.payload 0) 20 8
/-- LEN. -/
def pLen (f : Frame) : Nat := fieldOf (beWord f.payload 0) 0 9
/-- STATUS of a RESPONSE. -/
def pStatus (f : Frame) : Nat := fieldOf (beWord f.payload 0) 16 4
/-- OFFSET of a REQUEST. -/
def qOff (f : Frame) : Nat := fieldOf (beWord f.payload 1) 0 27
/-- RNUM of a REQUEST. -/
def qRnum (f : Frame) : Nat := fieldOf (beWord f.payload 2) 0 16
/-- RNUM of a RESPONSE. -/
def pRnum (f : Frame) : Nat := fieldOf (beWord f.payload 1) 0 16
/-- The bytes that follow the words. -/
def pData (f : Frame) : List Byte := f.payload.drop 16

/-- A REQUEST as R211 lays it out: OP defined, and LEN data bytes after the words of a write. -/
def reqFormed (f : Frame) : Bool :=
  1 ≤ pOp f && pOp f ≤ 3 && f.payload.length == 16 + (if pOp f == 1 then 0 else pLen f)

/-- The frame as it waits for its unit, or as it is given. -/
def HDie.inboxOf (h : HDie) (f : Frame) : Inb :=
  (h.sw.inbox.find? fun b => decide (b.frame = f)).getD { port := 0, stamp := h.tb.now, untrk := false, dup := false, frame := f }

/-- The order record of a source hub and master. -/
def HDie.order (h : HDie) (src master : Nat) : Option OrdRec := h.brg.orders.find? fun r => r.src == src && r.master == master

/-- Replace an order record, which takes two words of instance 50 (Table 15.1, log 181). -/
def HDie.setOrder (h : HDie) (r : OrdRec) : HDie :=
  ({ h with brg.orders := (h.brg.orders.filter fun (x : OrdRec) => !(x.src == r.src && x.master == r.master)) ++ [r] }.useWords 50 (2 * r.slot) 2).showOrd

/-- The lowest free order record. -/
def HDie.orderSlot (h : HDie) : Nat := ((upto 512).find? fun k => !h.brg.orders.any fun r => r.slot == k).getD 0

/-- The record for a request: one that is there, seen now, or a new one that takes the request's number as expected; none while all are in use (R213). -/
def HDie.orderFor (h : HDie) (src master rnum : Nat) : Option OrdRec :=
  match h.order src master with
  | some r => some { r with last := h.tb.now }
  | none =>
    if 512 ≤ h.brg.orders.length then none
    else some { src := src, master := master, next := rnum, last := h.tb.now, held := [], retry := none, slot := h.orderSlot }

/-- A request is answered with RETRY (R213, R215). -/
def HDie.answerRetry (h : HDie) (f : Frame) : HDie :=
  (h.bump Reg.BRG_RETRYTX_COUNT).respond (hSrc f.hdr) (pOp f) (pMaster f) 1 (qRnum f) []

/-- A request is performed (R24, R213): on behalf of its source hub. -/
def performReq (who : Nat) (b : Inb) (s : State) : State :=
  let f := b.frame
  let off := qOff f
  let a : FieldAcc := { acc := 0, who := who, ref := 0, master := pMaster f, op := pOp f, src := hSrc f.hdr, rnum := qRnum f,
                        raddr := s.h.self * 2 ^ 37 + hEp f.hdr * 2 ^ 27 + off, len := pLen f, left := 0, got := [], bad := none }
  perform (hSrc f.hdr) (hEp f.hdr) off (pData f) { stream := hStream f.hdr, seq := hSeq f.hdr, time := b.stamp } a s

/-- The expected request is performed, and then those held behind it that follow without a gap (R213). -/
def performOrdered : Nat → Inb → State → State
  | 0, _, s => s
  | n + 1, b, s =>
    let src := hSrc b.frame.hdr
    let master := pMaster b.frame
    let s1 :=
      match s.h.order src master with
      | none => s
      | some r => { s with h := s.h.setOrder { r with next := (qRnum b.frame + 1) % 65536 } }
    let s2 := performReq 1 b s1
    match s2.h.order src master with
    | none => s2
    | some r =>
      match r.held.find? fun x => qRnum x.frame == r.next with
      | none => s2
      | some x => performOrdered n x { s2 with h := s2.h.setOrder { r with held := r.held.filter fun (y : Inb) => qRnum y.frame != r.next } }

/-- A request at its target (R213, R215): done before, it is a duplicate; with this hub's slot to its source occupied, or behind a request that was
retried, it is retried; out of order it is held, or retried when more than 32 ahead. -/
def orderReq (b : Inb) (s : State) : State :=
  let f := b.frame
  let rnum := qRnum f
  match s.h.orderFor (hSrc f.hdr) (pMaster f) rnum with
  | none => { s with h := s.h.answerRetry f }
  | some r =>
    let d := (rnum + 65536 - r.next) % 65536
    let h0 := s.h.setOrder r
    if 32768 ≤ d || r.held.any (fun x => qRnum x.frame == rnum) then { s with h := h0.bump Reg.BRG_DUPREQ_COUNT }
    else if s.h.slotTaken (hSrc f.hdr) then { s with h := (h0.setOrder { r with retry := some (r.retry.getD rnum) }).answerRetry f }
    else if r.retry.any (fun k => k != rnum) then { s with h := h0.answerRetry f }
    else
      let r1 := { r with retry := none }
      if 32 < d then { s with h := (h0.setOrder r1).answerRetry f }
      else if 0 < d then { s with h := h0.setOrder { r1 with held := r1.held ++ [b] } }
      else performOrdered (r1.held.length + 1) b { s with h := h0.setOrder r1 }

/-- An untracked frame that has been performed once (R147): the source, stream and sequence number of the last 256. -/
def HDie.firstCopy (h : HDie) (b : Inb) : Bool × HDie :=
  let k := (hSrc b.frame.hdr * 4096 + hStream b.frame.hdr, hSeq b.frame.hdr)
  if b.untrk && h.brg.seen.contains k then (false, h) else (true, { h with brg.seen := (k :: h.brg.seen.filter fun x => !(x == k)).take 256 })

/-- A request that reaches an unnumbered hub is answered as one to a non-existent endpoint (R39); a broadcast does not reach it. -/
def HDie.noHub (h : HDie) (f : Frame) : HDie :=
  if hDst f.hdr == 127 then h else h.respond (hSrc f.hdr) (pOp f) (pMaster f) 2 (qRnum f) []

/-- A REQUEST frame waits while the hub is in Rest, which it ends (R30); else `g` has it. -/
def takeRequest (f : Frame) (g : Inb → State → State) (s : State) : State :=
  let b := s.h.inboxOf f
  let h := s.h.takeInbox f
  if !reqFormed f then { s with h := h }
  else if !s.h.numbered then { s with h := h.noHub f }
  else if 2 ≤ s.h.rd Reg.PWM_REST_STATE then { s with h := { h.restTrigger with sw.inbox := h.sw.inbox ++ [b] } }
  else g b { s with h := h }

/-- A broadcast write (R216): of untracked copies the first; counted, and performed. -/
def bcastReq (b : Inb) (s : State) : State :=
  let r := s.h.firstCopy b
  if pOp b.frame != 2 || !r.1 then s
  else performReq 4 b { s with h := r.2.bump Reg.BRG_BCAST_COUNT }

/-- REQUEST_RECEIVED (R213, R215); a frame to every hub is a broadcast write. -/
def execRequestReceived (f : Frame) (s : State) : Host.Outcome State Fault Refusal :=
  onHost (takeRequest f (if hDst f.hdr == 127 then bcastReq else orderReq)) s

/-- BROADCAST_WRITE_RECEIVED (R216). -/
def execBroadcastWriteReceived (f : Frame) (s : State) : Host.Outcome State Fault Refusal :=
  onHost (fun x => if hDst f.hdr == 127 then takeRequest f bcastReq x else x) s

/-- ORDER_RECORD_AGED (R213, Table 8.11): after 100 ms without a request a record is freed, unless it holds one. -/
def HDie.orderAged (h : HDie) (src master : Nat) : HDie :=
  match h.order src master with
  | none => h
  | some r =>
    if r.held.isEmpty then
      let g := h.advance (r.last + ofMs 100)
      { g with brg.orders := g.brg.orders.filter fun (x : OrdRec) => !(x.src == src && x.master == master) }.showOrd
    else h

def execOrderRecordAged (src : Fin 128) (master : Fin 256) (s : State) : Host.Outcome State Fault Refusal :=
  onHost (fun x => { x with h := x.h.orderAged src master }) s

/-! ### RETRY at the originator (R215) -/

/-- The requests of a master to a hub that wait to be resent, oldest first: their RNUM, and whether each is posted. -/
def HDie.waiting (h : HDie) (hub master : Nat) : List (Nat × Bool) :=
  let next := aget h.brg.rnums (master * 128 + hub) 0
  let key := fun (n : Nat) => (n + 65536 - next) % 65536
  let nps := (h.brg.nps.filter fun r => r.hub == hub && r.master == master && r.phase == 1).map fun r => (key r.rnum, (r.rnum, false))
  let pws := (h.brg.posted.filter fun w => w.hub == hub && w.master == master && w.wait).map fun w => (key w.rnum, (w.rnum, true))
  ((nps ++ pws).foldl (fun l e => ains l e.1 e.2) ([] : List (Nat × (Nat × Bool)))).map (·.2)

/-- A non-posted request is sent again; without a path it ends (R135, R215). -/
def HDie.resendNp (h : HDie) (r : NpReq) : HDie :=
  if h.canSend then
    let n := r.resends + 1
    { h with brg.nps := h.brg.nps.map fun (x : NpReq) => if x.ser == r.ser then { x with phase := 0, resends := n } else x }.sendRequest r.hub
      (raEp r.raddr) (requestPayload r.op r.master r.len (raOff r.raddr) n r.rnum r.data)
  else h.noPath.endNp r 3 []

/-- A posted write that PWE is not asked about leaves the store. -/
def HDie.dropUnasked (h : HDie) (w : PostedW) : HDie := if h.pwAsked w then h else h.dropPw w

/-- A posted write is sent again; without a path it fails, and with DATA_ERROR where the store does not give it back (Table 15.2). -/
def HDie.resendPw (h0 : HDie) (w : PostedW) : HDie :=
  let l := h0.pwLoad w
  let h := l.1
  if l.2 then (h.failPw { w with wait := false } 7).dropUnasked w
  else if h.canSend then
    let n := w.resends + 1
    { h with brg.posted := h.brg.posted.map fun (x : PostedW) =>
        if x.hub == w.hub && x.master == w.master && x.rnum == w.rnum then { x with wait := false, resends := n } else x }.sendRequest w.hub
      (raEp w.raddr) (requestPayload 2 w.master w.data.length (raOff w.raddr) n w.rnum w.data)
  else (h.noPath.failPw { w with wait := false } 18).dropUnasked w

/-- Resend in RNUM order. -/
def resendAll (hub master : Nat) : List (Nat × Bool) → HDie → HDie
  | [], h => h
  | e :: es, h =>
    resendAll hub master es
      (if e.2 then (match h.findPw hub master e.1 with | some w => h.resendPw w | none => h)
       else (match h.findNp hub master e.1 with | some r => h.resendNp r | none => h))

/-- This request, and the later ones of its master to its hub, count as not sent (R215). -/
def HDie.unsend (h : HDie) (hub master rnum : Nat) : HDie :=
  { h with
    brg.nps := h.brg.nps.map fun (x : NpReq) =>
      if x.hub == hub && x.master == master && x.phase == 0 && rnumLe rnum x.rnum then { x with phase := 1 } else x
    brg.posted := h.brg.posted.map fun (x : PostedW) =>
      if x.hub == hub && x.master == master && rnumLe rnum x.rnum then { x with wait := true } else x }

/-- BRG_RCFG.RETRIES; 0 acts as 1. -/
def HDie.retries (h : HDie) : Nat := max 1 (h.rd Reg.BRG_RCFG_RETRIES)

/-- A RETRY at the originator (R215): counted; the requests wait to be resent, or, with the resends spent, the request ends with RETRY_EXHAUSTED and the
later ones are resent at once. -/
def HDie.retryIn (h : HDie) (hub master rnum : Nat) : HDie :=
  let g := (h.bump Reg.BRG_RETRYRX_COUNT).unsend hub master rnum
  match h.findNp hub master rnum, h.findPw hub master rnum with
  | some r, _ =>
    if r.phase == 0 && h.retries ≤ r.resends then
      let e := g.endNp r 1 []
      (resendAll hub master (e.waiting hub master) e).settlePw
    else g
  | none, some w =>
    if !w.wait && h.retries ≤ w.resends then
      let e := ((g.failPw w 1).dropUnasked w).settlePw
      (resendAll hub master (e.waiting hub master) e).settlePw
    else g
  | none, none => h.bump Reg.BRG_LATERSP_COUNT

/-- RETRY_RECEIVED (R215). -/
def retryFrame (f : Frame) (h : HDie) : HDie :=
  if pStatus f == 1 then (h.takeInbox f).retryIn (hSrc f.hdr) (pMaster f) (pRnum f) else h

def execRetryReceived (f : Frame) (s : State) : Host.Outcome State Fault Refusal := onHost (fun x => { x with h := retryFrame f x.h }) s

/-- RETRY_WAIT_EXPIRY (R215): the random wait towards a hub is over. -/
def execRetryWaitExpiry (hub : Fin 128) (master : Fin 256) (s : State) : Host.Outcome State Fault Refusal :=
  onHost (fun x => { x with h := (resendAll hub master (x.h.waiting hub master) x.h).settlePw }) s

/-! ### Responses and deadlines (R212 to R214, R219, R220) -/

/-- An error report of a posted write (R219): a second one, and one for a write that is not outstanding, is late. -/
def HDie.reportIn (h : HDie) (hub master rnum status : Nat) : HDie :=
  match h.findPw hub master rnum with
  | none => h.bump Reg.BRG_LATERSP_COUNT
  | some w =>
    if h.brg.reports.any fun r => r.hub == hub && r.master == master && r.rnum == rnum then h.bump Reg.BRG_LATERSP_COUNT
    else
      let g := { h with brg.reports := h.brg.reports ++ [({ hub := hub, master := master, rnum := rnum } : PwReport)] }
      (g.failPw w status).settlePw

/-- ERROR_REPORT_RECEIVED (R219). -/
def reportFrame (f : Frame) (h : HDie) : HDie :=
  if pOp f == 2 && 2 ≤ pStatus f then (h.takeInbox f).reportIn (hSrc f.hdr) (pMaster f) (pRnum f) (pStatus f) else h

def execErrorReportReceived (f : Frame) (s : State) : Host.Outcome State Fault Refusal := onHost (fun x => { x with h := reportFrame f x.h }) s

/-- RESPONSE_RECEIVED (R212, R213): RETRY and error reports act as they do; a response that finds its request sent ends it; any other is late. -/
def responseFrame (f : Frame) (h : HDie) : HDie :=
  if pStatus f == 1 then retryFrame f h
  else if pOp f == 2 then (if 2 ≤ pStatus f then reportFrame f h else (h.takeInbox f).bump Reg.BRG_LATERSP_COUNT)
  else
    let g := h.takeInbox f
    match g.findNp (hSrc f.hdr) (pMaster f) (pRnum f) with
    | some r => if r.phase == 0 && r.op == pOp f then g.endNp r (pStatus f) (pData f) else g.bump Reg.BRG_LATERSP_COUNT
    | none => g.bump Reg.BRG_LATERSP_COUNT

def execResponseReceived (f : Frame) (s : State) : Host.Outcome State Fault Refusal := onHost (fun x => { x with h := responseFrame f x.h }) s

/-- The completion deadline of a request in µs (R214): BAR4_US for BAR4 reads, else RD_US; 0 acts as 1. -/
def HDie.deadlineUs (h : HDie) (r : NpReq) : Nat :=
  max 1 (h.rd (if isBar4 r.kind && r.op = 1 then Reg.BRG_CFG_BAR4_US else Reg.BRG_CFG_RD_US))

/-- COMPLETION_DEADLINE (R214): the request ends with TIMEOUT. -/
def HDie.npDeadline (h : HDie) (hub master rnum : Nat) : HDie :=
  match h.findNp hub master rnum with
  | none => h
  | some r => ((h.advance (r.sent + ofUs (h.deadlineUs r))).bump Reg.BRG_TMO_COUNT).endNp r 17 []

def execCompletionDeadline (hub : Fin 128) (master : Fin 256) (rnum : BitVec 16) (s : State) : Host.Outcome State Fault Refusal :=
  onHost (fun x => { x with h := x.h.npDeadline hub master rnum.toNat }) s

/-- POSTED_WRITE_TIMEOUT (R220): a write that is not settled in time from its first send on fails with TIMEOUT, unless its failure was already reported; it leaves the store, or
waits for PWE's decision. -/
def HDie.pwDeadline (h : HDie) (hub master rnum : Nat) : HDie :=
  match h.findPw hub master rnum with
  | none => h
  | some w =>
    if 120 ≤ hub || w.fid.isSome then h
    else
      let g := (h.advance (w.time + ofUs (max 1 (h.rd Reg.BRG_RCFG_PW_US)))).bump Reg.BRG_TMO_COUNT
      let told := g.brg.reports.any fun r => r.hub == hub && r.master == master && r.rnum == rnum
      ((if told || g.pwAsked w then g else g.failPw w 17).dropUnasked w).settlePw

def execPostedWriteTimeout (hub : Fin 128) (master : Fin 256) (rnum : BitVec 16) (s : State) : Host.Outcome State Fault Refusal :=
  onHost (fun x => { x with h := x.h.pwDeadline hub master rnum.toNat }) s

/-! ### ACK frames (R218) -/

/-- A posted write that has been performed may be acknowledged: no earlier one of its source and master is still being performed. -/
def HDie.ackable (h : HDie) (a : AckDue) : Bool :=
  !(h.brg.accs ++ h.brg.jobs.map (·.acc)).any fun p => p.who == 1 && p.op == 2 && p.src == a.src && p.master == a.master && rnumLe p.rnum a.rnum

/-- The keys of a list, rising, each once. -/
def keysOf (l : List Nat) : List Nat := (l.foldl (fun m k => aput m k ()) ([] : List (Nat × Unit))).map (·.1)

/-- The later of two RNUMs. -/
def rnumMax (a b : Nat) : Nat := if rnumLe a b then b else a

/-- One entry of an ACK (Table 8.7): the writes of a master, their failures, and the last RNUM. -/
def ackWord (l : List AckDue) (master : Nat) : Nat :=
  let mine := l.filter fun a => a.master == master
  let last := match mine with
    | [] => 0
    | a :: r => r.foldl (fun n x => rnumMax n x.rnum) a.rnum
  master * 2 ^ 24 + min 255 (mine.map (·.fails)).sum * 2 ^ 16 + last

/-- The ACK frame to one source: up to 64 masters; the others wait for the next period. -/
def HDie.ackTo (h : HDie) (src : Nat) : HDie :=
  let due := h.brg.acks.filter fun a => a.src == src && h.ackable a
  let masters := (keysOf (due.map (·.master))).take 64
  if masters.isEmpty then h
  else
    { h with brg.acks := h.brg.acks.filter fun (a : AckDue) => !(a.src == src && h.ackable a && masters.contains a.master) }.sourceCtl 7 4 0xFC6 src 0
      (beBytes 4 masters.length ++ (masters.map fun m => ackWord due m).flatMap fun w => beBytes 4 w)

/-- ACK_PERIOD (R218): an ACK to each source hub whose posted writes were performed. -/
def HDie.ackPeriod (h : HDie) : HDie :=
  if h.numbered then (keysOf (h.brg.acks.map (·.src))).foldl (fun g src => g.ackTo src) h else h

def execAckPeriod (s : State) : Host.Outcome State Fault Refusal := onHost (fun x => { x with h := x.h.ackPeriod }) s

/-- The entries of an ACK from a hub. -/
def ackEntries (f : Frame) : List AckDue :=
  (upto (fieldOf (beWord f.payload 0) 0 8)).map fun i =>
    let w := beWord f.payload (i + 1)
    { src := hSrc f.hdr, master := fieldOf w 24 8, fails := fieldOf w 16 8, rnum := fieldOf w 0 16 }

/-- ACK_RECEIVED (R218): its entries settle posted writes; of untracked copies the first counts. -/
def HDie.ackIn (h : HDie) (f : Frame) : HDie :=
  let b := h.inboxOf f
  let r := (h.takeInbox f).firstCopy b
  if r.1 && hType f.hdr == 7 then { r.2 with brg.ackIn := r.2.brg.ackIn ++ ackEntries f }.settlePw else r.2

def execAckReceived (f : Frame) (s : State) : Host.Outcome State Fault Refusal := onHost (fun x => { x with h := x.h.ackIn f }) s

end Sys2Proof.Machine
end

