-- ==== Sys2Proof/Machine/Clock.lean ====
section
/-! DEFINITION. What happens when no command waits: one tick of the time base (R231), with the field die's copy of the time. -/
namespace Sys2Proof.Machine

/-- A tick of the time base adds the increment in force (R231); in chip reset it does not run. -/
def HDie.tick (h : HDie) : HDie := if h.boot.inReset then h else { h with tb.now := h.tb.now + h.tb.inc }

/-- The field time goes on by the same increment while the field die's clock runs. -/
def FDie.tick (f : FDie) : FDie := if f.stage == 0 && f.power != 2 then { f with tb.now := f.tb.now + f.tb.rate } else f

/-- A tick of both dies. What happens at named instants is a command of its own (log 9). -/
def State.tick (s : State) : State := { s with h := s.h.tick, f := s.f.tick }

end Sys2Proof.Machine
end

