-- ==== Sys2Proof/Machine/Age.lean ====
section
/-! DEFINITION. The commands of ageing (chapter 19). -/
namespace Sys2Proof.Machine

/-- Power-on hours pass, each with its junction temperature in 1/16 °C (Table 19.2). -/
def HDie.hours (h : HDie) (ts : List (BitVec 16)) : HDie :=
  ts.foldl
    (fun (g : HDie) t =>
      ({ g.wr Reg.AGE_POH_HOURS (min (2 ^ 32 - 1) (g.rd Reg.AGE_POH_HOURS + 1)) with age.tsum := g.age.tsum + signed 16 t.toNat }).showMean) h

/-- A daily sample of every monitor; as many are kept as the longest window asks for. -/
def HDie.dailySample (h : HDie) : HDie :=
  { h with age.daily := (upto 30).map fun m => (m, ((h.rd (Reg.AGE_MVAL_WEAR m)) :: aget h.age.daily m []).take 256) }

/-- The host die's part of MONITOR_READING (R422, R425): the hours that passed since the last, then every monitor. -/
def HDie.readAll (h : HDie) (ts : List (BitVec 16)) (rs : List (Fin 30 × BitVec 16)) : HDie :=
  let was := h.rd Reg.AGE_POH_HOURS / 24
  let sensed := fun (m : Nat) => (rs.find? fun (r : Fin 30 × BitVec 16) => r.1.val == m).map fun r => r.2.toNat
  let h1 := (upto 30).foldl (fun (g : HDie) m => g.readMonitor m (sensed m)) (h.hours ts)
  if was < h1.rd Reg.AGE_POH_HOURS / 24 then h1.dailySample else h1

/-- MEM_ISTAT_i of each instance of the field die is read across the barrier (R15, R370). -/
def remapReads (s : State) : State := (upto 49).foldl (fun x k => accept (ownRead 7 (64 + k) (0x91004 + 0x40 * (64 + k)) x.h) x) s

/-- MONITOR_READING (R422): the junction temperatures of the hours that passed since the last, and what the sensing monitors read, each in its own
units. -/
def execMonitorReading (ts : List (BitVec 16)) (rs : List (Fin 30 × BitVec 16)) (s : State) : Host.Outcome State Fault Refusal :=
  onHost (fun x => remapReads { x with h := x.h.readAll ts rs }) s

/-- AGEING_RECORD_SAVE: SAVE_H hours have passed. -/
def execAgeingRecordSave (holdupLow : Bool) (s : State) : Host.Outcome State Fault Refusal := onH (fun h => h.saveAt holdupLow) s

/-- AGE_SAVE_COMMAND: AGE_CMD is written. -/
def execAgeSaveCommand (v : Word) (holdupLow : Bool) (s : State) : Host.Outcome State Fault Refusal :=
  onH (fun h => if bitOf v.toNat 0 then h.saveAt holdupLow else h) s

/-- Every second point after the oldest is dropped (R424). -/
def thin {α : Type} : List α → List α
  | a :: _ :: r => a :: thin r
  | l => l

/-- HISTORY_POINT (R424): each monitor's point; where 16 are held they are thinned first. -/
def HDie.historyPoint (h : HDie) : HDie :=
  { h with age.hist := (upto 30).map fun m =>
      let l := h.hist m
      (m, (if 16 ≤ l.length then thin l else l) ++ [(h.ageMonths, h.rd (Reg.AGE_MVAL_WEAR m))]) }

def execHistoryPoint (s : State) : Host.Outcome State Fault Refusal := onH (fun h => h.historyPoint) s

/-- LIFE_ESTIMATE (R425 to R428). -/
def execLifeEstimate (s : State) : Host.Outcome State Fault Refusal := onHost (fun x => { x with h := x.h.lifeEstimate }) s

end Sys2Proof.Machine
end

