-- ==== Sys2Proof/Machine/Barrier.lean ====
section
/-! DEFINITION. The commands of the barrier link (chapter 8): requests and responses, credits, wakes, faults and streams. In each, `toF` says which die takes
the message. -/
namespace Sys2Proof.Machine

/-! ### Credits -/

/-- CREDIT (R224): its absolute credits are applied as the die takes it. -/
def execCredit (toF : Bool) (m : BarMsg) (s : State) : Host.Outcome State Fault Refusal :=
  if toF then onTakeF 0x00 m (fun f => f) s else onTakeH 0x00 m (fun h => h) s

/-- CREDIT_SEND (R222, R224): an end sends what it has given. -/
def execCreditSend (toF : Bool) (s : State) : Host.Outcome State Fault Refusal :=
  onEach
    (fun x =>
      if toF then (if x.h.on Reg.BAR_STAT_UP then { x with h := x.h.toField x.h.brg.bar.creditMsg } else x)
      else if x.f.linkUp then { x with f := x.f.toHost x.f.bar.creditMsg }
      else x) s

/-! ### WAKE and FAULT -/

/-- A WAKE message at the host die (R30, R321, R336): SLEEP_NOTICE is an ordered sleep, and the link stops; any other cause shows the field die awake, and
ends Rest. -/
def wakeIn (m : BarMsg) (s : State) : State :=
  if m.m1.fld 0 8 == 3 then goOn { s with h := (s.h.wr Reg.BAR_FSTAT_ASLEEP 1).linkLost, link := { toF := [], toH := [] } }
  else { s with h := (s.h.wr Reg.BAR_FSTAT_ASLEEP 0).restTrigger }

/-- WAKE (R322, R336): at the field die, HOST ends STANDBY. -/
def execWake (toF : Bool) (m : BarMsg) (s : State) : Host.Outcome State Fault Refusal :=
  if toF then onTakeF 0x02 m (fun f => f.toRun) s
  else onHost (takeH 0x02 m (wakeIn m)) s

/-- FAULT (R373): a fault message of the field die reaches the collector. -/
def execFault (m : BarMsg) (s : State) : Host.Outcome State Fault Refusal := onTakeH 0x03 m (fun h => h.report (faultOf m)) s

/-! ### Requests and responses -/

/-- BARRIER_LINK_LOST (R17): an end hears no valid block for 10 µs; at the host die the accesses that need the link end, and those behind them go on. -/
def execBarrierLinkLost (hEnd fEnd : Bool) (s : State) : Host.Outcome State Fault Refusal := onSplit (fun x => goOn (linkLost_ hEnd fEnd x)) s

/-- FAULT_MESSAGE_RECEIVED (R375): the collector processes the message that is next. -/
def execFaultMessageReceived (s : State) : Host.Outcome State Fault Refusal := onJobs collectOne s

/-- BLOCK_RESET_COMMAND (R372). -/
def execBlockResetCommand (v : Word) (s : State) : Host.Outcome State Fault Refusal := onJobs (blockCommand v.toNat) s

/-- FAULT_INJECT (R388). -/
def execFaultInject (v : Word) (s : State) : Host.Outcome State Fault Refusal := onJobs (inject v.toNat) s

/-- RSP at the host die (R226): the part of an access that waits under its tag ends; a response that is late is discarded. The field die never answers
BACKOFF (R225). -/
def HDie.rspIn (h0 : HDie) (m : BarMsg) : HDie :=
  let h := { h0 with brg.bar := h0.brg.bar.answered (mTag m) }
  match h.brg.waits.find? fun w => w.tag == mTag m with
  | none => h
  | some w =>
    if rspStatus m == 9 then h
    else h.partEnds w (rspStatus m) (slice (leBytes 4 m.m2.toNat ++ leBytes 4 m.m3.toNat) 0 (min w.len (rspLen m)))

/-- RSP at the field die (R225): BACKOFF has the request sent again after 1 µs; else it is over. -/
def FDie.rspIn (f0 : FDie) (m : BarMsg) : FDie :=
  let f := { f0 with bar := f0.bar.answered (mTag m) }
  if rspStatus m == 9 then
    { f with waits := f.waits.map fun (w : FWait) => if mTag w.msg == mTag m then { w with back := true } else w }
  else { f with waits := f.waits.filter fun (w : FWait) => mTag w.msg != mTag m }

def execRsp (toF : Bool) (m : BarMsg) (s : State) : Host.Outcome State Fault Refusal :=
  if toF then onTakeF 0x10 m (fun f => f.rspIn m) s
  else onBoth (fun x => goOn (takeH 0x10 m (fun y => { y with h := y.h.rspIn m }) x)) s

/-- The host die answers BACKOFF (R225): its four slots are full of unsent responses, or its own requests wait for REQ credit. -/
def HDie.backsOff (h : HDie) : Bool :=
  4 ≤ (h.brg.bar.tx.filter fun m => mType m == 0x10).length || (h.brg.bar.tx.any (fun m => classOf (mType m) == 1) && !h.brg.bar.held 1)

/-- A register of the host die, as the field die reads it; what its BAR0 region does not hold reads 0. -/
def fieldReads (m : BarMsg) (s : State) : Nat × List Byte × State :=
  let a := reqOff m
  if reqWin m then (if reqEp m ≤ 11 || (420 ≤ reqEp m && reqEp m ≤ 424) then (4, [], s) else (2, [], s))
  else if 0x100000 ≤ a then (0, List.replicate (reqLen m) 0, s)
  else readPart (reqMaster m) 8 a (reqLen m) s

/-- The field die writes a register of the host die. -/
def fieldWrites (m : BarMsg) (s : State) : Nat × State :=
  let a := reqOff m
  let bs := reqData m
  let k := reqMaster m
  if reqWin m then (if reqEp m ≤ 11 || (420 ≤ reqEp m && reqEp m ≤ 424) then (4, s) else (2, s))
  else if 0x100000 ≤ a then (0, s)
  else if reqLen m == 8 && !isPair a then
    (0, hostWrite s.h.self k (a + 4) (leNat (slice bs 4 4)) (hostWrite s.h.self k a (leNat (slice bs 0 4)) s))
  else (0, writePart s.h.self k a bs s)

/-- A request of the field die at the host die (R225): performed and answered, or answered with BACKOFF. -/
def serveField (wr : Bool) (m : BarMsg) (s : State) : State :=
  if s.h.backsOff then
    { s with h := ((s.h.toField (rspMsg (mTag m) 9 [])).bump Reg.BAR_BACKOFF_COUNT).raise Reg.BAR_EVT_BACKOFF }
  else if wr then
    let r := fieldWrites m s
    if r.2.h.boot.inReset then r.2 else { r.2 with h := r.2.h.toField (rspMsg (mTag m) r.1 []) }
  else
    let r := fieldReads m s
    { r.2.2 with h := r.2.2.h.toField (rspMsg (mTag m) r.1 (if r.1 = 0 then r.2.1 else [])) }

/-- The field die keeps its request until it is answered (R225). -/
def FDie.keepReq (f : FDie) (m : BarMsg) : FDie :=
  if f.waits.any fun w => mTag w.msg == mTag m then f else { f with waits := f.waits ++ [{ msg := m, back := false }] }

/-- A request of the host die at the field die (R225, R226). One that asks for SLEEP is answered first (R320). -/
def reqToField (wr : Bool) (t : Nat) (m : BarMsg) (s : State) : State :=
  let s1 := { s with link.toF := s.link.toF.erase m }.tellPlan
  if !s1.f.linkUp then s1
  else
    let s := s1
    let f := { s.f with bar := (s.f.bar.credits t m).freed t }
    if msgBad true t m then { s1 with f := f.bump Reg.FGL_BRXBAD_COUNT }
    else
      let due := wr && !reqWin m && f.sleepDue (reqOff m) (leNat (slice (reqData m) 0 4))
      let r := fieldAct (fun g => g.serveReq wr m) { s1 with f := f }
      if due then goToSleep r else r

/-- A request taken by the die that it is for. -/
def takeReq (toF wr : Bool) (m : BarMsg) (s : State) : Host.Outcome State Fault Refusal :=
  let t := if wr then 0x31 else 0x30
  if toF then onEach (reqToField wr t m) s
  else onJobs (fun x => takeH t m (serveField wr m) { x with f := if x.f.linkUp then x.f.keepReq m else x.f }) s

/-- REQ_RD (R225, R226). -/
def execReqRd (toF : Bool) (m : BarMsg) (s : State) : Host.Outcome State Fault Refusal := takeReq toF false m s

/-- REQ_WR (R225, R226). -/
def execReqWr (toF : Bool) (m : BarMsg) (s : State) : Host.Outcome State Fault Refusal := takeReq toF true m s

/-- BARRIER_RESPONSE_TIMEOUT (R226): no response by RSP_US; the message ends with TIMEOUT, counted. -/
def HDie.partTimeout (h : HDie) (tag : Nat) : HDie :=
  match h.brg.waits.find? fun w => w.tag == tag with
  | none => h
  | some w => ({ h with brg.bar := h.brg.bar.answered tag }.bump Reg.BAR_TMO_COUNT).partEnds w 8 []

def execBarrierResponseTimeout (tag : Fin 4096) (s : State) : Host.Outcome State Fault Refusal := onJobs (fun x => { x with h := x.h.partTimeout tag }) s

/-- BACKOFF_RESEND (R225): 1 µs after BACKOFF the field die sends its request again. -/
def FDie.resend (f : FDie) (tag : Nat) : FDie :=
  match f.waits.find? fun w => mTag w.msg == tag && w.back with
  | none => f
  | some w =>
    { f with waits := f.waits.map fun (x : FWait) => if mTag x.msg == tag then { x with back := false } else x }.toHost w.msg

def execBackoffResend (tag : Fin 4096) (s : State) : Host.Outcome State Fault Refusal := onF (fun f => f.resend tag) s

/-! ### Streams and undefined messages -/

/-- STREAM at the host die (R223): LAST ends a packet, or an event (R222). -/
def HDie.streamIn (h : HDie) (m : BarMsg) : HDie :=
  let n := strNo m
  let bs := aget h.brg.strIn n [] ++ msgBytes m (strBytes m)
  if isLast m then { h with brg.strIn := adel h.brg.strIn n, brg.strPkts := h.brg.strPkts ++ [(n, bs)] }
  else { h with brg.strIn := aput h.brg.strIn n bs }

def execStream (toF : Bool) (m : BarMsg) (s : State) : Host.Outcome State Fault Refusal :=
  if toF then onTakeF 0x40 m (fun f => f.streamIn m) s else onTakeH 0x40 m (fun h => h.streamIn m) s

/-- The types of Table 8.10 in a direction. -/
def typeKnown (toF : Bool) (t : Nat) : Bool :=
  if toF then [0x00, 0x01, 0x02, 0x10, 0x21, 0x30, 0x31, 0x40, 0x50].contains t
  else [0x00, 0x02, 0x03, 0x10, 0x20, 0x30, 0x31, 0x40, 0x51].contains t

/-- BARRIER_UNDEFINED (R14, R222): dropped and counted; its credits are ignored. A message of a defined type is not this. -/
def undefinedIn (toF : Bool) (m : BarMsg) (s : State) : State :=
  if typeKnown toF (mType m) then s
  else if toF then
    if s.f.linkUp then { s with link.toF := s.link.toF.erase m, f := s.f.bump Reg.FGL_BRXUNDEF_COUNT } else s
  else if s.h.on Reg.BAR_STAT_UP && !s.h.boot.inReset then
    { s with link.toH := s.link.toH.erase m,
             h := ((s.h.bump Reg.BAR_RXMSG_COUNT).bump Reg.BAR_RXUNDEF_COUNT).raise Reg.BAR_EVT_UNDEF }
  else s

def execBarrierUndefined (toF : Bool) (m : BarMsg) (s : State) : Host.Outcome State Fault Refusal := onEach (undefinedIn toF m) s

end Sys2Proof.Machine
end

