-- ==== Sys2Proof/Machine/Dispatch.lean ====
section
/-! DEFINITION. Which meaning each command has: one arm for each constructor of Instr. -/
namespace Sys2Proof.Machine

/-- The effect of a command on everything but the queue. -/
def exec (i : Instr) (s : State) : Host.Outcome State Fault Refusal :=
  match i with
  | .barrierLinkLost hEnd fEnd => Sys2Proof.Machine.execBarrierLinkLost hEnd fEnd s
  | .fieldSafeTimeExpiry => Sys2Proof.Machine.execFieldSafeTimeExpiry s
  | .restRequest => Sys2Proof.Machine.execRestRequest s
  | .restExitRequest => Sys2Proof.Machine.execRestExitRequest s
  | .restExitComplete => Sys2Proof.Machine.execRestExitComplete s
  | .bar0Access msix wr a len data => Sys2Proof.Machine.execBar0Access msix wr a len data s
  | .bar4Access wr a be data => Sys2Proof.Machine.execBar4Access wr a be data s
  | .sqTailDoorbell r => Sys2Proof.Machine.execSqTailDoorbell r s
  | .cqHeadDoorbell r => Sys2Proof.Machine.execCqHeadDoorbell r s
  | .eqHeadDoorbell r => Sys2Proof.Machine.execEqHeadDoorbell r s
  | .brgWinWrite n v => Sys2Proof.Machine.execBrgWinWrite n v s
  | .brgVepWrite v w => Sys2Proof.Machine.execBrgVepWrite v w s
  | .blockLockSet b => Sys2Proof.Machine.execBlockLockSet b s
  | .registerWrite a v => Sys2Proof.Machine.execRegisterWrite a v s
  | .queueEnable kind q v => Sys2Proof.Machine.execQueueEnable kind q v s
  | .sqDisable q => Sys2Proof.Machine.execSqDisable q s
  | .descriptorFetch q ds => Sys2Proof.Machine.execDescriptorFetch q ds s
  | .fetchDmaFailure q => Sys2Proof.Machine.execFetchDmaFailure q s
  | .sendFrame q read => Sys2Proof.Machine.execSendFrame q read s
  | .remoteWrite from_ read => Sys2Proof.Machine.execRemoteWrite from_ read s
  | .remoteRead from_ ok => Sys2Proof.Machine.execRemoteRead from_ ok s
  | .remoteWriteAck from_ read => Sys2Proof.Machine.execRemoteWriteAck from_ read s
  | .fence q => Sys2Proof.Machine.execFence q s
  | .launchAt q read => Sys2Proof.Machine.execLaunchAt q read s
  | .launchTimeReached => Sys2Proof.Machine.execLaunchTimeReached s
  | .cyclicMap q => Sys2Proof.Machine.execCyclicMap q s
  | .rxBuffer q ok => Sys2Proof.Machine.execRxBuffer q ok s
  | .haReply q => Sys2Proof.Machine.execHaReply q s
  | .nop q => Sys2Proof.Machine.execNop q s
  | .inputMapMissing hub n => Sys2Proof.Machine.execInputMapMissing hub n s
  | .outputMapFetch id n r => Sys2Proof.Machine.execOutputMapFetch id n r s
  | .rxRecordHoldTimeout t => Sys2Proof.Machine.execRxRecordHoldTimeout t s
  | .completionWriteFailure q => Sys2Proof.Machine.execCompletionWriteFailure q s
  | .interruptTimerExpiry q => Sys2Proof.Machine.execInterruptTimerExpiry q s
  | .pcieReset kind => Sys2Proof.Machine.execPcieReset kind s
  | .perstDeassert => Sys2Proof.Machine.execPerstDeassert s
  | .portEnableWrite p en => Sys2Proof.Machine.execPortEnableWrite p en s
  | .portTestModeWrite p prbs lpbk => Sys2Proof.Machine.execPortTestModeWrite p prbs lpbk s
  | .retrain p => Sys2Proof.Machine.execRetrain p s
  | .restartPeriodEnd p => Sys2Proof.Machine.execRestartPeriodEnd p s
  | .portSignalDetected p => Sys2Proof.Machine.execPortSignalDetected p s
  | .portRateDetected p rate => Sys2Proof.Machine.execPortRateDetected p rate s
  | .portBlockLock p inv0 inv1 => Sys2Proof.Machine.execPortBlockLock p inv0 inv1 s
  | .portAmLock p log0 log1 skew => Sys2Proof.Machine.execPortAmLock p log0 log1 skew s
  | .trainReqReceived p l c => Sys2Proof.Machine.execTrainReqReceived p l c s
  | .trainStsReceived p l c => Sys2Proof.Machine.execTrainStsReceived p l c s
  | .laneEyeReached p l eyeH eyeV => Sys2Proof.Machine.execLaneEyeReached p l eyeH eyeV s
  | .trainDoneReceived p l => Sys2Proof.Machine.execTrainDoneReceived p l s
  | .configReceived p c => Sys2Proof.Machine.execConfigReceived p c s
  | .configAckReceived p => Sys2Proof.Machine.execConfigAckReceived p s
  | .fecLockTimeout p => Sys2Proof.Machine.execFecLockTimeout p s
  | .trainTimeout p => Sys2Proof.Machine.execTrainTimeout p s
  | .localFaultCondition p l c => Sys2Proof.Machine.execLocalFaultCondition p l c s
  | .remoteFaultDetected p => Sys2Proof.Machine.execRemoteFaultDetected p s
  | .peerRestartReceived p => Sys2Proof.Machine.execPeerRestartReceived p s
  | .faultHoldExpiry p => Sys2Proof.Machine.execFaultHoldExpiry p s
  | .alignmentMarkerReceived p l bip computed corr unc => Sys2Proof.Machine.execAlignmentMarkerReceived p l bip computed corr unc s
  | .ringFrameHeaderReceived p d head free mac cut => Sys2Proof.Machine.execRingFrameHeaderReceived p d head free mac cut s
  | .ringFrameTrailerReceived p payload trailer full => Sys2Proof.Machine.execRingFrameTrailerReceived p payload trailer full s
  | .injectHcrc p => Sys2Proof.Machine.execInjectHcrc p s
  | .injectCrc p => Sys2Proof.Machine.execInjectCrc p s
  | .injectSync p => Sys2Proof.Machine.execInjectSync p s
  | .injectOne p l => Sys2Proof.Machine.execInjectOne p l s
  | .spurInjectOne sp => Sys2Proof.Machine.execSpurInjectOne sp s
  | .spurInjectFcs sp => Sys2Proof.Machine.execSpurInjectFcs sp s
  | .spurFrameReceived sp payload fcsOk free full mac => Sys2Proof.Machine.execSpurFrameReceived sp payload fcsOk free full mac s
  | .spurLinkChange sp block hiber lf rf fec corr unc => Sys2Proof.Machine.execSpurLinkChange sp block hiber lf rf fec corr unc s
  | .spurEnableWrite sp v => Sys2Proof.Machine.execSpurEnableWrite sp v s
  | .frameTransmitStart p mac => Sys2Proof.Machine.execFrameTransmitStart p mac s
  | .streamEntryAged e => Sys2Proof.Machine.execStreamEntryAged e s
  | .pathStatePeriodic => Sys2Proof.Machine.execPathStatePeriodic s
  | .pathStateReceived f => Sys2Proof.Machine.execPathStateReceived f s
  | .memberAbsentTimeout hub => Sys2Proof.Machine.execMemberAbsentTimeout hub s
  | .syncReceived f stamp => Sys2Proof.Machine.execSyncReceived f stamp s
  | .offsetWaitTimeout => Sys2Proof.Machine.execOffsetWaitTimeout s
  | .leadFollowTimeout => Sys2Proof.Machine.execLeadFollowTimeout s
  | .leadLostTimeout => Sys2Proof.Machine.execLeadLostTimeout s
  | .healthReceived f => Sys2Proof.Machine.execHealthReceived f s
  | .healthEntryTimeout hub => Sys2Proof.Machine.execHealthEntryTimeout hub s
  | .leadConfigWrite v => Sys2Proof.Machine.execLeadConfigWrite v s
  | .listenTimerExpiry => Sys2Proof.Machine.execListenTimerExpiry s
  | .takeoverDeadline => Sys2Proof.Machine.execTakeoverDeadline s
  | .mstRequest => Sys2Proof.Machine.execMstRequest s
  | .handover target => Sys2Proof.Machine.execHandover target s
  | .streamLookup src stream => Sys2Proof.Machine.execStreamLookup src stream s
  | .cellLostTimeout fid q cell => Sys2Proof.Machine.execCellLostTimeout fid q cell s
  | .planeRetireDrained plane => Sys2Proof.Machine.execPlaneRetireDrained plane s
  | .planeEnableWrite v => Sys2Proof.Machine.execPlaneEnableWrite v s
  | .rateMeasurement hs => Sys2Proof.Machine.execRateMeasurement hs s
  | .rateLowTimeout => Sys2Proof.Machine.execRateLowTimeout s
  | .bufferConfigWrite q v => Sys2Proof.Machine.execBufferConfigWrite q v s
  | .residueTimeout fid => Sys2Proof.Machine.execResidueTimeout fid s
  | .holdTimerExpiry p => Sys2Proof.Machine.execHoldTimerExpiry p s
  | .holdTimeWrite p v => Sys2Proof.Machine.execHoldTimeWrite p v s
  | .watermarkHoldoffExpiry q => Sys2Proof.Machine.execWatermarkHoldoffExpiry q s
  | .planAdmit => Sys2Proof.Machine.execPlanAdmit s
  | .cyaCheckDone => Sys2Proof.Machine.execCyaCheckDone s
  | .cyclicLaunch => Sys2Proof.Machine.execCyclicLaunch s
  | .fifoPush q w met => Sys2Proof.Machine.execFifoPush q w met s
  | .fifoPop q met => Sys2Proof.Machine.execFifoPop q met s
  | .fifoCommit q met => Sys2Proof.Machine.execFifoCommit q met s
  | .fifoSoftwareRead q met => Sys2Proof.Machine.execFifoSoftwareRead q met s
  | .fifoSoftwareWrite q w met => Sys2Proof.Machine.execFifoSoftwareWrite q w met s
  | .fifoEnableWrite q v => Sys2Proof.Machine.execFifoEnableWrite q v s
  | .requestReceived f => Sys2Proof.Machine.execRequestReceived f s
  | .responseReceived f => Sys2Proof.Machine.execResponseReceived f s
  | .retryReceived f => Sys2Proof.Machine.execRetryReceived f s
  | .retryWaitExpiry hub master => Sys2Proof.Machine.execRetryWaitExpiry hub master s
  | .completionDeadline hub master rnum => Sys2Proof.Machine.execCompletionDeadline hub master rnum s
  | .orderRecordAged src master => Sys2Proof.Machine.execOrderRecordAged src master s
  | .broadcastWriteReceived f => Sys2Proof.Machine.execBroadcastWriteReceived f s
  | .ackPeriod => Sys2Proof.Machine.execAckPeriod s
  | .ackReceived f => Sys2Proof.Machine.execAckReceived f s
  | .errorReportReceived f => Sys2Proof.Machine.execErrorReportReceived f s
  | .postedWriteTimeout hub master rnum => Sys2Proof.Machine.execPostedWriteTimeout hub master rnum s
  | .credit toF m => Sys2Proof.Machine.execCredit toF m s
  | .creditSend toF => Sys2Proof.Machine.execCreditSend toF s
  | .time m => Sys2Proof.Machine.execTime m s
  | .timeMessagePeriod => Sys2Proof.Machine.execTimeMessagePeriod s
  | .wake toF m => Sys2Proof.Machine.execWake toF m s
  | .fault m => Sys2Proof.Machine.execFault m s
  | .rsp toF m => Sys2Proof.Machine.execRsp toF m s
  | .cycIn m => Sys2Proof.Machine.execCycIn m s
  | .cycOut m => Sys2Proof.Machine.execCycOut m s
  | .reqRd toF m => Sys2Proof.Machine.execReqRd toF m s
  | .reqWr toF m => Sys2Proof.Machine.execReqWr toF m s
  | .stream toF m => Sys2Proof.Machine.execStream toF m s
  | .imgData m => Sys2Proof.Machine.execImgData m s
  | .imgStat m => Sys2Proof.Machine.execImgStat m s
  | .barrierUndefined toF m => Sys2Proof.Machine.execBarrierUndefined toF m s
  | .barrierResponseTimeout tag => Sys2Proof.Machine.execBarrierResponseTimeout tag s
  | .backoffResend tag => Sys2Proof.Machine.execBackoffResend tag s
  | .timIncfrWrite fr => Sys2Proof.Machine.execTimIncfrWrite fr s
  | .timeStep force => Sys2Proof.Machine.execTimeStep force s
  | .timeSet force => Sys2Proof.Machine.execTimeSet force s
  | .timeCapture => Sys2Proof.Machine.execTimeCapture s
  | .fieldTimeCapture => Sys2Proof.Machine.execFieldTimeCapture s
  | .cycleConfigWrite v => Sys2Proof.Machine.execCycleConfigWrite v s
  | .cycleStart => Sys2Proof.Machine.execCycleStart s
  | .fieldCycleStart => Sys2Proof.Machine.execFieldCycleStart s
  | .fieldHoldover => Sys2Proof.Machine.execFieldHoldover s
  | .ptpFifoReadId sp tx => Sys2Proof.Machine.execPtpFifoReadId sp tx s
  | .ptpFifoReadSh sp tx => Sys2Proof.Machine.execPtpFifoReadSh sp tx s
  | .clusterEnableWrite c v => Sys2Proof.Machine.execClusterEnableWrite c v s
  | .pinWindowWrite n v => Sys2Proof.Machine.execPinWindowWrite n v s
  | .fioCfgWrite n v => Sys2Proof.Machine.execFioCfgWrite n v s
  | .safeClear => Sys2Proof.Machine.execSafeClear s
  | .fvioOutOfRange b mv => Sys2Proof.Machine.execFvioOutOfRange b mv s
  | .inputLevelChange l v => Sys2Proof.Machine.execInputLevelChange l v s
  | .stringSoftwareSet r v met => Sys2Proof.Machine.execStringSoftwareSet r v met s
  | .stringSoftwareClear r v met => Sys2Proof.Machine.execStringSoftwareClear r v met s
  | .captureInstant n => Sys2Proof.Machine.execCaptureInstant n s
  | .imageSliceConfigWrite n out v => Sys2Proof.Machine.execImageSliceConfigWrite n out v s
  | .bankImageApply n => Sys2Proof.Machine.execBankImageApply n s
  | .bankOutputSet b v => Sys2Proof.Machine.execBankOutputSet b v s
  | .bankOutputClear b v => Sys2Proof.Machine.execBankOutputClear b v s
  | .instructionMemoryWrite c k w v => Sys2Proof.Machine.execInstructionMemoryWrite c k w v s
  | .jmp n => Sys2Proof.Machine.execJmp n s
  | .mov n => Sys2Proof.Machine.execMov n s
  | .pull n met => Sys2Proof.Machine.execPull n met s
  | .push n met => Sys2Proof.Machine.execPush n met s
  | .pushLen n met => Sys2Proof.Machine.execPushLen n met s
  | .shiftOut n => Sys2Proof.Machine.execShiftOut n s
  | .shiftIn n levels => Sys2Proof.Machine.execShiftIn n levels s
  | .shiftOutNb n => Sys2Proof.Machine.execShiftOutNb n s
  | .shiftInNb n levels => Sys2Proof.Machine.execShiftInNb n levels s
  | .setPins n => Sys2Proof.Machine.execSetPins n s
  | .waitPin n => Sys2Proof.Machine.execWaitPin n s
  | .waitPinUntilTimeout n => Sys2Proof.Machine.execWaitPinUntilTimeout n s
  | .setString n met => Sys2Proof.Machine.execSetString n met s
  | .clrString n met => Sys2Proof.Machine.execClrString n met s
  | .waitString n => Sys2Proof.Machine.execWaitString n s
  | .engAt n met => Sys2Proof.Machine.execEngAt n met s
  | .atAct n met => Sys2Proof.Machine.execAtAct n met s
  | .stamp n => Sys2Proof.Machine.execStamp n s
  | .irq n => Sys2Proof.Machine.execIrq n s
  | .sync n => Sys2Proof.Machine.execSync n s
  | .swap c => Sys2Proof.Machine.execSwap c s
  | .forceSwap c => Sys2Proof.Machine.execForceSwap c s
  | .forcedSwapEffect c => Sys2Proof.Machine.execForcedSwapEffect c s
  | .canModeWrite n v => Sys2Proof.Machine.execCanModeWrite n v s
  | .canModeEffect n => Sys2Proof.Machine.execCanModeEffect n s
  | .busIntegrationDone n => Sys2Proof.Machine.execBusIntegrationDone n s
  | .canTimingWrite n which v => Sys2Proof.Machine.execCanTimingWrite n which v s
  | .canFrameReceived n e0 e1 bytes time => Sys2Proof.Machine.execCanFrameReceived n e0 e1 bytes time s
  | .canProtocolException n => Sys2Proof.Machine.execCanProtocolException n s
  | .rxqGetWrite n j v => Sys2Proof.Machine.execRxqGetWrite n j v s
  | .txReq n k => Sys2Proof.Machine.execTxReq n k s
  | .txCancel n k => Sys2Proof.Machine.execTxCancel n k s
  | .canCommitPoint n time => Sys2Proof.Machine.execCanCommitPoint n time s
  | .canFrameSent n loop => Sys2Proof.Machine.execCanFrameSent n loop s
  | .canArbitrationLost n => Sys2Proof.Machine.execCanArbitrationLost n s
  | .canError n code dataPhase odd loop => Sys2Proof.Machine.execCanError n code dataPhase odd loop s
  | .canLaunchTimeReached n k => Sys2Proof.Machine.execCanLaunchTimeReached n k s
  | .canLateTimeout n k => Sys2Proof.Machine.execCanLateTimeout n k s
  | .streamPoolLoad n => Sys2Proof.Machine.execStreamPoolLoad n s
  | .boRecover n => Sys2Proof.Machine.execBoRecover n s
  | .busOffRecoveryDone n => Sys2Proof.Machine.execBusOffRecoveryDone n s
  | .dominantTimeout n => Sys2Proof.Machine.execDominantTimeout n s
  | .powerRequestRun => Sys2Proof.Machine.execPowerRequestRun s
  | .powerRequestStandby => Sys2Proof.Machine.execPowerRequestStandby s
  | .powerRequestSleep => Sys2Proof.Machine.execPowerRequestSleep s
  | .fieldClockLocked => Sys2Proof.Machine.execFieldClockLocked s
  | .fwake => Sys2Proof.Machine.execFwake s
  | .transceiverModeWrite n m => Sys2Proof.Machine.execTransceiverModeWrite n m s
  | .goSleepTimerExpiry n => Sys2Proof.Machine.execGoSleepTimerExpiry n s
  | .wupDetected n => Sys2Proof.Machine.execWupDetected n s
  | .fvcanUndervoltage => Sys2Proof.Machine.execFvcanUndervoltage s
  | .fvsupLost => Sys2Proof.Machine.execFvsupLost s
  | .nmEnableWrite n v => Sys2Proof.Machine.execNmEnableWrite n v s
  | .nmNeedWrite n b => Sys2Proof.Machine.execNmNeedWrite n b s
  | .keepAliveTimer n => Sys2Proof.Machine.execKeepAliveTimer n s
  | .readySleepTimerExpiry n => Sys2Proof.Machine.execReadySleepTimerExpiry n s
  | .prepareSleepTimerExpiry n ka => Sys2Proof.Machine.execPrepareSleepTimerExpiry n ka s
  | .groomSample samples => Sys2Proof.Machine.execGroomSample samples s
  | .groomConfigWrite rule e v => Sys2Proof.Machine.execGroomConfigWrite rule e v s
  | .feedMeasurement n vin vout uv => Sys2Proof.Machine.execFeedMeasurement n vin vout uv s
  | .diodeReading n t => Sys2Proof.Machine.execDiodeReading n t s
  | .limitingOnset n => Sys2Proof.Machine.execLimitingOnset n s
  | .limitingEnd n => Sys2Proof.Machine.execLimitingEnd n s
  | .faultTimerExpiry n ended => Sys2Proof.Machine.execFaultTimerExpiry n ended s
  | .feedEnableWrite n v => Sys2Proof.Machine.execFeedEnableWrite n v s
  | .inputGood n => Sys2Proof.Machine.execInputGood n s
  | .rampTimerExpiry n => Sys2Proof.Machine.execRampTimerExpiry n s
  | .fullyOn n => Sys2Proof.Machine.execFullyOn n s
  | .pgDelayExpiry n limits => Sys2Proof.Machine.execPgDelayExpiry n limits s
  | .faultFreePeriod n => Sys2Proof.Machine.execFaultFreePeriod n s
  | .coolEnd n off => Sys2Proof.Machine.execCoolEnd n off s
  | .vinOutOfRange n => Sys2Proof.Machine.execVinOutOfRange n s
  | .reverseCurrent n => Sys2Proof.Machine.execReverseCurrent n s
  | .warnHoldExpiry => Sys2Proof.Machine.execWarnHoldExpiry s
  | .memoryScrubRead e found again vote => Sys2Proof.Machine.execMemoryScrubRead e found again vote s
  | .mergeWriteBack e found => Sys2Proof.Machine.execMergeWriteBack e found s
  | .memoryFlush => Sys2Proof.Machine.execMemoryFlush s
  | .remapWrite e k v => Sys2Proof.Machine.execRemapWrite e k v s
  | .injectionArm e v => Sys2Proof.Machine.execInjectionArm e v s
  | .injectionRewrite e v => Sys2Proof.Machine.execInjectionRewrite e v s
  | .faultMessageReceived => Sys2Proof.Machine.execFaultMessageReceived s
  | .blockResetCommand v => Sys2Proof.Machine.execBlockResetCommand v s
  | .blockResetDone d => Sys2Proof.Machine.execBlockResetDone d s
  | .shadowClose d => Sys2Proof.Machine.execShadowClose d s
  | .ladderStepDecay src => Sys2Proof.Machine.execLadderStepDecay src s
  | .pendClear src => Sys2Proof.Machine.execPendClear src s
  | .fecClear => Sys2Proof.Machine.execFecClear s
  | .faultInject v => Sys2Proof.Machine.execFaultInject v s
  | .fieldFaultInject v => Sys2Proof.Machine.execFieldFaultInject v s
  | .supplyOutOfRange rail out => Sys2Proof.Machine.execSupplyOutOfRange rail out s
  | .junctionOvertemp field t => Sys2Proof.Machine.execJunctionOvertemp field t s
  | .clockLoss n lost => Sys2Proof.Machine.execClockLoss n lost s
  | .watchdog => Sys2Proof.Machine.execWatchdog s
  | .functionConfigWrite f v => Sys2Proof.Machine.execFunctionConfigWrite f v s
  | .functionStartDone f => Sys2Proof.Machine.execFunctionStartDone f s
  | .functionDrainDone f => Sys2Proof.Machine.execFunctionDrainDone f s
  | .haRequestDeadline f cookie => Sys2Proof.Machine.execHaRequestDeadline f cookie s
  | .coreHaReply hub f cookie d arg => Sys2Proof.Machine.execCoreHaReply hub f cookie d arg s
  | .eventFrameReceived f => Sys2Proof.Machine.execEventFrameReceived f s
  | .updateStart slot motionLow holdupLow => Sys2Proof.Machine.execUpdateStart slot motionLow holdupLow s
  | .updateProgram => Sys2Proof.Machine.execUpdateProgram s
  | .programDone good => Sys2Proof.Machine.execProgramDone good s
  | .updateCheck => Sys2Proof.Machine.execUpdateCheck s
  | .checkDone => Sys2Proof.Machine.execCheckDone s
  | .updateActivate motionLow holdupLow => Sys2Proof.Machine.execUpdateActivate motionLow holdupLow s
  | .classMImageStarted => Sys2Proof.Machine.execClassMImageStarted s
  | .updateConfirm core expired => Sys2Proof.Machine.execUpdateConfirm core expired s
  | .updateAbort => Sys2Proof.Machine.execUpdateAbort s
  | .confirmWindowExpiry => Sys2Proof.Machine.execConfirmWindowExpiry s
  | .classFHealthTimeout => Sys2Proof.Machine.execClassFHealthTimeout s
  | .motionBroadcast => Sys2Proof.Machine.execMotionBroadcast s
  | .motionTimeout => Sys2Proof.Machine.execMotionTimeout s
  | .ownerWrite hub v => Sys2Proof.Machine.execOwnerWrite hub v s
  | .monitorReading ts rs => Sys2Proof.Machine.execMonitorReading ts rs s
  | .cycleTotalUpdate => Sys2Proof.Machine.execCycleTotalUpdate s
  | .ageingRecordSave holdupLow => Sys2Proof.Machine.execAgeingRecordSave holdupLow s
  | .ageSaveCommand v holdupLow => Sys2Proof.Machine.execAgeSaveCommand v holdupLow s
  | .historyPoint => Sys2Proof.Machine.execHistoryPoint s
  | .lifeEstimate => Sys2Proof.Machine.execLifeEstimate s
  | .hostRailLoss rail => Sys2Proof.Machine.execHostRailLoss rail s
  | .rstNAssert => Sys2Proof.Machine.execRstNAssert s
  | .softReset v => Sys2Proof.Machine.execSoftReset v s
  | .fieldReset => Sys2Proof.Machine.execFieldReset s
  | .jtagReset => Sys2Proof.Machine.execJtagReset s
  | .chipResetRelease high hubId => Sys2Proof.Machine.execChipResetRelease high hubId s
  | .bootImageLoaded => Sys2Proof.Machine.execBootImageLoaded s
  | .fieldPowerOn => Sys2Proof.Machine.execFieldPowerOn s
  | .barrierLinkUp lat => Sys2Proof.Machine.execBarrierLinkUp lat s
  | .hubNumberRequest v => Sys2Proof.Machine.execHubNumberRequest v s
  | .claimResend => Sys2Proof.Machine.execClaimResend s
  | .claimTimeout => Sys2Proof.Machine.execClaimTimeout s
  | .claimReceived f => Sys2Proof.Machine.execClaimReceived f s
  | .objectReceived f => Sys2Proof.Machine.execObjectReceived f s
  | .joinedReceived f => Sys2Proof.Machine.execJoinedReceived f s
  | .joinedPeriod => Sys2Proof.Machine.execJoinedPeriod s
  | .readyWrite v => Sys2Proof.Machine.execReadyWrite v s
  | .restEntryComplete => Sys2Proof.Machine.execRestEntryComplete s
  | .fvioInRange b mv => Sys2Proof.Machine.execFvioInRange b mv s
  | .engineNop n => Sys2Proof.Machine.execEngineNop n s
  | .illegalInstruction n => Sys2Proof.Machine.execIllegalInstruction n s
  | .bootRecordWritten => Sys2Proof.Machine.execBootRecordWritten s
  | .prbsLockChange u lock errors => Sys2Proof.Machine.execPrbsLockChange u lock errors s
  | .fecLockAcquired p => Sys2Proof.Machine.execFecLockAcquired p s
  | .pcieLinkUp width speed => Sys2Proof.Machine.execPcieLinkUp width speed s
  | .holdupNRise => Sys2Proof.Machine.execHoldupNRise s
  | .frameSent p => Sys2Proof.Machine.execFrameSent p s

end Sys2Proof.Machine
end

