-- ==== Sys2Proof/Safety.lean ====
section
/-! DEFINITION. The terms that claims use: what a command leads to beyond its own effect, the canonical forms of what State keeps as lists, a hub without
anything half done, and a host die that chip reset holds. -/
namespace Sys2Proof.Machine

/-! ### What a command leads to -/

/-- The state with another host die. -/
abbrev State.withH (s : State) (h : HDie) : State := { s with h := h }

/-- The state with another field die. -/
abbrev State.withF (s : State) (f : FDie) : State := { s with f := f }


/-- After its own effect on the host die: requests to peers leave, and the barrier's transmitter sends. -/
def afterHost (s : State) (h : HDie) : State := carryH { s with h := h.settle }

/-- After an effect `u` that a unit's port or the function split may follow: ports and functions follow it, withdrawn requests are decided, and what either die
leaves for the ring and the barrier is sent. -/
def afterSplit (s u : State) : State :=
  let v := followUp s.h u
  carryF (carryH { v with h := v.h.settle, pending := s.pending })

/-- After its own effect on the field die: stalled engines that it serves go on, requests of its functions leave, and messages are sent. -/
def afterField (s : State) (f : FDie) : State := { carryF (carryH (fieldAct (fun _ => f) s)) with pending := s.pending }

/-- After an effect `u` of a command of both dies: requests to peers leave, and both transmitters send. -/
def afterBoth (s u : State) : State := carryF (carryH { u with h := u.h.settle, pending := s.pending })

/-- A message of type t has reached the host die and is good (R222, R224): it has left the link, is counted, and its credits count. -/
def hostTook (t : Nat) (m : BarMsg) (s : State) : State :=
  { s with link.toH := s.link.toH.erase m, h := { s.h.bump Reg.BAR_RXMSG_COUNT with brg.bar := (s.h.brg.bar.credits t m).freed t } }

/-- A message of type t has reached the field die and is good; the space of a STREAM message is freed only once it has left the barrier queue. -/
def fieldTook (t : Nat) (m : BarMsg) (s : State) : State :=
  let b := s.f.bar.credits t m
  { s with link.toF := s.link.toF.erase m, f := { s.f with bar := if t == 0x40 then b else b.freed t } }

/-! ### An engine that issues -/

/-- Engine n is RUNNING and not held, microcode runs, the word at its PC reads without an uncorrectable error, has opcode `op`, meets no cause of Table 11.5, and no
forced swap holds it: it issues (R276, R288, R291). -/
def FDie.issues (f : FDie) (n op : Nat) : Prop :=
  let r := f.fetchCheck 0xFF 0xB (n / 8) (f.rd (Reg.MAR_CCTL_ACTIVE (n / 8))) (f.er Reg.MAR_ESTAT_PC n)
  f.er Reg.MAR_ESTAT_STATE n = 1 ∧ (f.eng n).held = false ∧ f.stage = 0 ∧ r.2 = false ∧ fieldOf (f.fetch n) 27 5 = op ∧
    r.1.engFault n (f.fetch n) = none ∧ (r.1.forcing.contains (n / 8) && twoClock (f.fetch n)) = false

/-- The field die as the instruction finds it: fetched, with PC at the next word, after word 511 at word 0 (R276). -/
def FDie.issued (f : FDie) (n : Nat) : FDie :=
  (f.fetchCheck 0xFF 0xB (n / 8) (f.rd (Reg.MAR_CCTL_ACTIVE (n / 8))) (f.er Reg.MAR_ESTAT_PC n)).1.ew Reg.MAR_ESTAT_PC n ((f.er Reg.MAR_ESTAT_PC n + 1) % 512)

/-! ### Forms and states -/

/-- The lists of State that have one canonical form: host memory as the hub wrote it, and both register files. -/
def State.canonical (s : State) : Bool := Memory.wf s.h.hostq.hostMem && Regs.wf s.h.regs && Regs.wf s.f.regs

/-- Chip reset holds the host die (R433): nothing of it waits to act or to be sent, and its end of the barrier link is down. -/
def HDie.heldInReset (h : HDie) : Prop :=
  h.boot.inReset = true ∧ h.spl.peerOut = [] ∧ h.spl.owed = [] ∧ h.spl.reqs = [] ∧ h.brg.bar.tx = [] ∧ h.rd Reg.BAR_STAT_UP = 0

/-- Nothing that the host die keeps between commands is left, but for registers, faults, the flash and what stands outside it: host memory, the MSI-X messages that
have left, and what the host has read. -/
def HDie.emptied (h : HDie) : Prop :=
  h.hostq = { HostQ.clear with hostMem := h.hostq.hostMem, msixSent := h.hostq.msixSent } ∧ h.sw = Switch.clear ∧ h.ports = HDie.clear.ports ∧
    h.spurs = HDie.clear.spurs ∧ h.red = Redun.clear ∧ h.brg = { Bridge.clear with reads := h.brg.reads } ∧ h.tb = TimeB.clear ∧ h.spl = Split.clear

/-- The commands that begin a chip reset, or end it (R433, R434). -/
def resetCommand (c : Instr) : Bool :=
  match c with
  | .hostRailLoss _ => true
  | .rstNAssert => true
  | .jtagReset => true
  | .softReset _ => true
  | .fieldReset => true
  | .chipResetRelease _ _ => true
  | _ => false

/-- The commands of the field die: what its units, its pins and its clock do, and what software writes there. -/
def fieldCommand (c : Instr) : Bool :=
  match c with
  | .fieldSafeTimeExpiry .. | .fifoPush .. | .fifoPop .. | .fifoCommit .. | .fifoSoftwareRead .. | .fifoSoftwareWrite .. | .fifoEnableWrite ..
  | .time .. | .cycOut .. | .imgData .. | .backoffResend .. | .fieldTimeCapture .. | .fieldCycleStart .. | .fieldHoldover .. | .clusterEnableWrite ..
  | .pinWindowWrite .. | .fioCfgWrite .. | .safeClear .. | .fvioOutOfRange .. | .inputLevelChange .. | .stringSoftwareSet .. | .stringSoftwareClear ..
  | .captureInstant .. | .imageSliceConfigWrite .. | .bankImageApply .. | .bankOutputSet .. | .bankOutputClear .. | .instructionMemoryWrite ..
  | .jmp .. | .mov .. | .pull .. | .push .. | .pushLen .. | .shiftOut .. | .shiftIn .. | .shiftOutNb .. | .shiftInNb .. | .setPins .. | .waitPin ..
  | .waitPinUntilTimeout .. | .setString .. | .clrString .. | .waitString .. | .engAt .. | .atAct .. | .stamp .. | .irq .. | .sync .. | .swap ..
  | .forceSwap .. | .forcedSwapEffect .. | .canModeWrite .. | .canModeEffect .. | .busIntegrationDone .. | .canTimingWrite .. | .canFrameReceived ..
  | .canProtocolException .. | .rxqGetWrite .. | .txReq .. | .txCancel .. | .canCommitPoint .. | .canFrameSent .. | .canArbitrationLost ..
  | .canError .. | .canLaunchTimeReached .. | .canLateTimeout .. | .streamPoolLoad .. | .boRecover .. | .busOffRecoveryDone .. | .dominantTimeout ..
  | .powerRequestRun .. | .powerRequestStandby .. | .fieldClockLocked .. | .transceiverModeWrite .. | .goSleepTimerExpiry .. | .wupDetected ..
  | .fvcanUndervoltage .. | .fvsupLost .. | .nmEnableWrite .. | .nmNeedWrite .. | .keepAliveTimer .. | .readySleepTimerExpiry ..
  | .prepareSleepTimerExpiry .. | .groomSample .. | .groomConfigWrite .. | .feedMeasurement .. | .diodeReading .. | .limitingOnset ..
  | .limitingEnd .. | .faultTimerExpiry .. | .feedEnableWrite .. | .inputGood .. | .rampTimerExpiry .. | .fullyOn .. | .pgDelayExpiry ..
  | .faultFreePeriod .. | .coolEnd .. | .vinOutOfRange .. | .reverseCurrent .. | .warnHoldExpiry .. | .fieldFaultInject .. | .fieldPowerOn ..
  | .fvioInRange .. | .engineNop .. | .illegalInstruction .. => true
  | _ => false

/-- Commands of the host die whose own effect neither completes a descriptor nor posts an event, and writes no record and no slot. -/
def quietCommand (c : Instr) : Bool :=
  match c with
  | .sqDisable .. | .outputMapFetch .. | .interruptTimerExpiry .. | .restartPeriodEnd .. | .portRateDetected .. | .portBlockLock ..
  | .trainStsReceived .. | .laneEyeReached .. | .trainDoneReceived .. | .faultHoldExpiry .. | .alignmentMarkerReceived .. | .injectHcrc ..
  | .injectCrc .. | .injectSync .. | .injectOne .. | .spurInjectOne .. | .spurInjectFcs .. | .streamEntryAged .. | .offsetWaitTimeout ..
  | .leadFollowTimeout .. | .healthReceived .. | .healthEntryTimeout .. | .leadConfigWrite .. | .handover .. | .planeRetireDrained ..
  | .planeEnableWrite .. | .rateMeasurement .. | .rateLowTimeout .. | .planAdmit .. | .creditSend .. | .timeMessagePeriod .. | .barrierUndefined ..
  | .timIncfrWrite .. | .timeCapture .. | .cycleConfigWrite .. | .ptpFifoReadId .. | .ptpFifoReadSh .. | .shadowClose .. | .ladderStepDecay ..
  | .fecClear .. | .motionTimeout .. | .ownerWrite .. | .ageingRecordSave .. | .ageSaveCommand .. | .historyPoint .. | .hostRailLoss ..
  | .rstNAssert .. | .softReset .. | .fieldReset .. | .jtagReset .. | .joinedReceived .. | .readyWrite .. | .prbsLockChange .. | .holdupNRise .. => true
  | _ => false

/-- No function of the split is in an HA mode, and no request is on its way: what asks is decided as in HW. -/
def State.unasked (s : State) : Prop := (∀ f, s.h.modeOf f = 0) ∧ s.h.spl.peerOut = []

/-- A hub that has no number yet, or is claiming one, shows none (R38, R442). -/
def HDie.joinSound (h : HDie) : Prop := h.rd Reg.GLB_JOIN_STATE ≤ 1 → h.hubNum = 0x7F

end Sys2Proof.Machine
end

