-- ==== Sys2Proof/Certificates/Slice0/Obligations.lean ====
section
/-! DEFINITION. The statements about the hub that the provers prove: what each command does, what it leaves alone, and what holds of every step. -/
open Sys2Proof Sys2Proof.Machine

/-! ### The queue, reset and the clock -/

/-- The command at the front of the queue acts on the state with the queue's rest. -/
def Obligations.StepPerformsFrontCommand : Prop :=
  ∀ (c : Instr) (cs : List Instr) (s : State), s.pending = c :: cs → step s = exec c { s with pending := cs }

/-- With no command waiting a step is one tick: the time base grows by its increment in 2^-32 ns and nothing but the two clocks changes (the model's
choice, log 1).
Any number of commands are taken from the front, one a step, first in first out, and none stops the hub. -/
def Obligations.StepsAndTheQueue : Prop :=
  (∀ s : State, s.pending = [] →
     ∃ t, step s = .next t ∧ t = { s with h.tb := t.h.tb, f.tb := t.f.tb } ∧
       (s.h.boot.inReset = false → t.h.tb = { s.h.tb with now := s.h.tb.now + s.h.tb.inc })) ∧
  (∀ (k : Nat) (s : State), k ≤ s.pending.length → ∃ t, core.run k s = .next t ∧ t.pending = s.pending.drop k)

/-- Whatever step is taken, a command's or a tick, chip reset goes on holding the host die, and nothing of it changes, but by the commands that begin or end a chip
reset themselves (R433 to R435 say that the host die is held; that nothing of it changes meanwhile is the model's choice, log 15). -/
def Obligations.ChipResetHoldsTheHostDie : Prop :=
  ∀ s : State, s.h.heldInReset → (∀ c, s.pending.head? = some c → resetCommand c = false) →
    ∃ t, step s = .next t ∧ t.h = s.h ∧ t.h.heldInReset ∧ t.pending = s.pending.tail

/-- Every trigger of a chip reset leaves the host die held in reset and emptied, and host memory as it was: no host queue holds a descriptor, record, buffer, map,
event or launch, no frame is stored in the switch core, the ring ports, spurs, stream table, bridges, time base and function split are as after power-on, and the
link of the barrier is down at the host die. -/
def Obligations.ResetTriggersHoldTheHostDie : Prop :=
  ∀ (s : State) (r : Fin 7) (v : Word), s.h.boot.inReset = false →
    let held := fun (t : State) => t.h.heldInReset ∧ t.h.emptied ∧ t.h.hostq.hostMem = s.h.hostq.hostMem
    (∃ t, exec (.hostRailLoss r) s = .next t ∧ held t) ∧
    (∃ t, exec .rstNAssert s = .next t ∧ held t) ∧
    (∃ t, exec .jtagReset s = .next t ∧ held t) ∧
    (fieldOf v.toNat 16 16 = 0xC4A5 → bitOf v.toNat 0 = true → ∃ t, exec (.softReset v) s = .next t ∧ held t) ∧
    (∃ t, exec .fieldReset s = .next t ∧ held t)

/-! ### Host queues (chapter 3) -/

/-- A submission queue's tail doorbell (R62): ignored with DB_IGNORED where the queue is disabled, with a QUEUE_ERROR where the index is out of range or
withdraws descriptors; else TAIL takes the index. Whatever it does, it is a trigger that ends Rest (R30). A read of BAR2 returns 0, a write outside the
doorbells is ignored (R50), and a hub that the host does not reach through BAR2 does nothing.
A head doorbell of an enabled completion queue, or of the event queue, with an index in range that does not take entries back (R62, R64): the entries are
released, the queue is armed again, and what waited for room goes on. -/
def Obligations.Doorbells : Prop :=
  (∀ (s : State) (q : Fin 64) (r : Bar2), s.h.boot.inReset = false →
     let h := s.h
     let v := r.data.toNat % 2 ^ 32
     let i := v % 65536
     (h.reached 2 = true → r.wr = true → r.len = 4 ∨ r.len = 8 → r.a.toNat = 8 * q.val →
       exec (.sqTailDoorbell r) s = .next (afterHost s
         (if h.rd (Reg.PCI_SQCFG_EN q) = 0 then h.restTrigger.wr Reg.PCI_ERR_DB_IGNORED 1
          else if h.sqSize q ≤ i then h.restTrigger.queueError 0 q 1 v
          else if (i + h.sqSize q - h.rd (Reg.PCI_SQSTAT_HEAD q)) % h.sqSize q < h.sqAvail q then h.restTrigger.queueError 0 q 2 v
          else (h.restTrigger.wr (Reg.PCI_SQTAIL_TAIL q) i).stalls (h.rd (Reg.PCI_SQCFG_CQ q))))) ∧
     (h.reached 2 = true → r.wr = false → (h.brg.nps.filter fun x => x.kind == 1 && x.op == 1).length < 32 →
       ∀ c ∈ [Instr.sqTailDoorbell r, .cqHeadDoorbell r, .eqHeadDoorbell r],
         exec c s = .next (afterHost s (h.hostRead { bar := 2, addr := r.a.toNat, data := List.replicate r.len 0, ur := false }))) ∧
     (h.reached 2 = false ∨ (r.wr = true ∧ (r.a.toNat % 8 ≠ 0 ∨ 0x808 ≤ r.a.toNat)) →
       ∀ c ∈ [Instr.sqTailDoorbell r, .cqHeadDoorbell r, .eqHeadDoorbell r], exec c s = .next (afterHost s h))) ∧
  (∀ (s : State) (q : Fin 64) (r : Bar2), s.h.boot.inReset = false → s.h.reached 2 = true → r.wr = true → r.len = 4 ∨ r.len = 8 →
     let h := s.h
     let i := r.data.toNat % 2 ^ 32 % 65536
     let left := fun (k : Nat) => (h.rd (cqRegs k).tail + h.cqSize k - i) % h.cqSize k
     let released := fun (k : Nat) =>
       ((h.restTrigger.setCq { h.cq k with head := i, unsig := left k, since := h.tb.now }).wr (cqRegs k).armed 1).moderate k
     (r.a.toNat = 0x400 + 8 * q.val → h.rd (cqRegs q).en ≠ 0 → i < h.cqSize q → left q ≤ (h.rd (cqRegs q).tail + h.cqSize q - (h.cq q).head) % h.cqSize q →
       exec (.cqHeadDoorbell r) s = .next (afterHost s (retireBound q (h.hostq.sqs.map (·.q)) (released q)))) ∧
     (r.a.toNat = 0x800 → h.rd (cqRegs 64).en ≠ 0 → i < h.cqSize 64 → left 64 ≤ (h.rd (cqRegs 64).tail + h.cqSize 64 - (h.cq 64).head) % h.cqSize 64 →
       exec (.eqHeadDoorbell r) s = .next (afterHost s (released 64).drain)))

/-- A queue is enabled in the host-attached role (R59, R60, R90): with head and tail 0, a completion or event queue with phase 1 and armed; a bad size, a
base that is not aligned to 4 KiB, or a submission queue bound to a completion queue that is not enabled leaves EN at 0 and sets CFG_REFUSED; the other fields of
a refused write are stored (the model's choice, log 153). An event queue that is enabled is served again and takes the events that wait (R33, R66). A completion
queue is not disabled while an enabled submission queue is bound to it: that write is ignored whole; else it stores its fields and clears EN. In the remote role an enable sets CFG_REFUSED
and nothing else. SQ_DISABLE clears EN.
A failed fetch halts the submission queue with a QUEUE_ERROR FETCH_DMA (R86); a failed entry halts its queue, with a QUEUE_ERROR WRITE_DMA for a completion
queue (R88); the moderation timer signals an armed queue with unsignalled entries once MOD.TIMER has passed since the oldest (R90); a record that no buffer took
in 10 µs is dropped, counted and posted (R81); an output slot read at its fetch point whose two headers give its cycle is accepted, and any other is counted late
(R79); at the missing instant an input slot without its image gets the header with MISSING, in a cycle that the hub has not only taken as running (R78, R234). The doorbell
value of FETCH_DMA is the last tail and that of WRITE_DMA 0 (the model's choice, log 157). -/
def Obligations.QueueEnablesAndFailures : Prop :=
  (∀ (s : State) (kind : Fin 3) (q : Fin 64) (v : Word), s.h.boot.inReset = false →
     let h := s.h
     let log2 := fieldOf v.toNat 8 5
     let ok := 4 ≤ log2 ∧ log2 ≤ 16
     let fresh := fun (g : HDie) (k : Nat) => g.rd (cqRegs k).en = 1 ∧ g.rd (cqRegs k).tail = 0 ∧ g.rd (cqRegs k).phase = 1 ∧ g.rd (cqRegs k).armed = 1 ∧
       g.rd (cqRegs k).halt = 0 ∧ (g.cq k).head = 0 ∧ (g.cq k).unsig = 0
     let stored := fun (g : HDie) (k : Nat) => g.rd (cqRegs k).vec = fieldOf v.toNat 16 8 ∧ g.rd (cqRegs k).ien = fieldOf v.toNat 24 1 ∧
       g.rd (cqRegs k).log2 = log2 ∧ g = { h with regs := g.regs, hostq := { h.hostq with cqs := g.hostq.cqs } }
     (h.hostAttached = false → v.toNat % 2 = 1 → exec (.queueEnable kind q v) s = .next (afterHost s (h.wr Reg.PCI_ERR_CFG_REFUSED 1))) ∧
     (h.hostAttached = true → h.rd (Reg.PCI_SQCFG_EN q) = 0 → v.toNat % 2 = 1 →
       ∃ h', exec (.queueEnable 0 q v) s = .next (afterHost s h') ∧
         (if ok ∧ h.rd (Reg.PCI_SQBASE_ADDR q) % 4096 = 0 ∧ h.rd (Reg.PCI_CQCFG_EN (fieldOf v.toNat 16 6)) ≠ 0 then
           h'.rd (Reg.PCI_SQCFG_EN q) = 1 ∧ h'.rd (Reg.PCI_SQSTAT_HEAD q) = 0 ∧ h'.rd (Reg.PCI_SQTAIL_TAIL q) = 0
          else h'.rd (Reg.PCI_SQCFG_EN q) = 0 ∧ h'.rd Reg.PCI_ERR_CFG_REFUSED = 1) ∧
         h'.rd (Reg.PCI_SQCFG_CQ q) = fieldOf v.toNat 16 6 ∧ h'.rd (Reg.PCI_SQCFG_LOG2SIZE q) = log2 ∧
         h' = { h with regs := h'.regs }) ∧
     (h.hostAttached = true → h.rd (cqRegs q).en = 0 → v.toNat % 2 = 1 →
       ∃ g, exec (.queueEnable 1 q v) s = .next (afterHost s g) ∧ stored g q ∧
         (if ok ∧ h.rd (cqRegs q).base % 4096 = 0 then fresh g q else g.rd (cqRegs q).en = 0 ∧ g.rd Reg.PCI_ERR_CFG_REFUSED = 1)) ∧
     (h.hostAttached = true → h.rd (cqRegs 64).en = 0 → v.toNat % 2 = 1 →
       ∃ g, stored g 64 ∧
         (if ok ∧ h.rd (cqRegs 64).base % 4096 = 0 then fresh g 64 ∧ exec (.queueEnable 2 q v) s = .next (afterHost s g.serveAll.drain)
          else g.rd (cqRegs 64).en = 0 ∧ g.rd Reg.PCI_ERR_CFG_REFUSED = 1 ∧ exec (.queueEnable 2 q v) s = .next (afterHost s g))) ∧
     (h.hostAttached = true → h.rd (cqRegs q).en ≠ 0 → v.toNat % 2 = 0 →
       ((∃ k : Fin 64, h.rd (Reg.PCI_SQCFG_EN k) ≠ 0 ∧ h.rd (Reg.PCI_SQCFG_CQ k) = q) → exec (.queueEnable 1 q v) s = .next (afterHost s h)) ∧
       ((∀ k : Fin 64, h.rd (Reg.PCI_SQCFG_EN k) ≠ 0 → h.rd (Reg.PCI_SQCFG_CQ k) ≠ q) →
         exec (.queueEnable 1 q v) s = .next (afterHost s
           (((h.wr (cqRegs q).vec (fieldOf v.toNat 16 8)).wr (cqRegs q).ien (fieldOf v.toNat 24 1)).wr (cqRegs q).en 0)))) ∧
     (h.hostAttached = true → exec (.sqDisable q) s = .next (afterHost s (h.wr (Reg.PCI_SQCFG_EN q) 0)))) ∧
  (∀ (s : State) (q : Fin 64) (t : Fin 8) (id : Fin 256) (hub : Fin 128) (n : Word), s.h.boot.inReset = false →
     let h := s.h
     let g := h.advance (h.fetchPoint n.toNat)
     let mine := fun (m : CMap) => m.id == id.val && m.dir == 1 && m.live && m.inForce (g.fullOf n.toNat) && !m.have_.contains n.toNat
     (h.rd Reg.PWM_REST_STATE < 2 → h.fetchable q = true →
       exec (.fetchDmaFailure q) s =
         .next (afterHost s ((h.wr (Reg.PCI_SQSTAT_HALT q) 1).queueError 0 q 3 (h.rd (Reg.PCI_SQTAIL_TAIL q))))) ∧
     (h.rd (Reg.PCI_CQCFG_EN q) ≠ 0 →
       exec (.completionWriteFailure (q.castLE (by decide))) s =
         .next (afterHost s (((h.wr (Reg.PCI_CQSTAT_HALT q) 1).queueError 1 q 4 0).stalls q))) ∧
     (h.rd Reg.PCI_EQCFG_EN ≠ 0 → exec (.completionWriteFailure 64) s = .next (afterHost s (h.wr Reg.PCI_EQSTAT_HALT 1))) ∧
     (h.rd (Reg.PCI_CQSTAT_ARMED q) ≠ 0 → (h.cq q).unsig ≠ 0 →
       exec (.interruptTimerExpiry (q.castLE (by decide))) s =
         .next (afterHost s ((h.advance ((h.cq q).since + ofUs (h.rd (Reg.PCI_CQMOD_TIMER q)))).fire q))) ∧
     (∀ first, (h.hostq.held.filterMap fun (x : RxRec) => if x.cls == t.val then some x.since else none).min? = some first →
       let late := h.advance (first + ofUs 10)
       exec (.rxRecordHoldTimeout t) s =
         .next (afterHost s (HDie.noBuffer
           { late with hostq.held := dropFirst (fun (x : RxRec) => x.cls == t.val && x.since == first) late.hostq.held } t))) ∧
     (∀ m d, g.hostq.maps.find? mine = some m →
       exec (.outputMapFetch id n (some (n.toNat, d, n.toNat))) s =
         .next (afterHost s { g with hostq.maps := g.hostq.maps.map fun (x : CMap) =>
           if (m.same x) then { x with last := slice d 0 m.len, stale := false, have_ := (n.toNat :: x.have_).take 4 } else x })) ∧
     (∀ m, g.hostq.maps.find? mine = some m →
       exec (.outputMapFetch id n none) s =
         .next (afterHost s ({ g with hostq.maps := g.hostq.maps.map fun (x : CMap) =>
           if (m.same x) then { x with stale := true, have_ := (n.toNat :: x.have_).take 4 } else x }.bump Reg.PCI_CYCSTAT_OUT_LATE))) ∧
     exec (.inputMapMissing hub n) s = .next (afterHost s
       (if h.rd Reg.TIM_CYCLE_EN ≠ 0 ∧ h.tb.firstAct ≤ n.toNat then (h.advance (h.missingAt n.toNat)).imageToMaps hub n.toNat none false else h)))

/-- The queue that is served fetches a burst of up to 8 of its available descriptors, at most 32 in flight and none past a FENCE (R67, R75): descriptors with an
opcode outside Table 3.2 complete with INVALID_OPCODE, those with a reserved field with INVALID_FIELD; the others are started, and the head moves past each
(R67 to R69). A queue that alone may be fetched from (enabled, no fence of its own waiting, not halted, descriptors available, fewer than 32 in flight, the link
up, its completion queue neither halted nor full) is served, and its head, which stands behind the last descriptor fetched (the model's choice, log 79), moves past the
burst while no word of the queue contexts is wrong. -/
def Obligations.DescriptorFetch : Prop :=
  ∀ (s : State) (q : Fin 64) (ds : List Desc), s.h.boot.inReset = false → s.h.rd Reg.PWM_REST_STATE < 2 →
    let h := s.h
    let cq := h.rd (Reg.PCI_SQCFG_CQ q)
    let room := min (min 8 (h.sqAvail q)) (32 - (h.sq q).started.length)
    let lvl := if h.rd (Reg.PCI_SQCFG_PRIO q) = 0 then 0 else 1
    let turn := fun (left n : Nat) => { h with hostq.turnQ := aput (aput h.hostq.turnQ (2 * lvl) q) (2 * lvl + 1) (left - n) }
    (∀ (left : Nat) (alone : Bool), h.served = some (q.val, left, alone) →
      let burst := toFence (ds.take (if alone then room else min room left))
      exec (.descriptorFetch q ds) s = .next (afterHost s ((startDescs q burst (turn left burst.length)).stalls cq))) ∧
    (h.rd (Reg.PCI_SQCFG_EN q) ≠ 0 → h.rd (Reg.PCI_SQSTAT_HALT q) = 0 → h.sqAvail q ≠ 0 → (h.sq q).started.length < 32 → h.pcieUp = true →
      (∀ x ∈ (h.sq q).started, dOp x.desc = 5 → x.phase = 2) → h.rd (cqRegs cq).halt = 0 → h.cqFull cq = false →
      (∀ k, k < 64 → k ≠ q.val → h.fetchable k = false) → h.rd (Reg.PCI_SQCFG_LOG2SIZE q) ≤ 16 →
      h.rd (Reg.PCI_SQSTAT_HEAD q) < h.sqSize q →
      let burst := toFence (ds.take room)
      ∃ left, exec (.descriptorFetch q ds) s = .next (afterHost s ((startDescs q burst (turn left burst.length)).stalls cq)) ∧
        (h.mem.idle 51 = true → ((startDescs q burst (turn left burst.length)).stalls cq).rd (Reg.PCI_SQSTAT_HEAD q) =
          (h.rd (Reg.PCI_SQSTAT_HEAD q) + burst.length) % h.sqSize q))

/-- What the descriptors that need no access do when they come to be performed (R70, R71, R75, R76, R80, R82, R83). A launch
time that equals the present counts as passed (the model's choice, log 155), and a pending launch takes the lowest free place of the launch table (log 181).
The earliest launch time comes (R241): the clock stands there, and every launch that is due releases its copies and completes. -/
def Obligations.DescriptorsAndLaunches : Prop :=
  (∀ (s : State) (q : Fin 64) (x : Started) (bytes : List Byte) (ok : Bool), s.h.boot.inReset = false →
     let h := s.h
     let d := x.desc
     (h.current q 10 = some x → exec (.nop q) s = .next (afterHost s (h.finish q x.ser 0 0))) ∧
     (h.current q 5 = some x → exec (.fence q) s = .next (afterHost s ((h.begin_ q x.ser).fenceDone q))) ∧
     (h.current q 9 = some x →
       let r := reply (d.d1.fld 0 4) d.d2.toNat (d.d1.fld 8 8) (two d.d4 d.d5) 2 0x7F s
       exec (.haReply q) s = .next (afterSplit s { r.2 with h := r.2.h.finish q x.ser r.1 0 })) ∧
     (h.current q 1 = some x → frameBad d = false →
       let r := h.sendFrame d bytes none
       exec (.sendFrame q (some bytes)) s = .next (afterHost s (r.1.finish q x.ser (if r.2.1 then 0 else 6) 0)) ∧
       exec (.sendFrame q none) s = .next (afterHost s (h.finish q x.ser 3 0))) ∧
     (h.current q 6 = some x → frameBad d = false → h.hostq.launches.length < 256 → launchTime h.tb.now d ≤ h.tb.now → d.d1.fld 23 1 = 0 →
       exec (.launchAt q (some bytes)) s = .next (afterHost s (h.finish q x.ser 0x0B 0))) ∧
     (h.current q 6 = some x → frameBad d = false → h.hostq.launches.length < 256 → h.tb.now < launchTime h.tb.now d →
       launchTime h.tb.now d ≤ h.tb.now + secT →
       let r := h.sendFrame d bytes (some (launchTime h.tb.now d))
       ∀ fid, r.2 = (true, some fid) →
         let g := r.1.begin_ q x.ser
         exec (.launchAt q (some bytes)) s =
           .next (afterHost s { g.useWords 55 (4 * g.launchSlot) 4 with
             hostq.launches := g.hostq.launches ++ [{ time := launchTime h.tb.now d, fid := fid, q := q, ser := x.ser, slot := g.launchSlot }] })) ∧
     (h.current q 7 = some x → 4096 < (mapOf d).off + (mapOf d).len → exec (.cyclicMap q) s = .next (afterHost s (h.finish q x.ser 2 0))) ∧
     (h.current q 7 = some x → (mapOf d).off + (mapOf d).len ≤ 4096 → (mapOf d).haddr % 64 = 0 →
       exec (.cyclicMap q) s = .next (afterHost s
         (if (mapOf d).len = 0 ∨ mapFits h (mapOf d) = true then
           { h.begin_ q x.ser with
             hostq.changes := (h.begin_ q x.ser).hostq.changes ++ [{ map := mapOf d, remove := (mapOf d).len == 0, q := q, ser := x.ser }] }
          else h.finish q x.ser 0x0E 0))) ∧
     (h.current q 8 = some x → d.d1.fld 0 15 % 64 = 0 → 256 ≤ d.d1.fld 0 15 → d.d1.fld 0 15 ≤ 16384 → two d.d4 d.d5 % 64 = 0 → (h.begin_ q x.ser).hostq.held = [] →
       exec (.rxBuffer q ok) s = .next (afterHost s
         { h.begin_ q x.ser with
           hostq.bufs := (h.begin_ q x.ser).hostq.bufs ++ [{ q := q, ser := x.ser, len := d.d1.fld 0 15, haddr := two d.d4 d.d5, dmaOk := ok }] }))) ∧
  (∀ (s : State) (t : Nat), s.h.boot.inReset = false → (s.h.hostq.launches.map (·.time)).min? = some t →
     let h := s.h.advance t
     exec .launchTimeReached s = .next (afterHost s (launchDue false h.hostq.launches h)) ∧
       t ≤ h.tb.now ∧ h = { s.h with tb := { s.h.tb with now := h.tb.now } })

/-! ### Rest, the function split and the places functions run in (chapters 1, 3, 17) -/

/-- Rest: a request with nothing against it begins entry, and one with a reason against it reports the reason (R28); entry completes, is counted, puts the PCIe link
in L1.2 and powers the spur lanes down (R29); a write of 0 to REQ begins the exit from Rest (R30), whose completion ends in NORMAL with the link out of L1.2 and the
lanes of enabled spurs powered. REQ reads what was last written (R10); that a write of 0 abandons an entry is the model's choice (log 88).
Replies and deadlines (R394, R395, R397): the core's reply to its own hub's request decides it, its reply to another hub's request leaves as an EVENT
frame, an EVENT frame with a request reaches the running core, and one with a reply decides the request it names; a deadline gives the default decision and
counts it in DEFAULTED. A reply that names no outstanding request is stale, and so is one at the instant of the deadline or after it, where the deadline is taken
(R402); an illegal decision changes nothing (R395). -/
def Obligations.RestMovesAndReplies : Prop :=
  (∀ s : State, s.h.boot.inReset = false →
     let h := s.h
     let st := h.rd Reg.PWM_REST_STATE
     let entered := (h.wr Reg.PWM_REST_STATE 2).wr Reg.PWM_RESTCNT_COUNT (min (h.rd Reg.PWM_RESTCNT_COUNT + 1) 0xFFFFFFFF)
     (st = 0 ∨ st = 3 →
       exec .restRequest s = .next (afterSplit s (s.withH
         (if h.restRefusal = 0 then ((h.wr Reg.PWM_REST_REQ 1).wr Reg.PWM_REST_REFUSE 0).wr Reg.PWM_REST_STATE 1
          else (h.wr Reg.PWM_REST_REQ 1).wr Reg.PWM_REST_REFUSE h.restRefusal)))) ∧
     (st = 3 → h.restRefusal = 6) ∧
     (st = 1 → exec .restEntryComplete s = .next (afterSplit s (s.withH
       { entered with hostq.l12 := h.pcieUp, spurs := h.spurs.map fun (x : SpurCtx) => { x with lane := false } }))) ∧
     (st = 2 → ∃ h', exec .restExitRequest s = .next (afterSplit s (s.withH (h'))) ∧ h'.rd Reg.PWM_REST_STATE = 3 ∧ h'.rd Reg.PWM_REST_REQ = 0 ∧
       h' = { h with regs := h'.regs }) ∧
     (st = 1 → ∃ h', exec .restExitRequest s = .next (afterSplit s (s.withH (h'))) ∧ h'.rd Reg.PWM_REST_STATE = 0 ∧ h'.rd Reg.PWM_REST_REQ = 0 ∧
       h'.rd Reg.PWM_REST_REFUSE = h.rd Reg.PWM_REST_REFUSE ∧ h' = { h with regs := h'.regs }) ∧
     (st = 3 → ∃ h', exec .restExitComplete s = .next (afterSplit s (s.withH h')) ∧ h'.rd Reg.PWM_REST_STATE = 0 ∧ h'.hostq.l12 = false ∧
       h'.spurs.map (fun (x : SpurCtx) => x.lane) = (upto h.spurs.length).map (fun k => decide (h.rd (Reg.SPU_CFG_EN k) ≠ 0)) ∧
       h' = { h with regs := h'.regs, hostq.l12 := false, spurs := h'.spurs })) ∧
  (∀ (s : State) (hub : Fin 128) (f : Fin 16) (ck : Word) (d : Byte) (arg : BitVec 64) (x : Frame) (r : HaReq), s.h.boot.inReset = false →
     let h := s.h
     let w := slice x.payload 4 32
     let took := (s.withH (h.takeInbox x))
     (h.coreRuns = true →
       exec (.coreHaReply 0x7F f ck d arg) s = .next (afterSplit s (reply f ck.toNat d.toNat arg.toNat 1 0x7F s).2)) ∧
     (h.coreRuns = true → hub.val ≠ 0x7F → (hub.val, peerKey f ck.toNat) ∈ h.spl.peerReq → replyOk f d.toNat arg.toNat = true →
       exec (.coreHaReply hub f ck d arg) s = .next (afterSplit s (s.withH (HDie.sourceCtl { h with spl.peerReq := h.spl.peerReq.filter fun y => !(y == (hub.val, peerKey f ck.toNat)) }
           8 5 0xFC8 hub 0 (beBytes 4 0x02000000 ++ replyBytes f ck.toNat d.toNat arg.toNat))))) ∧
     (hType x.hdr = 8 → x.payload.length = 36 → fieldOf (beWord x.payload 0) 24 8 = 1 →
       exec (.eventFrameReceived x) s = .next (afterSplit s (s.withH ((h.takeInbox x).peerRequest (hSrc x.hdr) (entryOf w) (h.sw.inbox.any fun b => decide (b.frame = x) && b.untrk))))) ∧
     (hType x.hdr = 8 → x.payload.length = 36 → fieldOf (beWord x.payload 0) 24 8 = 2 →
       exec (.eventFrameReceived x) s = .next (afterSplit s
         (reply (fieldOf (leNat (slice w 4 4)) 0 4) (leNat (slice w 8 4)) (fieldOf (leNat (slice w 4 4)) 8 8) (leNat (slice w 16 8)) 1 (hSrc x.hdr) took).2)) ∧
     (h.spl.reqs.find? (fun y => y.func == f.val && y.cookie == ck.toNat) = some r → f.val ≠ 4 →
       exec (.haRequestDeadline f ck) s = .next (afterSplit s
         (let g := match r.dueAt s with | some t => h.advance t | none => h
          decideLate r (s.withH ((g.dropReq f ck.toNat).bump (Reg.SPL_FCNT_DEFAULTED f)))))) ∧
     (∀ place, h.findReq f ck.toNat place hub = none → reply f ck.toNat d.toNat arg.toNat place hub s = (0x0D, s)) ∧
     (∀ place t, h.findReq f ck.toNat place hub = some r → r.dueAt s = some t →
       (t ≤ h.tb.now → reply f ck.toNat d.toNat arg.toNat place hub s = (0x0D, deadline f ck.toNat s)) ∧
       (h.tb.now < t → replyOk f d.toNat arg.toNat = false → reply f ck.toNat d.toNat arg.toNat place hub s = (2, s)) ∧
       (h.tb.now < t → replyOk f d.toNat arg.toNat = true → (r.ofField = false ∨ s.linked = true) →
         reply f ck.toNat d.toNat arg.toNat place hub s = (0, decide_ f r.ctx ck.toNat d.toNat arg.toNat (s.withH (h.dropReq f ck.toNat))))))

/-- The function machine (R393, R398 to R400): HA-host mode in the remote role and the reserved mode are refused with REFUSED and change no other field; a mode other
than the present one sets PENDING_MODE; EN set on a function that is OFF starts it; EN cleared on one that is ON, or another mode, drains it; the end of starting makes
it ON with a full bucket, or drains it at once where EN was cleared meanwhile, which is no move; the end of a drain makes it OFF, or STARTING while EN is 1. -/
def Obligations.FunctionMachine : Prop :=
  ∀ (s : State) (f : Fin 16) (v : Word), s.h.boot.inReset = false →
    let h := s.h
    let en := fieldOf v.toNat 0 1
    let mode := fieldOf v.toNat 1 2
    let fields := (((h.wr (Reg.SPL_FCFG_EN f) en).wr (Reg.SPL_FCFG_MODE f) mode).wr (Reg.SPL_FCFG_PEER f) (fieldOf v.toNat 8 7)).wr
      (Reg.SPL_FCFG_DL_US f) (fieldOf v.toNat 16 16)
    let cfg := if h.rd (Reg.SPL_FCFG_MODE f) = mode then fields else fields.wr (Reg.SPL_FSTAT_PENDING_MODE f) 1
    let same := aget h.spl.starting f (h.rd (Reg.SPL_FCFG_MODE f)) = h.rd (Reg.SPL_FCFG_MODE f)
    (mode = 3 ∨ (mode = 2 ∧ h.hostAttached = false) →
      exec (.functionConfigWrite f v) s = .next (afterSplit s (s.withH (h.wr (Reg.SPL_FSTAT_REFUSED f) 1)))) ∧
    (mode < 2 ∨ (mode = 2 ∧ h.hostAttached = true) →
      (h.rd (Reg.SPL_FSTAT_STATE f) = 0 →
        exec (.functionConfigWrite f v) s = .next (afterSplit s (s.withH (if en = 1 then cfg.fnStart f else cfg)))) ∧
      (h.rd (Reg.SPL_FSTAT_STATE f) = 2 →
        exec (.functionConfigWrite f v) s = .next (afterSplit s (s.withH
          (if en = 0 ∨ h.rd (Reg.SPL_FCFG_MODE f) ≠ mode then cfg.fnDrain f else cfg.serve f)))) ∧
      (h.rd (Reg.SPL_FSTAT_STATE f) = 3 →
        exec (.functionConfigWrite f v) s = .next (afterSplit s (s.withH (cfg.wr (Reg.SPL_FSTAT_PENDING_ENABLE f) en))))) ∧
    (h.rd (Reg.SPL_FSTAT_STATE f) = 1 → h.rd (Reg.SPL_FCFG_EN f) = 1 → same →
      ∃ h', exec (.functionStartDone f) s = .next (afterSplit s (s.withH (h'))) ∧ h'.rd (Reg.SPL_FSTAT_STATE f) = 2 ∧
        h'.rd (Reg.SPL_FSTAT_PENDING_MODE f) = 0 ∧ (∀ b ∈ h'.spl.buckets, b.1 ≠ f.val) ∧
        h'.rd Reg.SPL_EVT_MOVED = (h.rd Reg.SPL_EVT_MOVED ||| 2 ^ f.val) % 2 ^ 16) ∧
    (h.rd (Reg.SPL_FSTAT_STATE f) = 1 → (h.rd (Reg.SPL_FCFG_EN f) = 0 ∨ ¬ same) →
      ∃ h', exec (.functionStartDone f) s = .next (afterSplit s (s.withH (h'))) ∧ h'.rd (Reg.SPL_FSTAT_STATE f) = 3 ∧
        h'.rd Reg.SPL_EVT_MOVED = h.rd Reg.SPL_EVT_MOVED) ∧
    (h.rd (Reg.SPL_FSTAT_STATE f) = 3 → (∀ r ∈ h.spl.owed, r.func ≠ f.val) →
      exec (.functionDrainDone f) s = .next (afterSplit s (s.withH (if h.rd (Reg.SPL_FCFG_EN f) = 0 then (h.wr (Reg.SPL_FSTAT_STATE f) 0).wr (Reg.SPL_FSTAT_PENDING_ENABLE f) 0
        else (h.fnStart f).wr (Reg.SPL_FSTAT_PENDING_ENABLE f) 0))))

/-- The places (R33, R92, R151, R374, R439): a reset of the PCI block, PERST_N's rise, the PCIe link coming up, the core's watchdog, and a peer that falls silent;
the functions and ports that depend on a place follow it in the same step. A PCIe reset puts every register of the PCI block to its reset value, empties every queue,
pool and map change, forgets the MSI-X table, ends the link but for a function level reset (the model's choice, log 75), leaves launches and host memory alone, and
has every HA-host function that is ON served in HW. From the watchdog's expiry on the core counts as not answering (the model's choice, log 56); a member that has never
reported counts as absent too (the model's choice, log 186). -/
def Obligations.PlacesComeAndGo : Prop :=
  ∀ (s : State) (k : Fin 3) (w : Fin 3) (sp : Fin 4) (hub : Fin 120) (p : PathSt) (x : Frame), s.h.boot.inReset = false →
    let h := s.h
    let took := h.takeInbox x
    let newPaths := pathOf (hSrc x.hdr) took.tb.now x.payload :: took.red.paths.filter (fun (y : PathSt) => y.hub != hSrc x.hdr)
    (took.numbered = true → hSrc x.hdr < 120 → hSrc x.hdr ≠ took.hubNum → subtypeOf x = 1 →
      exec (.pathStateReceived x) s = .next (afterSplit s (s.withH
        (HDie.ringUpdate (HDie.addMember { took with red.paths := newPaths } (hSrc x.hdr)))))) ∧
    (∃ g, exec (.pcieReset k) s = .next (afterSplit s (s.withH g)) ∧
      (∀ F : Fld, 8 * 0x20000 ≤ F.key → F.key < 8 * 0x2FF00 → g.rd F = F.reset) ∧
      g.hostq.sqs = [] ∧ g.hostq.cqs = [] ∧ g.hostq.bufs = [] ∧ g.hostq.held = [] ∧ g.hostq.changes = [] ∧ g.hostq.msixTab = [] ∧ g.hostq.msixOpen = [] ∧
      g.hostq.msixPend = [] ∧ g.hostq.maps = deadMaps h.hostq.maps ∧ g.hostq.launches = h.hostq.launches ∧ g.hostq.hostMem = h.hostq.hostMem ∧
      g.hostq.linkUp = (h.hostq.linkUp && k == 0) ∧ g.sw = h.sw ∧ g.tb = h.tb ∧
      (∀ f : Fin 16, h.rd (Reg.SPL_FSTAT_STATE f) = 2 → h.rd (Reg.SPL_FCFG_MODE f) = 2 →
        g.rd (Reg.SPL_FSTAT_HWSERVE f) = 1 ∧ (h.rd (Reg.SPL_FSTAT_HWSERVE f) = 0 → g.rd (Reg.SPL_FSTAT_SERVED f) = 0))) ∧
    (h.hostAttached = true → exec .perstDeassert s = .next (afterSplit s (s.withH ({ h with boot.perst := true })))) ∧
    (h.hostAttached = true → h.boot.perst = true →
      exec (.pcieLinkUp w sp) s = .next (afterSplit s (s.withH (HDie.drain { ((h.wr Reg.PCI_LINK_UP 1).wr Reg.PCI_LINK_WIDTH (2 ^ w.val)).wr Reg.PCI_LINK_SPEED (sp.val + 1) with hostq.linkUp := true })))) ∧
    (h.coreRuns = true → exec .watchdog s = .next (afterSplit s (s.withH (HDie.fault { h with boot.coreOk := false } 16 0x30 0)))) ∧
    (h.red.paths.find? (fun x => x.hub == hub.val) = some p → p.absent = false →
      let g := h.advance (p.time + ofMs 300)
      exec (.memberAbsentTimeout hub) s = .next (afterSplit s (s.withH (HDie.ringUpdate { g with red.paths := g.red.paths.map fun (x : PathSt) =>
          if x.hub = hub.val then { x with absent := true, eUp := false, wUp := false } else x })))) ∧
    (h.red.paths.find? (fun x => x.hub == hub.val) = none → h.numbered = true → h.member hub = true → hub.val ≠ h.hubNum →
      exec (.memberAbsentTimeout hub) s = .next (afterSplit s (s.withH (HDie.ringUpdate { h with red.paths := PathSt.silent hub h.tb.now :: h.red.paths }))))


/-! ### Ring ports (chapter 4) -/


/-- Enabling, testing and training a port, state by state as Table 4.5 lists them (R108), and what each detection leaves in the port's registers (R99, R112, R187). RETRAIN shows
DETECT while RESTART is sent (the model's choice, log 12).
Training and configuration (R104 to R106, R113, R114): a new training request moves the taps and is answered, with TAPMAN every tap is not updated; a status
that echoes the request lets the next one go; an eye at the target, from ACQUIRE on, sends TRAIN_DONE, and in TRAIN leads on to CONFIG once all are sent and received; a compatible CONFIG is answered; and CONFIG_ACK sent and received ends
in ACTIVE, or waits for FEC lock.
Faults of a port (R97, R98, R100, R108 to R110, R125, R126): the state FAULT with the cause of Table 4.6, RF sent for a local cause alone; the end of
FAULT's hold; the peer's restart; marker parity and the codewords counted; the PRBS checkers; and the injections: of a header or a trailer into the next frame, of a
block into the frame in transmission. The codewords are counted with the lane's markers (the model's choice, log 161); what ends a row of TRAIN_FAIL is the model's choice
too (log 85), as is that the FEC lock time-out sets RNG_PEVT.FEC (log 185). -/
def Obligations.PortsComeUpTrainAndFail : Prop :=
  (∀ (s : State) (p rate : Fin 2) (prbs inv0 inv1 : Bool) (lpbk : Fin 4) (log0 log1 : Fin 2) (skew : Nat), s.h.boot.inReset = false →
     let h := s.h
     let st := h.rd (Reg.RNG_PSTAT_STATE p)
     let test := (h.wr (Reg.RNG_PCFG_PRBS_MODE p) (b2n prbs)).wr (Reg.RNG_PCFG_LPBK p) lpbk
     let order := ((((h.wr (Reg.RNG_LSTAT_AM p 0) 1).wr (Reg.RNG_LSTAT_AM p 1) 1).wr (Reg.RNG_LSTAT_LOGICAL p 0) log0).wr
       (Reg.RNG_LSTAT_LOGICAL p 1) log1).wr (Reg.RNG_PSTAT_SKEW p) (min skew 31)
     let begun := (((h.wr (Reg.RNG_PCFG_EN p) 1).wr (Reg.RNG_LTRN_ATTEMPTS p 0) 0).wr (Reg.RNG_LTRN_ATTEMPTS p 1) 0).enterDetect p true
     let inv := fun (l : Nat) (b : Bool) => if h.rd (Reg.RNG_LCFG_POL p l) = 1 then 0 else if h.rd (Reg.RNG_LCFG_POL p l) = 2 then 1 else b2n b
     let rated := (h.wr (Reg.RNG_PSTAT_RATE p) rate).setPort p { h.port p with fullFails := 0 }
     exec (.portEnableWrite p false) s = .next (afterHost s ((h.wr (Reg.RNG_PCFG_EN p) 0).goTo p 0 1)) ∧
     (st = 0 → exec (.portEnableWrite p true) s = .next (afterHost s
       (if begun.rd (Reg.RNG_PCFG_PRBS_MODE p) = 0 ∧ begun.rd (Reg.RNG_PCFG_LPBK p) = 0 then begun else begun.goTo p 8 0xD))) ∧
     (1 ≤ st → st < 8 → lpbk.val < 3 → prbs = true ∨ lpbk.val ≠ 0 →
       exec (.portTestModeWrite p prbs lpbk) s = .next (afterHost s (test.goTo p 8 0xD))) ∧
     (st = 8 → exec (.portTestModeWrite p false 0) s = .next (afterHost s
       (((h.wr (Reg.RNG_PCFG_PRBS_MODE p) 0).wr (Reg.RNG_PCFG_LPBK p) 0).enterDetect p false))) ∧
     (st ≠ 0 → let g := (h.goTo p 1 0xE).enterDetect p true
       exec (.retrain p) s = .next (afterHost s (g.setPort p { g.port p with restart := true, holdAt := g.tb.now }))) ∧
     (st = 1 → (h.port p).restart = true → let g := h.advance ((h.port p).holdAt + ofUs 10)
       exec (.restartPeriodEnd p) s = .next (afterHost s (g.setPort p { g.port p with restart := false }))) ∧
     (st = 1 → (h.port p).restart = false → h.rd (Reg.RNG_INJ_FORCE_LF p) = 0 → p.val < h.ports.length →
       ∃ h', exec (.portSignalDetected p) s = .next (afterHost s h') ∧ h'.rd (Reg.RNG_PSTAT_STATE p) = 2 ∧
         (∀ l : Fin 2, h'.rd (Reg.RNG_LSTAT_SIGNAL p l) = 1 ∧ h'.rd (Reg.RNG_LTRN_REQS p l) = 1 ∧
           (h.rd (Reg.RNG_LCFG_TAPMAN p l) = 0 →
             h'.rd (Reg.RNG_LTAP_PRE p l) = 4 ∧ h'.rd (Reg.RNG_LTAP_MAIN p l) = 47 ∧ h'.rd (Reg.RNG_LTAP_POST p l) = 12)) ∧
         (h'.port p).noFollow = false ∧ (h'.port p).trainAt = h.tb.now ∧ (∀ k, k ≠ p.val → h'.port k = h.port k) ∧
         h' = { h with regs := h'.regs, ports := h'.ports, free := h'.free }) ∧
     (st = 1 → h.rd (Reg.RNG_PCFG_FALLBACK_EN p) ≠ 0 → h.rd (Reg.RNG_PSTAT_RATE p) ≠ rate → (h.port p).noFollow = false →
       exec (.portRateDetected p rate) s = .next (afterHost s
         (if rate.val = 1 ∧ h.sw.inForce.any (·.fast) = true then rated.wr Reg.SWC_EVT_OVER_RATE 1 else rated))) ∧
     (st = 2 → ∃ h', exec (.portBlockLock p inv0 inv1) s = .next (afterHost s h') ∧ h'.rd (Reg.RNG_PSTAT_STATE p) = 3 ∧
       h'.rd (Reg.RNG_LSTAT_POLINV p 0) = inv 0 inv0 ∧ h'.rd (Reg.RNG_LSTAT_POLINV p 1) = inv 1 inv1 ∧
       (∀ l : Fin 2, h'.rd (Reg.RNG_LSTAT_CDR p l) = 1 ∧ h'.rd (Reg.RNG_LSTAT_BLOCK p l) = 1) ∧ h' = { h with regs := h'.regs }) ∧
     (st = 3 → log0 ≠ log1 → skew ≤ 16 → exec (.portAmLock p log0 log1 skew) s = .next (afterHost s
       (let g := (order.wr (Reg.RNG_PSTAT_LANE_REV p) log0).wr (Reg.RNG_PSTAT_STATE p) 4
        if (h.port p).doneRx.all id ∧ (h.port p).doneTx.all id then g.wr (Reg.RNG_PSTAT_STATE p) 5 else g))) ∧
     (st = 3 → log0 = log1 ∨ 16 < skew → exec (.portAmLock p log0 log1 skew) s = .next (afterHost s (order.enterFault p 9 false)))) ∧
  (∀ (s : State) (p l : Fin 2) (c : BitVec 20) (eyeH eyeV : Nat), s.h.boot.inReset = false →
     let h := s.h
     let st := h.rd (Reg.RNG_PSTAT_STATE p)
     let x := h.port p
     let seq := fieldOf c.toNat 8 4
     let taps := (h.rd (Reg.RNG_LTAP_PRE p l), h.rd (Reg.RNG_LTAP_MAIN p l), h.rd (Reg.RNG_LTAP_POST p l))
     let act := if h.rd (Reg.RNG_LCFG_TAPMAN p l) = 0 then trainAct taps c.toNat else (taps, (0, 0, 0))
     let seen := (h.wr (Reg.RNG_LSTAT_EYE_H p l) (min eyeH 255)).wr (Reg.RNG_LSTAT_EYE_V p l) (min eyeV 255)
     let told := (((h.wr (Reg.RNG_NEIGH_HUB p) (fieldOf c.toNat 13 7)).wr (Reg.RNG_NEIGH_PORT p) (fieldOf c.toNat 12 1)).wr
       (Reg.RNG_NEIGH_PVER p) (fieldOf c.toNat 8 4)).wr (Reg.RNG_NEIGH_FEC p) (fieldOf c.toNat 7 1)
     let fec := h.rd (Reg.RNG_PCFG_FEC p)
     let acked := fun (g : HDie) (y : PortCtx) =>
       if fec = 0 then (g.setPort p { y with fecNext := false }).enterActive p
       else g.setPort p { y with fecNext := true, fecWait := true, holdAt := h.tb.now }
     (2 ≤ st → st ≤ 4 → x.lastSeq.getD l none ≠ some seq → exec (.trainReqReceived p l c) s = .next (afterHost s
       ((((h.wr (Reg.RNG_LTAP_PRE p l) act.1.1).wr (Reg.RNG_LTAP_MAIN p l) act.1.2.1).wr (Reg.RNG_LTAP_POST p l) act.1.2.2).setPort p
         { x with lastSeq := x.lastSeq.set l (some seq),
                  stsOut := x.stsOut.set l (act.2.1 * 2 ^ 18 + act.2.2.1 * 2 ^ 16 + act.2.2.2 * 2 ^ 14 + seq * 2 ^ 8) }))) ∧
     (2 ≤ st → st ≤ 4 → x.lastSeq.getD l none = some seq → exec (.trainReqReceived p l c) s = .next (afterHost s h)) ∧
     (2 ≤ st → st ≤ 4 → x.reqWait.getD l false = true → x.reqSeq.getD l 0 = seq →
       exec (.trainStsReceived p l c) s = .next (afterHost s
         (if x.doneTx.getD l false = true then h.setPort p { x with reqWait := x.reqWait.set l false } else h.nextReq p l))) ∧
     (2 ≤ st → st ≤ 4 → 39 ≤ eyeH → 20 ≤ eyeV → exec (.laneEyeReached p l eyeH eyeV) s = .next (afterHost s
       (((seen.wr (Reg.RNG_LSTAT_DONE p l) 1).setPort p { x with doneTx := x.doneTx.set l true }).trained p))) ∧
     (2 ≤ st → st ≤ 4 → eyeH < 39 ∨ eyeV < 20 → exec (.laneEyeReached p l eyeH eyeV) s = .next (afterHost s seen)) ∧
     (2 ≤ st → st ≤ 4 → exec (.trainDoneReceived p l) s = .next (afterHost s ((h.setPort p { x with doneRx := x.doneRx.set l true }).trained p))) ∧
     (st = 5 → p.val < h.ports.length → x.ackSent = true → x.fecWait = false → exec (.configAckReceived p) s = .next (afterHost s
       (acked (h.setPort p { x with ackRcvd := true }) { x with ackRcvd := true }))) ∧
     (st = 5 → p.val < h.ports.length → fieldOf c.toNat 12 1 ≠ p → fieldOf c.toNat 7 1 = fec → fieldOf c.toNat 8 4 = 1 → x.ackRcvd = false →
       exec (.configReceived p c) s = .next (afterHost s (told.setPort p { x with ackSent := true }))) ∧
     (st = 5 → fieldOf c.toNat 12 1 = p → exec (.configReceived p c) s = .next (afterHost s
       ((told.raise (Reg.RNG_PEVT_MISWIRE p)).enterFault p 0xA false))) ∧
     (st = 5 → fieldOf c.toNat 12 1 ≠ p → fieldOf c.toNat 7 1 ≠ fec → exec (.configReceived p c) s = .next (afterHost s
       ((told.raise (Reg.RNG_PEVT_FEC p)).enterFault p 0xB false))) ∧
     (st = 5 → fieldOf c.toNat 12 1 ≠ p → fieldOf c.toNat 7 1 = fec → fieldOf c.toNat 8 4 ≠ 1 → exec (.configReceived p c) s = .next (afterHost s
       ((told.raise (Reg.RNG_PEVT_PROTO p)).enterFault p 0xC false))) ∧
     (st = 6 → exec (.configReceived p c) s = .next (afterHost s ((told.goTo p 1 0xF).enterDetect p false))) ∧
     (st = 5 → x.fecWait = true → exec (.fecLockAcquired p) s = .next (afterHost s (h.enterActive p)))) ∧
  (∀ (s : State) (p l : Fin 2) (a b : Byte) (u : Fin 4) (lock : Bool) (errors corr unc : Nat), s.h.boot.inReset = false →
     let h := s.h
     let st := h.rd (Reg.RNG_PSTAT_STATE p)
     let x := h.port p
     let due := h.advance (x.trainAt + ofMs (10 * max 1 (h.rd (Reg.RNG_PCFG_TRAIN_TMO p))))
     let late := due.setPort p { due.port p with fullFails := if due.rd (Reg.RNG_PSTAT_RATE p) = 0 then min 3 ((due.port p).fullFails + 1) else 0 }
     let marked := if h.rd (Reg.RNG_PSTAT_FEC_ON p) = 0 then h else (h.bump (Reg.RNG_FECCORR_COUNT p) corr).bump (Reg.RNG_FECUNC_COUNT p) unc
     let hit := if h.sw.copies.any (fun (y : Copy) => y.leaving && y.q / 8 == p.val) then h.setPort p { x with hit := true } else h
     (st = 5 → x.fecWait = true → exec (.fecLockTimeout p) s = .next (afterHost s (((h.advance (x.holdAt + ofUs 100)).wr (Reg.RNG_PEVT_FEC p) 1).enterFault p 0xB false))) ∧
     (2 ≤ st → st ≤ 5 → exec (.trainTimeout p) s = .next (afterHost s
       (((late.bump (Reg.RNG_PSTAT_FAILS p)).wr (Reg.RNG_PEVT_TRAIN_FAIL p) 1).enterFault p 8 false))) ∧
     (2 ≤ st → st ≤ 6 → exec (.localFaultCondition p l 0) s = .next (afterHost s
       ((((h.wr (Reg.RNG_LSTAT_SIGNAL p l) 0).wr (Reg.RNG_PEVT_LOS p) 1).wr (Reg.RNG_PSTAT_LF p) 1).enterFault p 2 true))) ∧
     (2 ≤ st → st ≤ 6 → exec (.localFaultCondition p l 3) s = .next (afterHost s
       (((h.wr (Reg.RNG_PEVT_HIBER p) 1).wr (Reg.RNG_PSTAT_LF p) 1).enterFault p 5 true))) ∧
     (2 ≤ st → st ≤ 6 → h.rd (Reg.RNG_INJ_FORCE_LF p) = 1 → exec (.localFaultCondition p l 5) s = .next (afterHost s ((h.wr (Reg.RNG_PSTAT_LF p) 1).enterFault p 0x10 true))) ∧
     (3 ≤ st → st ≤ 6 → exec (.remoteFaultDetected p) s = .next (afterHost s
       (((h.wr (Reg.RNG_PEVT_RF p) 1).wr (Reg.RNG_PSTAT_RF_RX p) 1).enterFault p 7 false))) ∧
     (st = 6 → exec (.peerRestartReceived p) s = .next (afterHost s ((h.goTo p 1 0xF).enterDetect p false))) ∧
     (st = 7 → exec (.faultHoldExpiry p) s =
       .next (afterHost s ((h.advance (x.holdAt + ofUs (10 * max 1 (h.rd (Reg.RNG_PCFG_FAULT_HOLD p))))).enterDetect p false))) ∧
     (a = b → exec (.alignmentMarkerReceived p l a b corr unc) s = .next (afterHost s marked)) ∧
     (a ≠ b → exec (.alignmentMarkerReceived p l a b corr unc) s =
       .next (afterHost s ((marked.bump (Reg.RNG_BIPERR_COUNT p l)).wr (Reg.RNG_PEVT_BIP p) 1))) ∧
     (h.rd (Reg.RNG_LCFG_CHK (u / 2) (u % 2)) = 0 → exec (.prbsLockChange (u.castLE (by decide)) lock errors) s =
       .next (afterHost s (h.wr (Reg.RNG_LSTAT_PRBSLOCK (u / 2) (u % 2)) 0))) ∧
     (h.rd (Reg.RNG_LCFG_CHK (u / 2) (u % 2)) ≠ 0 → h.rd (Reg.RNG_LSTAT_PRBSLOCK (u / 2) (u % 2)) ≠ 0 →
       exec (.prbsLockChange (u.castLE (by decide)) lock errors) s =
         .next (afterHost s ((h.bump (Reg.RNG_PRBSERR_COUNT (u / 2) (u % 2)) errors).wr (Reg.RNG_LSTAT_PRBSLOCK (u / 2) (u % 2)) (b2n lock)))) ∧
     exec (.injectHcrc p) s = .next (afterHost s (h.setPort p { x with injHcrc := true })) ∧
     exec (.injectCrc p) s = .next (afterHost s (h.setPort p { x with injCrc := true })) ∧
     exec (.injectSync p) s = .next (afterHost s hit) ∧
     exec (.injectOne p l) s = .next (afterHost s hit))


/-! ### Frames on the ring and the spurs (chapters 4 to 6) -/

/-- A received header, check by check (R120, R137, R167): nothing on a port that is not in ACTIVE, or that has a frame in reception; HCRC, fields and room,
each counted; then the route is the frame's type's, its source's and its destination's (R39, R443): a frame for no one here is only followed to its trailer, a frame
to be forwarded is admitted to the queue of its class on the other port, with HOPS 0 counted and not forwarded, and a frame for this hub to the queues of its local
consumers, or, where it has none, to the hub's own units; one for the host or an endpoint ends an entry into Rest (R31). A frame that the loss of the link cuts
before its header is checked is counted as truncated (R121). That a second header on a port does nothing, and which types and classes go together, are logs 89 and 168. -/
def Obligations.RingFrameHeader : Prop :=
  ∀ (s : State) (p : Fin 2) (d : Hdr) (head : List Byte) (free mac : Nat), s.h.boot.inReset = false →
    let h := s.h.advance mac
    let c := Instr.ringFrameHeaderReceived p d head free mac false
    let fits := hVer d = 1 ∧ typeTcOk (hType d) (hTc d) = true ∧ hLen d ≤ 9728
    let g := h.mirror p (hTc d) (hdrBytes d ++ head) (hLen d + 28) (h.ingress p mac)
    let ctx := fun (fid : Option Nat) (fwd : Bool) =>
      ({ port := p, hdr := d, fid := fid, fwd := fwd, local_ := false, stamp := h.ingress p mac } : RxCtx)
    let store := fun (g : HDie) => g.store
      { frame := { hdr := d, payload := [] }, cells := cellsOf (hLen d), whole := hLen d + 28, inPort := p, own := false, good := none,
        stamp := h.ingress p mac, launch := none }
    let onward : List Want := [{ q := 8 * (1 - p) + hTc d, ready := true, untrk := false }]
    let r := store g onward
    let join := hType d = 9 ∧ 0x10 ≤ beNat (slice head 0 1) ∧ beNat (slice head 0 1) ≤ 0x1F
    let own := beNat (slice head 4 8) = g.rd Reg.GLB_UID_UID
    let woken := if hType d = 2 ∨ g.localWants d ≠ [] then g.restArrival else g
    let counted := fun (fwd : Bool) => if fwd = true ∧ hHops d = 0 then woken.bump (Reg.RNG_HOPSEXP_COUNT p) else woken
    let on := fun (fwd : Bool) => if fwd = true ∧ hHops d ≠ 0 then onward else []
    let here := fun (fwd : Bool) => store (counted fwd) (on fwd ++ (counted fwd).localWants d)
    (g.route d head =
      if join then (!decide own, !decide own)
      else if g.numbered = false then (false, true)
      else if hSrc d = g.hubNum then (false, false)
      else if hDst d = g.hubNum then (true, false)
      else (decide (hDst d = 127), true)) ∧
    (h.rd (Reg.RNG_PSTAT_STATE p) ≠ 6 → exec c s = .next (afterHost s h)) ∧
    ((∃ x ∈ h.sw.rx, x.port = p) → exec c s = .next (afterHost s h)) ∧
    (h.rd (Reg.RNG_PSTAT_STATE p) = 6 → (∀ x ∈ h.sw.rx, x.port ≠ p) →
      (hHcrc d ≠ hcrcOf d → exec c s = .next (afterHost s (h.bump (Reg.RNG_RXHCRC_COUNT p)))) ∧
      (hHcrc d = hcrcOf d → ¬fits → exec c s = .next (afterHost s (h.bump (Reg.RNG_RXBAD_COUNT p)))) ∧
      (hHcrc d = hcrcOf d → fits → free < min (cellsOf (hLen d)) 32 → exec c s = .next (afterHost s (h.bump (Reg.SWC_INDROP_COUNT p)))) ∧
      (hHcrc d = hcrcOf d → fits → min (cellsOf (hLen d)) 32 ≤ free → g.route d head = (false, false) →
        exec c s = .next (afterHost s { g with sw.rx := g.sw.rx ++ [ctx none false] })) ∧
      (hHcrc d = hcrcOf d → fits → min (cellsOf (hLen d)) 32 ≤ free → g.route d head = (false, true) → hHops d = 0 →
        exec c s = .next (afterHost s
          { g.bump (Reg.RNG_HOPSEXP_COUNT p) with sw.rx := g.sw.rx ++ [ctx none false] })) ∧
      (hHcrc d = hcrcOf d → fits → min (cellsOf (hLen d)) 32 ≤ free → g.route d head = (false, true) → hHops d ≠ 0 →
        exec c s = .next (afterHost s { r.1 with sw.rx := r.1.sw.rx ++ [ctx r.2 true] })) ∧
      (∀ fwd, hHcrc d = hcrcOf d → fits → min (cellsOf (hLen d)) 32 ≤ free → g.route d head = (true, fwd) → on fwd ++ (counted fwd).localWants d = [] →
        exec c s = .next (afterHost s { counted fwd with sw.rx := (counted fwd).sw.rx ++ [{ ctx none false with local_ := true }] })) ∧
      (∀ fwd, hHcrc d = hcrcOf d → fits → min (cellsOf (hLen d)) 32 ≤ free → g.route d head = (true, fwd) → on fwd ++ (counted fwd).localWants d ≠ [] →
        exec c s = .next (afterHost s
          { (here fwd).1 with
            sw.rx := (here fwd).1.sw.rx ++
              [{ ctx (here fwd).2 (fwd && decide (hHops d ≠ 0)) with
                 local_ := ((counted fwd).localWants d).isEmpty || !(match (here fwd).2 with | some i => (here fwd).1.locals i | none => []).isEmpty }] })) ∧
      exec (.ringFrameHeaderReceived p d head free mac true) s = .next (afterHost s (h.bump (Reg.RNG_RXTRUNC_COUNT p))))

/-- A received trailer (R121, R122, R167, R445): a good frame is counted, names the neighbour if it is a RING_CTL frame with HOPS 119, and arrives; a frame that
is not good is counted by what is wrong with it, a stomped one as such however short an earlier hub cut it, and its local copies are dropped. A trailer of no frame
in reception does nothing.
The stream table (R142, R163): an entry that has accepted no frame for AGE_MS (0 acts as 1) is freed, and one that has stays, and a lookup reads the entry of its key (R359) and says whether the key is tracked and, of one that is, where; where nothing is injected, wrong or remapped in
instances 46 and 47 the reading leaves the table as it is. -/
def Obligations.FrameTrailersAndStreams : Prop :=
  (∀ (s : State) (p : Fin 2) (bytes : List Byte) (t : Word) (r : RxCtx), s.h.boot.inReset = false →
     let h := s.h
     let f : Frame := { hdr := r.hdr, payload := bytes }
     let ended := fun (good : Bool) =>
       { h with sw.rx := h.sw.rx.filter (fun (x : RxCtx) => x.port != p),
                sw.stored := h.sw.stored.map (fun (x : Stored) => if r.fid = some x.fid then { x with frame := f, good := some good } else x) }
     let g := (ended true).bump (Reg.RNG_RXFRM_COUNT p)
     ((∀ x ∈ h.sw.rx, x.port ≠ p) → exec (.ringFrameTrailerReceived p bytes t false) s = .next (afterHost s h)) ∧
     (h.sw.rx.find? (fun x => x.port == p.val) = some r →
       (bytes.length = hLen r.hdr → t.toNat = trailerOf f →
         exec (.ringFrameTrailerReceived p bytes t false) s = .next (afterHost s
           ((if hType r.hdr = 9 ∧ hHops r.hdr = 119 then g.wr (Reg.RNG_NEIGH_HUB p) (hSrc r.hdr) else g).arrived r f).sweep)) ∧
       (exec (.ringFrameTrailerReceived p bytes t true) s =
         .next (afterHost s (((ended false).bump (Reg.SWC_INTRUNC_COUNT p)).dropLocals r.fid).sweep)) ∧
       (t.toNat = 0xFFFFFFFF - trailerOf f →
         exec (.ringFrameTrailerReceived p bytes t false) s =
           .next (afterHost s (((ended false).bump (Reg.RNG_RXSTOMP_COUNT p)).dropLocals r.fid).sweep)) ∧
       (bytes.length ≠ hLen r.hdr ∨ t.toNat ≠ trailerOf f → t.toNat ≠ 0xFFFFFFFF - trailerOf f →
         exec (.ringFrameTrailerReceived p bytes t false) s =
           .next (afterHost s (((ended false).bump (Reg.RNG_RXCRC_COUNT p)).dropLocals r.fid).sweep)))) ∧
  (∀ (s : State) (i : Fin 3072) (src : Fin 128) (stream : Fin 4096) (e : StreamEnt), s.h.boot.inReset = false →
     let h := s.h
     let asked := (h.wr Reg.RED_STFIND_SRC_HUB src).wr Reg.RED_STFIND_STREAM stream
     let g := asked.checkEntry src stream
     let left := h.red.table.filter fun (x : StreamEnt) => x.idx != i.val || decide (h.tb.now < x.last + ofMs (max 1 (h.rd Reg.RED_STCFG_AGE_MS)))
     exec (.streamEntryAged i) s = .next (afterHost s
       (({ h with red.table := left }.wr Reg.RED_STSTAT_USED left.length).wr Reg.RED_STSTAT_FULL (if 3072 ≤ left.length then 1 else 0))) ∧
     (asked.mem.idle 46 = true → asked.mem.idle 47 = true → g.red.table = h.red.table) ∧
     (g.red.table.find? (fun x => x.src == src.val && x.stream == stream.val) = some e →
       exec (.streamLookup src stream) s = .next (afterHost s ((g.wr Reg.RED_STFOUND_HIT 1).wr Reg.RED_STFOUND_INDEX e.idx))) ∧
     ((∀ x ∈ g.red.table, ¬(x.src = src.val ∧ x.stream = stream.val)) →
       ∃ v h', exec (.streamLookup src stream) s = .next (afterHost s ((h'.wr Reg.RED_STFOUND_HIT 0).wr Reg.RED_STFOUND_INDEX v)) ∧
         g.openValue = (v, h')))

/-- No sequence number is accepted twice (R140): the decision, made again on the same number of a stream, is not to accept it; the window keeps its 64 bits, and
a number that is ahead by less than half the range is accepted. -/
def Obligations.NoNumberAcceptedTwice : Prop :=
  ∀ (e : StreamEnt) (q path now path' now' : Nat), q < 65536 → e.high < 65536 → e.window < 2 ^ 64 →
    let r := windowJudge e q path now
    (windowJudge r.1 q path' now').2 ≠ 0 ∧ r.1.window < 2 ^ 64 ∧ r.1.high < 65536 ∧
    (r.2 = 0 → r.1.path = path ∧ r.1.last = now) ∧ (r.2 ≠ 0 → r.1 = e) ∧
    (0 < (q + 65536 - e.high) % 65536 → (q + 65536 - e.high) % 65536 < 32768 → r.2 = 0 ∧ r.1.high = q) ∧
    (q = e.high → r.2 = 1)

/-- What the scheduler of a port takes (R165, R168, R185, R186, R239, R241): while the port's resequencer waits for a lost cell nothing; else a copy that waits in one
of that port's queues, ready and with no launch time to wait for, or with its launch time come; one that may start there now, outside a guard window and ended before
a launch to come; and none whose deadline has passed, `g` being the die with what may not leave discarded. While a copy of the port is leaving, the command takes none. -/
def Obligations.SchedulerTakesAWaitingCopy : Prop :=
  ∀ (s : State) (h : HDie) (p : Fin 10) (mac : Nat) (c : Copy) (x : Stored),
    let g := (h.pick p).1
    ((h.pick p).2 = some (c, x) →
      c ∈ g.sw.copies ∧ c.q / 8 = p ∧ x.fid = c.fid ∧ h.stalled p = false ∧ g.getStored c.fid = some x ∧
      ((c.ready = true ∧ x.governs p = false) ∨ (x.governs p = true ∧ x.launch.getD 0 ≤ g.outAt p g.tb.now)) ∧
      g.mayStart p (c.q % 8) x = true ∧ (∀ t, x.due = some t → g.tb.now ≤ t)) ∧
    (s.h.boot.inReset = false → (∃ z ∈ (s.h.advance mac).sw.copies, z.leaving = true ∧ z.q / 8 = p.val) →
      exec (.frameTransmitStart p mac) s = .next (afterHost s (s.h.advance mac)))

/-- A frame that leaves a ring port without an injection is recorded with the right trailer, its complement where the frame is bad or stomped (R121), HOPS one
less where it is forwarded (R120); injections taken at its start corrupt that one frame and are spent, one asked for meanwhile stays for the next, and a block injected
into it, or else a RATE, leaves it damaged (R126).
A port takes its next frame, and a frame has left (R25, R121, R126, R130, R165, R176, R241): a port that is not open, or that sends, takes none; a class 7 frame
whose launch time has come goes first, and where no launch is due the head of the class 7 queue; the copy taken is marked as leaving, its frame as having left, and
one that leaves more than 3 ns after its launch time is counted; and a frame that has left is counted and its copy freed. A copy with a launch time is stamped no
earlier than that, whatever the MAC stamp (log 187), and what else a SYNC copy leaves behind is log 171's. -/
def Obligations.FramesLeaveAndCarry : Prop :=
  (∀ (h : HDie) (p : Fin 2) (c : Copy) (x : Stored), (h.port p).nowHcrc = false → p.val < h.ports.length →
     let g := h.ringSent p c x
     let f := asSent p x
     let t := if x.good = some false ∨ c.stomp = true then 0xFFFFFFFF - trailerOf f else trailerOf f
     (∃ z, g.sw.sent.head? = some z ∧ z.port = p ∧ z.frame = f ∧ z.trailer = (if (h.port p).nowCrc then t ^^^ 1 else t) ∧
       ((h.port p).hit = true → z.damaged = true) ∧
       (h.rd (Reg.RNG_LINJ_RATE p 0) = 0 → h.rd (Reg.RNG_LINJ_RATE p 1) = 0 → z.damaged = (h.port p).hit)) ∧
     g.port p = { h.port p with nowCrc := false, nowHcrc := false, hit := false } ∧
     g = { h with regs := g.regs, ports := g.ports, free := g.free, sw.sent := g.sw.sent } ∧
     (x.own = false → x.good ≠ some false → c.stomp = false → 0 < hHops x.frame.hdr → hHops f.hdr + 1 = hHops x.frame.hdr)) ∧
  (∀ (s : State) (p : Fin 10) (mac : Nat) (c : Copy) (x : Stored) (y : Copy × Stored) (u : HDie), s.h.boot.inReset = false →
     let h := s.h.advance mac
     let r := h.serveOut p
     let stamp := if p.val < 6 then r.1.egress p mac else mac
     let out := if x.governs p then max stamp (x.launch.getD 0) else stamp
     let taken := r.1.takeInj p
     let g := HDie.slip { taken with
       sw.copies := taken.sw.copies.map (fun (z : Copy) => if z.fid = c.fid ∧ z.q = c.q then { z with leaving := true } else z),
       sw.stored := taken.sw.stored.map (fun (z : Stored) => if z.fid = c.fid ∧ z.left = none then { z with left := some r.1.tb.now } else z) } p x out
     let sync := g.syncLeft p (hCycle x.frame.hdr)
     let k := s.h
     let left := fun (u : HDie) => (u.bump (Reg.SWC_QTXFRM_COUNT c.q)).dropCopy c.fid c.q
     (h.portState p ≠ 0 ∨ (∃ z ∈ h.sw.copies, z.leaving = true ∧ z.q / 8 = p.val) → exec (.frameTransmitStart p mac) s = .next (afterHost s h)) ∧
     (h.stalled p = true → exec (.frameTransmitStart p mac) s = .next (afterHost s h)) ∧
     (h.stalled p = false → (h.head true (8 * p + 7)).2 = some y → (h.pick p).2 = some y) ∧
     (h.stalled p = false → strict true p [7, 6, 5, 4, 3, 2, 1, 0] h = (u, none) → (u.head false (8 * p + 7)).2 = some y → (h.pick p).2 = some y) ∧
     ((h.pick p).2 = some y → ((h.pick p).1.carry y.1 y.2).2 = true → r = (((h.pick p).1.carry y.1 y.2).1, some y)) ∧
     (h.portState p = 0 → (∀ z ∈ h.sw.copies, ¬(z.leaving = true ∧ z.q / 8 = p.val)) → r.2 = some (c, x) →
       exec (.frameTransmitStart p mac) s = .next (afterHost s
         (if 2 ≤ p.val ∧ p.val < 6 then g.ptpStamp (p - 2) true x.frame.payload out
          else if p.val < 2 ∧ hType x.frame.hdr = 5 then (if x.own then sync else sync.residence x out)
          else g))) ∧
     (h.portState p = 0 → (∀ z ∈ h.sw.copies, ¬(z.leaving = true ∧ z.q / 8 = p.val)) → r.2 = none →
       exec (.frameTransmitStart p mac) s = .next (afterHost s r.1)) ∧
     (k.sw.copies.find? (fun z => z.leaving && z.q / 8 == p.val) = some c → k.getStored c.fid = some x → x.good ≠ none →
       exec (.frameSent p) s = .next (afterHost s
         (left (if p.val < 2 then k.ringSent p c x else if p.val < 6 then k.spurSent (p - 2) c x else if c.stomp then k else k.taken x c.q c.untrk)))) ∧
     (k.sw.copies.find? (fun z => z.leaving && z.q / 8 == p.val) = some c → k.getStored c.fid = some x → x.good = none →
       exec (.frameSent p) s = .next (afterHost s k)))

/-- Frames and the link of a spur (R128 to R130, R134, R167, R179): checks in order, each counted; a valid frame is tunnelled; the spur is up while it has block
lock and no fault and its lane sends no test pattern, and FEC shows and counts at 25GBASE-R with FEC alone; EN 1 is a trigger that ends Rest and powers the lane, and the spur comes up or goes down at once as the write has it;
EN 0 takes the port down and the lane off; and the injections. That nothing of a cut frame goes on is log 168's, that a lane without power shows nothing log 162's, when codewords count log 161's,
what a port event shows of a spur's state log 21's,
and which lengths pass and when a tunnel is received log 185's. -/
def Obligations.Spurs : Prop :=
  ∀ (s : State) (k : Fin 4) (bytes : List Byte) (free mac corr unc : Nat) (block hiber lf rf fec full : Bool) (v : Word), s.h.boot.inReset = false →
    let h := s.h.advance mac
    let got := fun (ok full : Bool) => exec (.spurFrameReceived k bytes ok free full mac) s
    let up := h.rd (Reg.SPU_STAT_UP k) ≠ 0 ∧ h.rd (Reg.SPU_CFG_EN k) ≠ 0
    let room := min (cellsOf bytes.length) 16
    let g := h.ptpStamp k false bytes (h.ingress (2 + k) mac)
    let i := s.h
    let coded := i.rd (Reg.SPU_CFG_RATE k) ≠ 0 ∧ i.rd (Reg.SPU_CFG_FEC k) ≠ 0
    let c := if coded then (i.bump (Reg.SPU_FECCORR_COUNT k) corr).bump (Reg.SPU_FECUNC_COUNT k) unc else i
    let seen := ((((c.wr (Reg.SPU_STAT_BLOCK k) (b2n block)).wr (Reg.SPU_STAT_HIBER k) (b2n hiber)).wr (Reg.SPU_STAT_LF k) (b2n lf)).wr
      (Reg.SPU_STAT_RF k) (b2n rf)).wr (Reg.SPU_STAT_FECLOCK k) (if coded then b2n fec else 0)
    let set := (((((((i.wr (Reg.SPU_CFG_EN k) (v.toNat % 2)).wr (Reg.SPU_CFG_RATE k) (fieldOf v.toNat 1 1)).wr (Reg.SPU_CFG_FEC k) (fieldOf v.toNat 2 1)).wr
      (Reg.SPU_CFG_PRBS_MODE k) (fieldOf v.toNat 3 1)).wr (Reg.SPU_CFG_PRBS k) (fieldOf v.toNat 4 3)).wr (Reg.SPU_CFG_CHK k) (fieldOf v.toNat 7 1)).wr
      (Reg.SPU_CFG_TC k) (fieldOf v.toNat 8 3)).wr (Reg.SPU_CFG_MAXLEN k) (fieldOf v.toNat 16 14)
    let awake := set.restTrigger
    let lit := if awake.rd Reg.PWM_REST_STATE < 2 then { awake with spurs := awake.spurs.set k { awake.spur k with lane := true } } else awake
    let isUp := lit.rd (Reg.SPU_STAT_BLOCK k) ≠ 0 ∧ lit.rd (Reg.SPU_STAT_HIBER k) = 0 ∧ lit.rd (Reg.SPU_STAT_LF k) = 0 ∧ lit.rd (Reg.SPU_STAT_RF k) = 0 ∧
      lit.rd (Reg.SPU_CFG_PRBS_MODE k) = 0 ∧ lit.rd (Reg.SPU_CFG_EN k) ≠ 0 ∧ (lit.spur k).lane = true
    let down := if i.rd (Reg.SPU_STAT_UP k) ≠ 0 then set.spurDown k else set
    let closed := if down.portState (2 + k) = 1 then (down.setPortState (2 + k) 2).flushPort (2 + k) else down
    let dark := { closed with spurs := closed.spurs.set k { closed.spur k with lane := false } }
    let sending := i.sw.copies.any fun (y : Copy) => y.leaving && y.q / 8 == k.val + 2
    let has := lacksSpur i.variant k = false
    (¬up → got true full = .next (afterHost s h)) ∧
    (up → free < room → got true full = .next (afterHost s (h.bump (Reg.SWC_INDROP_COUNT (2 + k))))) ∧
    (up → room ≤ free → got true true = .next (afterHost s (h.bump (Reg.SWC_INTRUNC_COUNT (2 + k))))) ∧
    (up → room ≤ free → got false false = .next (afterHost s (h.bump (Reg.SPU_RXFCS_COUNT k)))) ∧
    (up → room ≤ free → bytes.length < 60 → got true false = .next (afterHost s (g.bump (Reg.SPU_RXSHORT_COUNT k)))) ∧
    (up → room ≤ free → 60 ≤ bytes.length → g.rd (Reg.SPU_CFG_MAXLEN k) < bytes.length →
      got true false = .next (afterHost s (g.bump (Reg.SPU_RXLONG_COUNT k)))) ∧
    (up → room ≤ free → 60 ≤ bytes.length → bytes.length ≤ g.rd (Reg.SPU_CFG_MAXLEN k) → be16 bytes 12 = 0x8808 →
      got true false = .next (afterHost s (g.bump (Reg.SPU_RXCTL_COUNT k)))) ∧
    (up → room ≤ free → 60 ≤ bytes.length → bytes.length ≤ g.rd (Reg.SPU_CFG_MAXLEN k) → be16 bytes 12 ≠ 0x8808 → g.tunnelBad k = true →
      got true false = .next (afterHost s (g.bump (Reg.SPU_RXDROP_COUNT k)))) ∧
    (up → room ≤ free → 60 ≤ bytes.length → bytes.length ≤ g.rd (Reg.SPU_CFG_MAXLEN k) → be16 bytes 12 ≠ 0x8808 → g.tunnelBad k = false →
      got true false = .next (afterHost s (g.tunnel k (h.ingress (2 + k) mac) bytes))) ∧
    (i.rd (Reg.SPU_CFG_EN k) = 0 ∨ (i.spur k).lane = false → exec (.spurLinkChange k block hiber lf rf fec corr unc) s = .next (afterHost s i)) ∧
    (i.rd (Reg.SPU_CFG_EN k) ≠ 0 → (i.spur k).lane = true → exec (.spurLinkChange k block hiber lf rf fec corr unc) s = .next (afterHost s
      (if block = true ∧ hiber = false ∧ lf = false ∧ rf = false ∧ i.rd (Reg.SPU_CFG_PRBS_MODE k) = 0 then
         (if i.rd (Reg.SPU_STAT_UP k) = 0 then seen.spurUp k else seen)
       else if i.rd (Reg.SPU_STAT_UP k) = 0 then seen else seen.spurDown k))) ∧
    (has → v.toNat % 2 = 1 → exec (.spurEnableWrite k v) s = .next (afterHost s
      (if isUp ∧ lit.rd (Reg.SPU_STAT_UP k) = 0 then lit.spurUp k
       else if ¬isUp ∧ lit.rd (Reg.SPU_STAT_UP k) ≠ 0 then lit.spurDown k else lit))) ∧
    (has → v.toNat % 2 = 0 → i.rd (Reg.SPU_CFG_EN k) ≠ 0 → exec (.spurEnableWrite k v) s = .next (afterHost s
      (dark.spurShow k false false false false false))) ∧
    (has → v.toNat % 2 = 0 → i.rd (Reg.SPU_CFG_EN k) = 0 → exec (.spurEnableWrite k v) s = .next (afterHost s set)) ∧
    (has → exec (.spurInjectOne k) s = .next (afterHost s
      (if sending then { i with spurs := i.spurs.set k { i.spur k with hit := true } } else i))) ∧
    (has → exec (.spurInjectFcs k) s = .next (afterHost s { i with spurs := i.spurs.set k { i.spur k with injFcs := true } })) ∧
    (lacksSpur i.variant k = true → ∀ c ∈ [Instr.spurEnableWrite k v, .spurInjectOne k, .spurInjectFcs k], exec c s = .next (afterHost s i))


/-! ### Redundancy and the lead (chapter 5) -/

/-- Reports and time limits (R136, R150, R155, R157, R240): PATH_STATE is sent with the hub's two ports as they are (Table 5.7), numbered in its stream, a copy on each
port in ACTIVE, where there is none it is counted, and an unnumbered hub sends none (R446); a lead takes a HEALTH into its reports, in order of PRIO, and drops one that has
come no more for 4 × 2^HPER cycles, and a hub that does not lead takes none; 1.5 cycle times without a SYNC open the following, and 3 lose the lead; the wait for a SYNC's
second copy ends with the offset computed. That LEAD_PRIO goes with LEAD_HUB is log 165's.
The lead machine (R158, R159, Table 5.5): its registers written, it goes from OFF to LISTEN where it is a candidate and cycles run, and to OFF where it
is no candidate; LISTEN ends in LEAD above the highest term seen; at the takeover time a READY standby takes over unless MST decided to stay, a request still without a decision being counted as defaulted; and a lead
hands over to a standby that its reports show READY, and refuses any other. -/
def Obligations.LeadReportsAndMachine : Prop :=
  (∀ (s : State) (x : Frame) (hub : Fin 120), s.h.boot.inReset = false →
     let h := s.h
     let st := h.rd Reg.RED_LEADSTAT_STATE
     let leads := st = 3 ∨ st = 4
     let took := h.takeInbox x
     let w := beWord x.payload 0
     let e : Health := { hub := hSrc x.hdr, prio := fieldOf w 16 8, ready := bitOf w 15, match_ := bitOf w 14, single := bitOf w 13,
                         maxOff := beWord x.payload 1 % 65536, miss := beWord x.payload 1 / 65536, cycle := beWord x.payload 2,
                         seen := h.rd Reg.TIM_CYCNUM_N }
     let limit := 4 * 2 ^ h.rd Reg.RED_LEADCFG_HPER
     let lost := (h.advance (h.syncDue 6)).noLead.wr Reg.RED_LEADEVT_LEAD_LOST 1
     let up := fun (p : Fin 2) => h.rd (Reg.RNG_PSTAT_STATE p) = 6
     let bits := 2 ^ 24 + (if up 0 then 2 ^ 23 else 0) + (if up 1 then 2 ^ 22 else 0) + h.rd (Reg.RNG_PSTAT_FEC_ON 0) * 2 ^ 21 + h.rd (Reg.RNG_PSTAT_FEC_ON 1) * 2 ^ 20
       + h.rd (Reg.RNG_PSTAT_RATE 0) * 2 ^ 19 + h.rd (Reg.RNG_PSTAT_RATE 1) * 2 ^ 18 + h.rd (Reg.RNG_NEIGH_HUB 0) * 2 ^ 8 + h.rd (Reg.RNG_NEIGH_HUB 1)
     let state : Frame := { hdr := mkHdr 9 7 0 false (h.nextSeq h.hubNum 0xFFE) h.hubNum 0xFFE 127 0 8 0,
                            payload := beBytes 4 bits ++ beBytes 4 (((h.port 0).downs + (h.port 1).downs) % 65536) }
     let seen := (h.advSeq h.hubNum 0xFFE).mirror 8 7 (frameBytes state) 36 h.tb.now
     (h.numbered = false → exec .pathStatePeriodic s = .next (afterHost s h)) ∧
     (h.numbered = true → ¬up 0 → ¬up 1 → exec .pathStatePeriodic s = .next (afterHost s (h.bump Reg.RED_NOPATH_COUNT))) ∧
     (h.numbered = true → up 0 ∨ up 1 → exec .pathStatePeriodic s = .next (afterHost s
       (seen.store { frame := state, cells := 1, whole := 36, inPort := 8, own := true, good := some true, stamp := h.tb.now, launch := none }
         ((if up 0 then [{ q := 7, ready := true, untrk := false }] else []) ++ (if up 1 then [{ q := 15, ready := true, untrk := false }] else []))).1)) ∧
     (leads → subtypeOf x = 2 → exec (.healthReceived x) s = .next (afterHost s
       (took.setHealth (placeHealth e (h.red.health.filter (fun (y : Health) => y.hub != e.hub)))))) ∧
     (¬leads ∨ subtypeOf x ≠ 2 → exec (.healthReceived x) s = .next (afterHost s took)) ∧
     exec (.healthEntryTimeout hub) s = .next (afterHost s (h.setHealth (h.red.health.filter (fun (y : Health) =>
       y.hub != hub.val || decide ((h.rd Reg.TIM_CYCNUM_N + 2 ^ 32 - y.seen) % 2 ^ 32 < limit))))) ∧
     (h.rd Reg.TIM_CYCLE_EN ≠ 0 → ¬leads → exec .leadFollowTimeout s = .next (afterHost s { h.advance (h.syncDue 3) with red.open_ := true })) ∧
     (h.rd Reg.TIM_CYCLE_EN ≠ 0 → ¬leads → h.rd Reg.RED_LEADSTAT_LEAD_HUB ≠ 0x7F →
       exec .leadLostTimeout s = .next (afterHost s (if h.rd Reg.GLB_STATUS_ROLE = 0 then lost.event 0xC 0 0x7F 0 else lost))) ∧
     (∀ y, h.tb.sync = some y → y.done = false → ¬leads → exec .offsetWaitTimeout s = .next (afterHost s
       (HDie.closeOffset (h.advance (h.cycleStart y.cycle + ofNs (2 * h.rd Reg.RED_WCL_WCL_NS) + ofUs 2)))))) ∧
  (∀ (s : State) (v : Word) (target : Fin 128) (n : Nat), s.h.boot.inReset = false →
     let h := s.h
     let st := h.rd Reg.RED_LEADSTAT_STATE
     let cfg := ((h.wr Reg.RED_LEADCFG_PRIO (v.toNat % 256)).wr Reg.RED_LEADCFG_CAND (fieldOf v.toNat 8 1)).wr Reg.RED_LEADCFG_HPER (fieldOf v.toNat 12 4)
     let cand := fieldOf v.toNat 8 1 = 1 ∧ v.toNat % 256 ≠ 0 ∧ h.numbered = true
     let g := h.advance h.red.listenAt
     let due := h.advance (h.cycleStart (n + 1) + ofNs (h.rd Reg.TIM_CYCLE_NS) / 2)
     let hand := ∃ k < 8, h.rd (Reg.RED_HEALTH_HUB k) = target ∧ h.rd (Reg.RED_HEALTH_VALID k) ≠ 0 ∧ h.rd (Reg.RED_HEALTH_READY k) ≠ 0
     let ask := h.advance (h.cycleStart (n + 1) + ofNs (h.rd Reg.RED_WCL_WCL_NS))
     (st = 0 → cand → h.rd Reg.TIM_CYCLE_EN ≠ 0 → exec (.leadConfigWrite v) s = .next (afterHost s
       { cfg.wr Reg.RED_LEADSTAT_STATE 1 with
         red.listenAt := h.tb.now + ofNs (3 * h.rd Reg.TIM_CYCLE_NS) + ofUs (255 - v.toNat % 256) })) ∧
     (st = 0 → ¬cand ∨ h.rd Reg.TIM_CYCLE_EN = 0 → exec (.leadConfigWrite v) s = .next (afterHost s cfg)) ∧
     (st ≠ 0 → cand → exec (.leadConfigWrite v) s = .next (afterHost s
       (if st = 3 ∨ st = 4 then cfg.wr Reg.RED_LEADSTAT_LEAD_PRIO (v.toNat % 256) else cfg))) ∧
     (st = 1 ∨ st = 2 → ¬cand → exec (.leadConfigWrite v) s = .next (afterHost s
       ((cfg.wr Reg.RED_LEADSTAT_STATE 0).wr Reg.RED_LEADSTAT_READY 0).noLead)) ∧
     (st = 1 → exec .listenTimerExpiry s = .next (afterHost s (g.enterLead (g.red.highTerm + 1) false))) ∧
     (st = 2 → h.red.lastAcc = some n → (∀ r ∈ h.spl.reqs, r.func ≠ 4) → exec .takeoverDeadline s = .next (afterHost s
       (if h.rd Reg.RED_LEADSTAT_READY ≠ 0 ∧ h.red.mstStay ≠ some true
        then HDie.enterLead { due with red.mstStay := none } (h.rd Reg.RED_TERM_TERM + 1) true
        else { due with red.mstStay := none }))) ∧
     (st = 2 → h.red.lastAcc = some n → (∃ r ∈ h.spl.reqs, r.func = 4) → exec .takeoverDeadline s = .next (afterHost s
       (let late := (due.bump (Reg.SPL_FCNT_DEFAULTED 4)).dropMst
        if late.rd Reg.RED_LEADSTAT_READY ≠ 0 ∧ late.red.mstStay ≠ some true
        then HDie.enterLead { late with red.mstStay := none } (late.rd Reg.RED_TERM_TERM + 1) true
        else { late with red.mstStay := none }))) ∧
     (st = 2 → h.modeOf 4 ≠ 0 → h.red.lastAcc = some n → h.red.mstStay = none → (∀ r ∈ h.spl.reqs, r.func ≠ 4) → exec .mstRequest s = .next (afterHost s
       (if ask.mayAsk 4 then ask.ask 4 (n + h.rd Reg.RED_LEADSTAT_LEAD_HUB * 2 ^ 32) (h.rd Reg.RED_TERM_TERM) n
        else ask.bump (Reg.SPL_FCNT_DEFAULTED 4)))) ∧
     (st = 3 → hand → exec (.handover target) s = .next (afterHost s
       { h.wr Reg.RED_LEADSTAT_STATE 4 with red.handTo := some target.val, red.handSent := false })) ∧
     (st ≠ 3 ∨ ¬hand → exec (.handover target) s = .next (afterHost s (h.wr Reg.RED_LEADEVT_HANDOVER_REFUSED 1))))

/-- A SYNC copy, first at a standby that follows its sender (R138, R153 to R156, R159): one that duplicate discard dropped, or that is not newer, changes nothing but the offset's wait; a newer one is accepted, gives PRIO
and TERM, and is compared; in LISTEN it makes a standby. One of a lower lead is counted, and raises OVERLAP. At a lead or in
a handover one of a higher lead ends it: it steps down to a standby and follows, and a handover is given up. -/
def Obligations.SyncReceived : Prop :=
  ∀ (s : State) (x : Frame) (stamp : Nat), s.h.boot.inReset = false →
    let h := s.h.takeInbox x
    let d := x.hdr
    let w := fun (i : Nat) => beWord x.payload i
    let prio := fieldOf (w 0) 24 8
    let lead := h.rd Reg.RED_LEADSTAT_LEAD_HUB
    let st := h.rd Reg.RED_LEADSTAT_STATE
    let start := mkTime (w 5 + 2 ^ 32 * (w 4 % 65536)) (w 6) 0
    let dup := s.h.sw.inbox.any fun b => decide (b.frame = x) && b.dup
    let fresh := dup = false ∧ (ahas h.red.syncSeen (hSrc d) = false ∨ newer (hCycle d) (aget h.red.syncSeen (hSrc d) 0) = true)
    let from_ := h.numbered = true ∧ hSrc d ≠ h.hubNum ∧ st < 3
    let took := { h with red.highTerm := max h.red.highTerm (w 1),
                         red.syncSeen := aput h.red.syncSeen (hSrc d) (hCycle d), red.lastAcc := some (hCycle d),
                         red.accTime := h.tb.now, red.open_ := false }
    let known := (took.wr Reg.RED_LEADSTAT_LEAD_PRIO prio).wr Reg.RED_TERM_TERM (w 1)
    let loop := if bitOf (w 9) 31 then some (w 7, w 8) else none
    let low := { h with red.highTerm := max h.red.highTerm (w 1) }
    let heard := { low with red.syncSeen := aput h.red.syncSeen (hSrc d) (hCycle d), red.lastAcc := some (hCycle d), red.accTime := h.tb.now, red.open_ := false }
    let down := ((heard.cancelMst.leaveLead 2).wr Reg.RED_LEADEVT_OVERLAP 1).wr Reg.RED_LEADEVT_STEPDOWN 1
    (h.numbered = false ∨ hSrc d = h.hubNum → exec (.syncReceived x stamp) s = .next (afterHost s h)) ∧
    (from_ → lead = hSrc d → ¬fresh →
      exec (.syncReceived x stamp) s = .next (afterHost s (h.offsetCopy (hSrc d) (hCycle d) (hPath d) start stamp loop))) ∧
    (from_ → lead = hSrc d → fresh → bitOf (w 0) 22 = false → ∃ h',
      exec (.syncReceived x stamp) s = .next (afterHost s
        (if h'.leads = false ∧ h'.rd Reg.RED_LEADSTAT_LEAD_HUB = hSrc d then h'.offsetCopy (hSrc d) (hCycle d) (hPath d) start stamp loop else h')) ∧
      h' = HDie.syncMachine known.cancelMst (hCycle d) start (w 2) prio (w 1) (hSrc d) false) ∧
    (h.numbered = true → hSrc d ≠ h.hubNum → st = 3 ∨ st = 4 → lead ≠ 0x7F → lead ≠ hSrc d → fresh → bitOf (w 0) 22 = false →
      higherLead prio (hSrc d) (h.rd Reg.RED_LEADSTAT_LEAD_PRIO) lead = true → prio ≠ h.rd Reg.RED_LEADSTAT_LEAD_PRIO → ∃ h',
      exec (.syncReceived x stamp) s = .next (afterHost s
        (if h'.leads = false ∧ h'.rd Reg.RED_LEADSTAT_LEAD_HUB = hSrc d then h'.offsetCopy (hSrc d) (hCycle d) (hPath d) start stamp loop else h')) ∧
      (heard.cancelMst.rd Reg.RED_LEADSTAT_STATE = 3 → h' = { down.follow (hSrc d) prio (w 1) with red.handTo := none }) ∧
      (heard.cancelMst.rd Reg.RED_LEADSTAT_STATE = 4 → h' = { (down.wr Reg.RED_LEADEVT_HANDOVER_REFUSED 1).follow (hSrc d) prio (w 1) with red.handTo := none })) ∧
    (from_ → lead ≠ 0x7F → lead ≠ hSrc d → fresh → higherLead prio (hSrc d) (h.rd Reg.RED_LEADSTAT_LEAD_PRIO) lead = false →
      prio ≠ h.rd Reg.RED_LEADSTAT_LEAD_PRIO → h.red.handTo ≠ some (hSrc d) → h.red.open_ = false →
      exec (.syncReceived x stamp) s = .next (afterHost s ((low.bump Reg.RED_LOWSYNC_COUNT).wr Reg.RED_LEADEVT_OVERLAP 1)))

/-- Of two leads one is the higher, and never each of the other (R153); of two cycle numbers that differ by other than half the range one is the newer (R155). -/
def Obligations.LeadOrder : Prop :=
  ∀ (p q a b c : Nat), a ≠ b →
    (higherLead p a q b = true ↔ ¬higherLead q b p a = true) ∧
    (∀ r, higherLead p a q b = true → higherLead q b r c = true → higherLead p a r c = true) ∧
    (a < 2 ^ 32 → b < 2 ^ 32 → (a + 2 ^ 32 - b) % 2 ^ 32 ≠ 2 ^ 31 → (newer a b = true ↔ ¬newer b a = true))

/-! ### The switch core and cyclic admission (chapter 6) -/

/-- Lost cells, planes and the rate (R168, R169, R171): the cell for which the resequencer waits, or another that was upset, is lost; its frame is dropped in that
queue, or ends stomped, and the plane that carried it takes a strike. Which plane carries a cell where the backlogs tie is log 167's.
The buffer's division and the times of the switch core (R172, R176, R179, R180, R182): a division that leaves fewer than 4,096 pool cells is refused and
leaves its register unchanged, and one that is taken may raise the pool's depth; residue is dropped in HW when it is due; the end of a hold closes and flushes the
port's queues, once what is due as residue has been dropped; a hold time written is in force at
once, and ends an extension (log 23); and a holdoff in which nothing crossed only ends. -/
def Obligations.PlanesRateAndBuffers : Prop :=
  (∀ (s : State) (fid cell hs t : Nat) (q : Fin 80) (k : Fin 4) (v : Fin 16) (c : Copy), s.h.boot.inReset = false →
     let h := s.h
     let lost := h.bump (Reg.SWC_RSQLOST_COUNT (q / 8))
     let end_ := if c.leaving then
       { lost with sw.copies := h.sw.copies.map (fun (y : Copy) => if y.fid = fid ∧ y.q = q then { y with stomp := true } else y) } else lost.dropCopy fid q
     let strikes := (end_.sw.strikes.filter (fun y => end_.tb.now < y.2 + secT)) ++ [(k.val, end_.tb.now)]
     let struck := { end_ with sw.strikes := strikes }
     let n := (strikes.filter (fun y => y.1 = k.val)).length
     let cap := h.planes * hs * 256 / 1000
     let shown := (h.wr Reg.SWC_RATE_HS (min hs 0xFFFF)).wr Reg.SWC_RATE_CAP_GBPS (min cap 0xFFFF)
     let gone := { h with sw.retiring := h.sw.retiring.filter (fun y => y != k.val) }
     (h.sw.copies.find? (fun y => y.fid == fid && y.q == q.val) = some c → h.planeOf fid (c.lost.getD cell) = some k.val → exec (.cellLostTimeout fid q cell) s = .next (afterHost s
       (if max 1 (end_.rd Reg.SWC_RSQCFG_STRIKES) ≤ n then struck.planeStrikes (q / 8) k n else struck))) ∧
     (k.val ∈ h.sw.retiring → exec (.planeRetireDrained k) s = .next (afterHost s
       (((gone.wr Reg.SWC_PLANE_RETIRED (h.rd Reg.SWC_PLANE_RETIRED ||| 2 ^ k.val)).wr Reg.SWC_EVT_PLANE_RETIRED 1).fault 11 0x20 k))) ∧
     (v.val = 0 → exec (.planeEnableWrite v) s = .next (afterHost s (h.wr Reg.SWC_EVT_CFG_REFUSED 1))) ∧
     (v.val ≠ 0 → ∃ h', exec (.planeEnableWrite v) s = .next (afterHost s h') ∧ h'.rd Reg.SWC_PLANE_EN = v ∧
       h' = { h with regs := h'.regs, sw.retiring := h'.sw.retiring, sw.strikes := h'.sw.strikes } ∧
       ∀ j < 4, (h.rd Reg.SWC_PLANE_EN).testBit j = false → v.val.testBit j = true →
         j ∉ h'.sw.retiring ∧ ∀ y ∈ h'.sw.strikes, y.1 ≠ j) ∧
     (h.rd Reg.SWC_RATECFG_FLOOR ≤ cap → exec (.rateMeasurement hs) s = .next (afterHost s { shown with sw.rateLow := none })) ∧
     (cap < h.rd Reg.SWC_RATECFG_FLOOR → exec (.rateMeasurement hs) s = .next (afterHost s
       { shown with sw.rateLow := some (h.sw.rateLow.getD h.tb.now) })) ∧
     (h.sw.rateLow = some t → exec .rateLowTimeout s = .next (afterHost s
       (((h.advance (t + ofMs 1)).wr Reg.SWC_EVT_RATE_LOW 1).fault 11 0x21 (h.rd Reg.SWC_RATE_CAP_GBPS))))) ∧
  (∀ (s : State) (fid t : Nat) (q : Fin 80) (p : Fin 10) (w : Fin 81) (v : Word) (x : Stored), s.h.boot.inReset = false →
     let h := s.h
     let m := v.toNat % 4096
     let rsp := h.rd Reg.SWC_BUFCFG_RSP_RSV
     let others := h.minSum - h.rd (Reg.SWC_QCFG_MIN q) + m
     let held := h.advance (aget h.sw.holds p 0 + ofUs (h.holdUs p))
     let ended := (h.advance t).setWm { h.wm w with hold := none }
     let set := { h.wr (Reg.SWC_HOLD_US p) (v.toNat % 2 ^ 20) with sw.holdExt := adel h.sw.holdExt p }
     let cut := h.wr Reg.SWC_BUFCFG_RSP_RSV m
     (h.minSum + m + 3 * h.sw.rsv + 4096 ≤ 32768 → exec (.bufferConfigWrite none v) s = .next (afterHost s (cut.rose 80 h.poolUsed cut.poolUsed).showBuf)) ∧
     (32768 < h.minSum + m + 3 * h.sw.rsv + 4096 → exec (.bufferConfigWrite none v) s = .next (afterHost s (h.wr Reg.SWC_EVT_CFG_REFUSED 1))) ∧
     (others + rsp + 3 * h.sw.rsv + 4096 ≤ 32768 → exec (.bufferConfigWrite (some q) v) s = .next (afterHost s
       (((h.wr (Reg.SWC_QCFG_MIN q) m).wr (Reg.SWC_QCFG_WEIGHT q) (fieldOf v.toNat 12 4)).wr (Reg.SWC_QCFG_MAX q) (fieldOf v.toNat 16 16)).showBuf)) ∧
     (32768 < others + rsp + 3 * h.sw.rsv + 4096 →
       exec (.bufferConfigWrite (some q) v) s = .next (afterHost s (h.wr Reg.SWC_EVT_CFG_REFUSED 1))) ∧
     (h.getStored fid = some x → x.left ≠ none → h.residue x ≠ [] → h.residueAt x = some t → h.modeOf 1 = 0 → (∀ c ∈ h.residue x, c.extra = 0) →
       exec (.residueTimeout fid) s = .next (afterHost s (dropResidue (h.residue x) (h.advance t)))) ∧
     (h.portState p = 1 → exec (.holdTimerExpiry p) s = .next (afterHost s ((residueFirst p held.sw.stored held).closePort p))) ∧
     (h.portState p ≠ 1 → exec (.holdTimerExpiry p) s = .next (afterHost s h)) ∧
     (set.portState p ≠ 1 ∨ h.tb.now < aget h.sw.holds p 0 + ofUs (set.holdUs p) → exec (.holdTimeWrite p v) s = .next (afterHost s set)) ∧
     (set.portState p = 1 → aget h.sw.holds p 0 + ofUs (set.holdUs p) ≤ h.tb.now →
       exec (.holdTimeWrite p v) s = .next (afterHost s (set.closePort p))) ∧
     ((h.wm w).hold = some t → exec (.watermarkHoldoffExpiry w) s = .next (afterHost s (if (h.wm w).xing = 0 then ended else ended.notice w))))

/-- Cyclic admission (R184 to R187): PLAN_ADMIT copies the staging registers into a check, unless one runs; a plan that fails a check is refused with the check's
code, and what awaits its cycle and what is in force stay; in HW a plan that passes is admitted; at its cycle it is in force, with its reserve; each cycle's
images are launched once, at the hub's launch offset; and no hub outside the plan in force launches an image. A launch sends the input image of its cycle, or the last
complete one, stale and counted, or none and counted, to all hubs and to the hub's own maps (R26, R78), and then the output images. What CYASTAT shows once a check is
over is log 98's. -/
def Obligations.PlanAdmission : Prop :=
  ∀ (s : State) (n : Word) (p : Plan), s.h.boot.inReset = false →
    let h := s.h
    let r := h.cyaCheck p
    let shown := (((h.wr Reg.SWC_CYALOAD_BYTES r.load).wr Reg.SWC_CYABUDGET_BYTES r.budget).wr Reg.SWC_CYASPAN_NS r.span).wr Reg.SWC_CYCRSV_RSV r.rsv
    let was := if h.sw.admitted.isSome then 2 else if h.sw.inForce.isSome then 3 else 0
    let refused := ((shown.wr Reg.SWC_CYASTAT_STATE was).wr Reg.SWC_CYASTAT_REFUSE r.code).wr Reg.SWC_EVT_CYA_REFUSED 1
    let admitted := (shown.wr Reg.SWC_CYASTAT_STATE 2).wr Reg.SWC_CYASTAT_REFUSE 0
    (h.rd Reg.SWC_CYASTAT_STATE ≠ 1 → exec .planAdmit s = .next (afterHost s
      { h.wr Reg.SWC_CYASTAT_STATE 1 with sw.checking := some h.staged })) ∧
    (h.rd Reg.SWC_CYASTAT_STATE = 1 → exec .planAdmit s = .next (afterHost s h)) ∧
    (h.sw.checking = some p → (∀ x ∈ h.spl.reqs, x.func ≠ 15) → r.code ≠ 0 →
      exec .cyaCheckDone s = .next (afterHost s { refused with sw.checking := none })) ∧
    (h.sw.checking = some p → (∀ x ∈ h.spl.reqs, x.func ≠ 15) → r.code = 0 → shown.modeOf 15 = 0 →
      exec .cyaCheckDone s = .next (afterHost s
        { admitted with sw.checking := none, sw.admitted := some { p with fast := shown.ringRate == 50 } })) ∧
    (h.sw.admitted = some p → n.toNat = p.act ∨ newer n.toNat p.act = true →
      (h.activate n.toNat).sw = { h.sw with admitted := none, inForce := some p, lastIn := [], rsv := planRsv p, burst := n.toNat,
                                            wms := (h.activate n.toNat).sw.wms } ∧
      h.activate n.toNat = { h with regs := (h.activate n.toNat).regs, sw := (h.activate n.toNat).sw, hostq := (h.activate n.toNat).hostq,
                                    spl := (h.activate n.toNat).spl }) ∧
    (h.tb.running = none → exec .cyclicLaunch s = .next (afterHost s h)) ∧
    (∀ k, h.tb.running = some k → h.sw.inForce = none ∨ k < h.burstDue k → exec .cyclicLaunch s = .next (afterHost s h)) ∧
    (∀ k, h.tb.running = some k → h.burstDue k ≤ k → h.sw.inForce = some p →
      let m := h.burstDue k
      let g := h.advance (h.burstAt m)
      let g0 := { g with sw.burst := m + 1, sw.lastIn := imagesKept m g.sw.lastIn }
      let mine := fun (x : Nat × List Byte) => x.1 % 4096 == m % 4096
      let outs := fun (t : Option Nat) (k : HDie) => sendOutputs p m false t ((indexed p.outs).map fun x => (x.1, x.2.1, x.2.2)) (HDie.lateSlices k p (m % 2 ^ 32))
      let image := fun (k : HDie) (im : List Byte) (stale : Bool) =>
        let k1 := k.sendImage 7 0xFC0 127 stale m (cyclicPayload 1 p.crc im) (some (h.burstAt m)) false
        if k1.hostAttached then k1.imageToMaps k1.hubNum m (some im) stale else k1
      let none_ := g0.bump Reg.SWC_INSTALE_NONE
      exec .cyclicLaunch s = .next (afterHost s (g.launchBurst m false)) ∧
      (p.m ≤ h.hubNum → g.launchBurst m false = g) ∧
      (h.numbered = true → h.hubNum < p.m → h.rd Reg.TIM_CYCLE_EN ≠ 0 → p.ins.getD h.hubNum 0 = 0 →
        g.launchBurst m false = outs (some (h.burstAt m)) g0) ∧
      (h.numbered = true → h.hubNum < p.m → h.rd Reg.TIM_CYCLE_EN ≠ 0 → p.ins.getD h.hubNum 0 ≠ 0 → ∀ x,
        (g.sw.lastIn.find? mine = some x → g.launchBurst m false = outs none (image g0 x.2 false)) ∧
        (g.sw.lastIn.find? mine = none → g.sw.lastIn.head? = some x →
          g.launchBurst m false = outs none (image (g0.bump Reg.SWC_INSTALE_STALE) x.2 true)) ∧
        (g.sw.lastIn = [] → g.launchBurst m false = outs (some (h.burstAt m))
          (if none_.hostAttached then none_.imageToMaps none_.hubNum m none false else none_))))

/-- What passes the checks of R185 keeps every bound of R184 to R187: the CRC is right, no image is longer than 4,096 bytes, the load is within the budget, the span
within K + 1 cycles, the reserves leave 4,096 pool cells, and the activation cycle lies ahead by at least 2. -/
def Obligations.AdmittedPlansKeepTheirBounds : Prop :=
  ∀ (h : HDie) (p : Plan), (h.cyaCheck p).code = 0 →
    planCrc p = p.crc ∧ 1 ≤ p.m ∧ p.m ≤ 120 ∧ (∀ l ∈ p.ins, l ≤ 4096) ∧ (∀ o ∈ p.outs, o.1 ≤ 4096 ∧ (o.1 ≠ 0 → o.2 < p.m)) ∧
    (∀ i, p.m ≤ i → p.ins.getD i 0 = 0 ∧ (p.outs.getD i (0, 0)).1 = 0) ∧
    h.rd Reg.TIM_CYCLE_EN ≠ 0 ∧ p.ins.sum ≤ h.ringRate * h.rd Reg.TIM_CYCLE_NS / 10 ∧
    planSpan p h.ringRate h.hopNs ≤ (p.k + 1) * h.rd Reg.TIM_CYCLE_NS ∧
    3 * planRsv p + h.minSum + h.rd Reg.SWC_BUFCFG_RSP_RSV + 4096 ≤ 32768 ∧
    2 ≤ (p.act + 2 ^ 32 - h.rd Reg.TIM_CYCNUM_N) % 2 ^ 32

/-! ### Time (chapter 9) -/

/-- The host time base (R231 to R233, R244): an increment outside 1.998 to 2.002 ns is refused; a step or a setting further than TIM_JUMP.NS is refused without
FORCE, and otherwise moves the time, sets STEPPED and sends a TIME message with STEP at once, before it whatever the change launches; a TIME message carries the time,
the increment and a sequence number (Table 9.6); a capture shows the whole time in four registers.
The field copy of the time and the stamp FIFOs (R232, R243, R246): a capture shows the whole field time; without messages it holds over and is not locked; a
read of a stamp FIFO's ID shows its head entry, or 0 where it is empty, and a read of SH removes the entry shown. In SLEEP the time copy does not run, and nothing reads it (Table 13.1); a read in STANDBY ends that (R322).
What a capture shows is the time (R230, R232): the four registers together spell it to 2^-16 ns, for every time below 2^48 seconds. -/
def Obligations.TimeBasesOfBothDies : Prop :=
  (∀ (s : State) (fr : Word) (force : Bool), s.h.boot.inReset = false →
     let h := s.h
     let int := aget h.hiHold 0x70014 (h.rd Reg.TIM_INCINT_INT) % 256
     let inc := 2 ^ 32 * int + fr.toNat
     let legal := 1998 * 2 ^ 32 ≤ 1000 * inc ∧ 1000 * inc ≤ 2002 * 2 ^ 32
     let near := fun (t : Int) => ((t - (h.tb.now : Int)).natAbs : Int) ≤ ofNs (h.rd Reg.TIM_JUMP_NS)
     let stepped := (h.tb.now : Int) + h.stepSize
     let told := fun (g : HDie) =>
       let m := mkMsg 0x01 0 [timeNs g.tb.now, timeSec g.tb.now % 2 ^ 32, timeSec g.tb.now / 2 ^ 32 + timeFrac g.tb.now * 2 ^ 16, g.tb.inc % 2 ^ 32,
         g.tb.inc / 2 ^ 32 % 256 + (if g.tb.stepped then 256 else 0), g.brg.timeSeq % 65536]
       { g with brg.bar.tx := g.brg.bar.tx ++ [m], tb.stepped := false, brg.timeSeq := g.brg.timeSeq + 1 }
     let moved := fun (t : Nat) => ({ h with tb.now := t, tb.stepped := true }).wr Reg.TIM_EVT_STEPPED 1
     (legal → exec (.timIncfrWrite fr) s = .next (afterHost s
       { (h.wr Reg.TIM_INCINT_INT int).wr Reg.TIM_INCFR_FRAC fr.toNat with tb.inc := inc, hiHold := adel h.hiHold 0x70014 })) ∧
     (¬legal → exec (.timIncfrWrite fr) s = .next (afterHost s (h.wr Reg.TIM_EVT_INC_REFUSED 1))) ∧
     (near stepped ∨ force = true → exec (.timeStep force) s = .next (afterHost s (h.changeTime stepped.toNat))) ∧
     (¬near stepped → exec (.timeStep false) s = .next (afterHost s (h.wr Reg.TIM_EVT_JUMP_REFUSED 1))) ∧
     (near h.setTime ∨ force = true → exec (.timeSet force) s = .next (afterHost s (h.changeTime h.setTime))) ∧
     (¬near h.setTime → exec (.timeSet false) s = .next (afterHost s (h.wr Reg.TIM_EVT_JUMP_REFUSED 1))) ∧
     exec .timeCapture s = .next (afterHost s
       { (((h.wr Reg.TIM_NOWFR_FRAC (timeFrac h.tb.now)).wr Reg.TIM_NOWNS_NS (timeNs h.tb.now)).wr Reg.TIM_NOWSL_SEC (timeSec h.tb.now % 2 ^ 32)).wr
           Reg.TIM_NOWSH_SEC (timeSec h.tb.now / 2 ^ 32) with tb.cap := h.tb.now }) ∧
     exec .timeMessagePeriod s = .next (afterHost s (told h)) ∧
     (∀ t, t ≤ h.tb.now ∨ (h.hostq.launches = [] ∧ h.sw.inForce = none) → h.changeTime t = told (moved t))) ∧
  (∀ (s : State) (k : Fin 4) (e : PtpStamp), s.h.boot.inReset = false →
     let h := s.h
     let f := s.f
     let run := f.toRun
     (f.power ≤ 1 → exec .fieldTimeCapture s = .next (afterField s
       ((((run.wr Reg.FTM_NOWFR_FRAC (timeFrac f.tb.now)).wr Reg.FTM_NOWNS_NS (timeNs f.tb.now)).wr Reg.FTM_NOWSL_SEC (timeSec f.tb.now % 2 ^ 32)).wr
         Reg.FTM_NOWSH_SEC (timeSec f.tb.now / 2 ^ 32)))) ∧
     (f.power ≤ 1 → exec .fieldHoldover s = .next (afterField s
       { ((f.wr Reg.FTM_STAT_HOLDOVER 1).wr Reg.FTM_EVT_HOLD 1).wr Reg.FTM_STAT_LOCKED 0 with tb.good := 0, tb.bad := 0 })) ∧
     (1 < f.power → ∀ c ∈ [Instr.fieldTimeCapture, .fieldHoldover], exec c s = .next (afterField s f)) ∧
     (h.tb.ptpRx.find? (fun y => y.1 == k.val) = some (k.val, e) → exec (.ptpFifoReadId k false) s = .next (afterHost s
       { (((h.wr (Reg.TIM_PTPRXID_ENTRY k) e.id).wr (Reg.TIM_PTPRXNS_ENTRY k) (timeNs e.time)).wr (Reg.TIM_PTPRXSL_ENTRY k)
           (timeSec e.time % 2 ^ 32)).wr (Reg.TIM_PTPRXSH_ENTRY k) (timeSec e.time / 2 ^ 32 + timeFrac e.time * 2 ^ 16) with
         tb.ptpHead := aput h.tb.ptpHead (2 * k) e })) ∧
     (h.tb.ptpTx.find? (fun y => y.1 == k.val) = none → exec (.ptpFifoReadId k true) s = .next (afterHost s
       { (((h.wr (Reg.TIM_PTPTXID_ENTRY k) 0).wr (Reg.TIM_PTPTXNS_ENTRY k) 0).wr (Reg.TIM_PTPTXSL_ENTRY k) 0).wr (Reg.TIM_PTPTXSH_ENTRY k) 0 with
         tb.ptpHead := adel h.tb.ptpHead (2 * k + 1) })) ∧
     (ahas h.tb.ptpHead (2 * k + 1) = true → exec (.ptpFifoReadSh k true) s = .next (afterHost s
       { h.wr (Reg.TIM_PTPSTAT_TXN k) (h.rd (Reg.TIM_PTPSTAT_TXN k) - 1) with
         tb.ptpHead := adel h.tb.ptpHead (2 * k + 1), tb.ptpTx := dropFirst (fun y => y.1 == k.val) h.tb.ptpTx })) ∧
     (ahas h.tb.ptpHead (2 * k) = false → exec (.ptpFifoReadSh k false) s = .next (afterHost s h))) ∧
  (∀ (h : HDie), h.tb.now < 2 ^ 48 * secT →
     let g := h.capture
     mkTime (g.rd Reg.TIM_NOWSL_SEC + 2 ^ 32 * g.rd Reg.TIM_NOWSH_SEC) (g.rd Reg.TIM_NOWNS_NS) (g.rd Reg.TIM_NOWFR_FRAC) = g.tb.now / 2 ^ 16 * 2 ^ 16 ∧
     g.rd Reg.TIM_NOWNS_NS < 1000000000 ∧ g.tb.now = h.tb.now)

/-- The cycle's registers (R234): an enable with a cycle time outside 31,250 to 8,000,000 ns is refused; NS does not change while EN is 1; EN is not cleared
while the lead machine is not OFF or a plan is in force; and enabling shows the cycle that the time is in, taken as already running, or, before the epoch, cycle 0 as
the first to start.
Cycle starts of both dies (R234, R235, R237, R245): with EN 0 nothing starts; else the next cycle starts at its own S_N, or the newest of those that the time
has passed, with those between counted, and the launches at a time already passed are counted; a plan that is
activated starts with empty slices, and the field die has it while the link is up; the field copy's starts set G63 where CYCSTR asks for it, in RUN and STANDBY, and an
output image of length 0 has crossed at its cycle's start. What TIM_OFFSTAT.VALID shows from cycle to cycle is log 172's, and what goes first at a port log 171's. -/
def Obligations.CyclesConfiguredAndStarted : Prop :=
  (∀ (s : State) (v : Word), s.h.boot.inReset = false →
     let h := s.h
     let ns := v.toNat % 2 ^ 23
     let on := (h.wr Reg.TIM_CYCLE_NS ns).wr Reg.TIM_CYCLE_EN 1
     let n := on.cycleAt h.tb.now
     let off := { h.wr Reg.TIM_CYCLE_EN 0 with tb.running := none }
     (bitOf v.toNat 31 = true → h.rd Reg.TIM_CYCLE_EN ≠ 0 → exec (.cycleConfigWrite v) s = .next (afterHost s h)) ∧
     (bitOf v.toNat 31 = true → h.rd Reg.TIM_CYCLE_EN = 0 → ns < 31250 ∨ 8000000 < ns →
       exec (.cycleConfigWrite v) s = .next (afterHost s (h.wr Reg.TIM_EVT_CFG_REFUSED 1))) ∧
     (bitOf v.toNat 31 = true → h.rd Reg.TIM_CYCLE_EN = 0 → 31250 ≤ ns → ns ≤ 8000000 → on.epoch ≤ h.tb.now →
       exec (.cycleConfigWrite v) s = .next (afterHost s
         (HDie.copyCycle (HDie.leadEval { on.wr Reg.TIM_CYCNUM_N (n % 2 ^ 32) with
           tb.running := none, tb.firstAct := n + 1, tb.enAt := h.tb.now })))) ∧
     (bitOf v.toNat 31 = true → h.rd Reg.TIM_CYCLE_EN = 0 → 31250 ≤ ns → ns ≤ 8000000 → h.tb.now < on.epoch →
       exec (.cycleConfigWrite v) s = .next (afterHost s
         (HDie.copyCycle (HDie.leadEval { on.wr Reg.TIM_CYCNUM_N 0 with tb.running := none, tb.firstAct := 0, tb.enAt := h.tb.now })))) ∧
     (bitOf v.toNat 31 = false → h.rd Reg.TIM_CYCLE_EN = 0 → exec (.cycleConfigWrite v) s = .next (afterHost s (h.wr Reg.TIM_CYCLE_NS ns))) ∧
     (bitOf v.toNat 31 = false → h.rd Reg.TIM_CYCLE_EN ≠ 0 → h.rd Reg.RED_LEADSTAT_STATE ≠ 0 ∨ h.rd Reg.SWC_CYASTAT_STATE = 3 ∨ h.sw.inForce ≠ none →
       exec (.cycleConfigWrite v) s = .next (afterHost s (h.wr Reg.TIM_EVT_CFG_REFUSED 1))) ∧
     (bitOf v.toNat 31 = false → h.rd Reg.TIM_CYCLE_EN ≠ 0 → h.rd Reg.RED_LEADSTAT_STATE = 0 → h.rd Reg.SWC_CYASTAT_STATE ≠ 3 → h.sw.inForce = none →
       exec (.cycleConfigWrite v) s = .next (afterHost s off.copyCycle))) ∧
  (∀ (s : State), s.h.boot.inReset = false →
     let h := s.h
     let next : Nat := match h.tb.running with
       | some n => n + 1
       | none => h.tb.firstAct
     let g := h.advance (h.epoch + next * ofNs (h.rd Reg.TIM_CYCLE_NS))
     let now := max next (g.cycleAt g.tb.now)
     let c : HDie := HDie.resAge { g.offsetAge.wr Reg.TIM_CYCNUM_N (now % 2 ^ 32) with tb.running := some now }
     let d := if next < now then (c.bump Reg.TIM_CYCSKIP_COUNT (now - next)).wr Reg.TIM_EVT_CYCSKIP 1 else c
     let passed := fun (l : List Nat) (x : HDie) =>
       if x.sw.inForce = none then x else launchPassed 0 (l.filter fun k => decide (x.burstAt k + ofNs 3 < x.tb.now)) x
     let h' := passed [now] ((passed ((upto (now - next)).map (next + ·)) (launchDue false d.hostq.launches d)).cycleActs now)
     let told := s.h.sw.admitted ≠ none ∧ h'.sw.admitted = none
     let f := s.f
     let fnext : Nat := match f.tb.running with
       | some n => n + 1
       | none => f.tb.firstAct
     let fg := f.advance (f.epoch + fnext * ofNs (f.rd Reg.FTM_CYCLE_NS))
     let fnow := max fnext (fg.cycleAt fg.tb.now)
     let fc : FDie := { fg.wr Reg.FTM_CYCNUM_N (fnow % 2 ^ 32) with tb.running := some fnow }
     let fd := if fc.rd Reg.MAR_CFG_CYCSTR = 0 then fc else fc.changeString 0 63 true false
     let sent := fun (t : State) => { carryF (carryH (t.withH t.h.settle)) with pending := s.pending }
     (h.rd Reg.TIM_CYCLE_EN = 0 → h.sw.admitted = none → exec .cycleStart s = .next (sent s)) ∧
     (h.rd Reg.TIM_CYCLE_EN ≠ 0 → ¬told → exec .cycleStart s = .next (sent (s.withH h'))) ∧
     (h.rd Reg.TIM_CYCLE_EN ≠ 0 → told → exec .cycleStart s = .next (sent
       ((s.withH h').withF { f with plan := if h'.rd Reg.BAR_STAT_UP ≠ 0 then h'.fieldPlan else f.plan, slices := [] }))) ∧
     (f.rd Reg.FTM_CYCLE_EN = 0 ∨ 1 < f.power → exec .fieldCycleStart s = .next (afterField s f)) ∧
     (f.rd Reg.FTM_CYCLE_EN ≠ 0 → f.power ≤ 1 → (∀ p, fd.plan = some p → p.outLen ≠ 0) → exec .fieldCycleStart s = .next (afterField s fd)) ∧
     (∀ p, f.rd Reg.FTM_CYCLE_EN ≠ 0 → f.power ≤ 1 → fd.plan = some p → p.outLen = 0 → exec .fieldCycleStart s = .next (afterField s (fd.pushSlices []))))

/-! ### Spill FIFOs (chapter 7) -/

/-- What a push, a pop and a commit do to the words of an enabled FIFO (R193, R195, R196): without packets, words leave in the order they came; a word enters only where
there is room; an open packet is seen by no pop until its commit puts it behind its length word; and no operation stores more than the FIFO holds. -/
def Obligations.FifoKeepsOrderAndBound : Prop :=
  ∀ (x : Fifo) (cap w : Nat) (pkt : Bool), x.stored ≤ cap →
    (∀ y a, x.pushed cap pkt w = some (y, a) → y.stored ≤ cap ∧
      (pkt = false → y.words = x.words ++ [w] ∧ y.opn = x.opn ∧ a = false ∧ x.stored < cap) ∧
      (pkt = true → a = false → y.words = x.words ∧ y.opn = some (x.opn.getD [] ++ [w])) ∧
      (pkt = true → a = true → y.words = x.words ++ lenWord ((x.opn.getD []).length + 1) true :: (x.opn.getD [] ++ [w]) ∧ y.opn = none)) ∧
    (pkt = false → (x.pushed cap pkt w = none ↔ x.stored = cap)) ∧
    (∀ y, x.committed cap = some y → y.stored ≤ cap ∧ y.opn = none ∧
      (∀ l, x.opn = some l → y.words = x.words ++ lenWord l.length x.err :: l) ∧ (x.opn = none → y.words = x.words ++ [lenWord 0 x.err]))

/-- Hardware pushes, pops and commits, and the data window (R193, R195, R197 to R200, R223): a disabled FIFO ignores a push; a push end that blocks waits behind what
waits already, and one that finds no room there takes nothing; one that does not block drops what finds no room; a pop of a receive FIFO becomes a STREAM message in
the queue to the transmitter, or waits while there is no word, no enable or no room there; a pop of CAN_TSQ waits too where the pool has a buffer for the packet;
software reads the receive FIFOs and writes the transmit FIFOs alone, and a read of an empty one gives the last word again, QLAST, with UNDERRUN; a push and a pop in one
field clock leave in MEET which went first, or BOTH; clearing EN empties the FIFO and setting it is refused where the spill memory has no room. Hardware ends run in
RUN alone (Table 13.1). How the barrier's own queues hold messages is log 174's, and where a pop waits log 175's.
A pop takes the oldest visible word (R193, R198): what it answers is the first of the words, QLAST keeps it, and the rest stay in their order, no other FIFO
changing, where the middle is empty or the word it gives up is right; a push that waits goes on as far as there is room now, the oldest first, and one for which there
is still none waits on. -/
def Obligations.FifoCommandsAndPops : Prop :=
  (∀ (s : State) (q : Fin 292) (w v : Word) (y : Fifo) (met a : Bool) (x : Nat) (g : FDie),
     let r := fifoRegs q
     let f := s.f.meets q false met
     let p := s.f.meets q true met
     let run := s.f.toRun
     let u := run.meets q false met
     let o := run.meets q true met
     let has := run.lacksFifo q = false
     let blocks := ¬(272 ≤ q.val ∧ q.val < 288) ∧ f.rd r.nb = 0
     let put := fun (f : FDie) => (f.setFifo { y with mark := f.found (f.fifo q) false }).spill q
     let full := fun (f : FDie) => (f.setFifo { f.fifo q with mark := f.found (f.fifo q) false }).dropPush q
     let hold := fun (l : List (Option Nat)) => f.setFifo { f.fifo q with waiting := l }
     let z := hold [some w.toNat]
     let gone := g.setFifo { g.fifo q with popWait := 0 }
     let last := gone.rd r.pkt ≠ 0 ∧ (gone.fifo q).left = 0
     let push := exec (.fifoPush q w met) s
     let pop := exec (.fifoPop q met) s
     let commit := exec (.fifoCommit q met) s
     (∀ (f : FDie) (isPop : Bool), f.meets q isPop met =
       if met = true ∧ (f.fifo q).mark.1 ≠ isPop then
         f.wr r.meet (if (f.fifo q).mark.2.1 = true ∨ (f.fifo q).mark.2.2 = true then (if (f.fifo q).mark.1 then 1 else 2) else 3)
       else f) ∧
     (s.f.power = 0 →
       (f.fifoOn q = false → push = .next (afterField s f) ∧ commit = .next (afterField s f)) ∧
       (f.fifoOn q = true → ¬blocks → (f.fifo q).pushed (f.fifoCap q) (f.on r.pkt) w.toNat = some (y, a) →
         push = .next (afterField s (if a then (put f).wr r.pktErr 1 else put f))) ∧
       (f.fifoOn q = true → ¬blocks → (f.fifo q).pushed (f.fifoCap q) (f.on r.pkt) w.toNat = none → push = .next (afterField s (full f))) ∧
       (f.fifoOn q = true → blocks → push = .next (afterField s
         (drainPushes q ((f.fifo q).waiting ++ [some w.toNat]) (hold ((f.fifo q).waiting ++ [some w.toNat]))))) ∧
       (f.fifoOn q = true → blocks → (f.fifo q).waiting = [] → z.fifoOn q = true → (z.fifo q).pushed (z.fifoCap q) (z.on r.pkt) w.toNat = none →
         push = .next (afterField s (z.setFifo { z.fifo q with mark := z.found (z.fifo q) false }))) ∧
       (s.f.barrierPops q = true → (p.fifo 289).waiting = [] → p.pop q = (g, some x) → pop = .next (afterField s
         (gone.bqSend (mkMsg 0x40 0 ((streamOf q + 4 * 2 ^ 9 + b2n (decide last) * 2 ^ 31) :: msgWords (leBytes 4 x)))))) ∧
       (s.f.barrierPops q = true → (p.fifo 289).waiting ≠ [] → pop = .next (afterField s (p.setFifo { p.fifo q with popWait := 2 }))) ∧
       (s.f.barrierPops q = true → (p.fifo 289).waiting = [] → (p.fifo q).words = [] ∨ p.fifoOn q = false →
         pop = .next (afterField s (p.setFifo { p.fifo q with popWait := 1 }))) ∧
       (∀ k, 256 ≤ q.val → q.val < 272 → (upto 32).find? (fun k => p.inPool (q - 256) k && (p.txState (q - 256) k == 0 || p.txState (q - 256) k == 4)) = some k →
         p.rd r.pkt ≠ 0 → (p.fifo q).left = 0 → (p.fifo q).words = [] ∨ p.fifoOn q = false →
         pop = .next (afterField s (p.setFifo { p.fifo q with popWait := 1 }))) ∧
       (s.f.barrierPops q = false → ¬(256 ≤ q.val ∧ q.val < 272) → pop = .next (afterField s s.f)) ∧
       (f.fifoOn q = true → f.rd r.pkt ≠ 0 → ¬blocks → (f.fifo q).committed (f.fifoCap q) = some y → commit = .next (afterField s (put f))) ∧
       (f.fifoOn q = true → f.rd r.pkt ≠ 0 → ¬blocks → (f.fifo q).committed (f.fifoCap q) = none → commit = .next (afterField s (full f)))) ∧
     (s.f.power ≠ 0 → push = .next (afterField s s.f) ∧ pop = .next (afterField s s.f) ∧ commit = .next (afterField s s.f)) ∧
     (s.f.power ≤ 1 →
       (has → softReads q = true → o.fifoOn q = true → (o.fifo q).words ≠ [] → exec (.fifoSoftwareRead q met) s = .next (afterField s (o.pop q).1) ∧
         (o.softPop q).2 = ((o.fifo q).words.head?).getD 0) ∧
       (has → softReads q = true → (o.fifo q).words = [] → exec (.fifoSoftwareRead q met) s = .next (afterField s
         (((o.wr r.underrun 1).bump r.unf).setFifo { o.fifo q with mark := o.found (o.fifo q) true })) ∧
         (o.softPop q).2 = o.rd r.last) ∧
       (has → softWrites q = true → u.fifoOn q = true → (u.fifo q).pushed (u.fifoCap q) (u.on r.pkt) w.toNat = some (y, false) →
         exec (.fifoSoftwareWrite q w met) s = .next (afterField s (put u))) ∧
       (has → softWrites q = true → u.fifoOn q = true → (u.fifo q).pushed (u.fifoCap q) (u.on r.pkt) w.toNat = none →
         exec (.fifoSoftwareWrite q w met) s = .next (afterField s (full u))) ∧
       (let set := run.wr r.pkt (fieldOf v.toNat 1 1)
        let mid := fun (f : FDie) => if 128 ≤ q.val ∧ q.val < 256 then f.wr r.nb (fieldOf v.toNat 2 1) else f
        let new := (mid set).wr r.mid (fieldOf v.toNat 8 6)
        (has → run.fifoOn q = false → run.rd r.pkt = 0 → bitOf v.toNat 0 = true →
         exec (.fifoEnableWrite q v) s = .next (afterField s
           (if midRoom q < new.midSum q + min 32 (new.rd r.mid) then new.wr r.refused 1
            else (new.wr r.en 1).setFifo { new.fifo q with pages := new.freePages q }))) ∧
        (has → run.fifoOn q = true → run.rd r.pkt = 0 ∨ bitOf v.toNat 1 = true → bitOf v.toNat 0 = false →
         exec (.fifoEnableWrite q v) s = .next (afterField s (((mid set).wr r.en 0).setFifo
           { (mid set).fifo q with words := [], opn := none, err := false, waiting := [], left := 0, pages := [], put := 0, got := 0 })))) ∧
       (softReads q = false → exec (.fifoSoftwareRead q met) s = .next (afterField s run)) ∧
       (softWrites q = false → exec (.fifoSoftwareWrite q w met) s = .next (afterField s run)) ∧
       (run.lacksFifo q = true → ∀ c ∈ [Instr.fifoSoftwareRead q met, .fifoSoftwareWrite q w met, .fifoEnableWrite q v], exec c s = .next (afterField s run))) ∧
     (1 < s.f.power → ∀ c ∈ [Instr.fifoSoftwareRead q met, .fifoSoftwareWrite q w met, .fifoEnableWrite q v], exec c s = .next (afterField s s.f))) ∧
  (∀ (f : FDie) (q w v : Nat) (ws : List Nat) (ps : List (Option Nat)) (g : FDie), f.fifoOn q = true → (f.fifo q).words = w :: ws → (f.fifo q).q = q →
     let x := f.fifo q
     let f0 := f.setFifo { x with words := ws, left := popLeft (f.on (fifoRegs q).pkt) x.left w, mark := f.found x true }
     let f1 := (f0.refillHead q).wr (fifoRegs q).last w
     (f.pop q).2 = some w ∧
     (x.waiting = [] → (f.pop q).1.rd (fifoRegs q).last = w % 2 ^ 32) ∧
     (x.waiting = [] → x.put ≤ x.got ∨ f0.mem.idle (x.place x.got).1 = true →
       ((f.pop q).1.fifo q).words = ws ∧ ((f.pop q).1.fifo q).opn = x.opn ∧ (∀ p, p ≠ q → (f.pop q).1.fifo p = f.fifo p)) ∧
     (x.waiting = some v :: ps → f1.push q v = (g, true) → (f.pop q).1 = drainPushes q ps (g.setFifo { g.fifo q with waiting := ps })) ∧
     (x.waiting = some v :: ps → f1.push q v = (g, false) → (f.pop q).1 = g))

/-! ### Lines, strings and engines' registers (chapter 10) -/

/-- Registers of clusters, lines, pin windows, slices and instruction memory (R252 to R255, R268, R274, R289): what a write stores, and what it is refused for; a cluster's
EN starts each engine whose bit it sets at its ENTRY and stops each whose bit it clears; a write of a line's INV shows in its LEVEL (log 176); a line takes software's
value where its DRV is 0xFF. The writes end STANDBY, and a die in SLEEP has none (R321, R322).
Banks, inputs and strings (R256, R257, R261 to R263, R461): FVIO_b is present from 1.2 V on and does not fit outside the window of its VSEL; the bank's inputs follow,
and its source raises a fault as it goes out of range and no other while it stays so (log 176); VALUE shows what the holder drives (log 177); an input takes the level at its ball, inverted where INV asks for it,
and low while its bank has no good FVIO; software sets and clears strings, each bit of a register one.
A string holds what it was set to (R261, R262), whatever the cluster asks, and a clear that meets a set of it leaves it as the set did; other strings keep their levels. -/
def Obligations.FieldConfigurationLinesAndStrings : Prop :=
  (∀ (s : State) (n : Fin 128) (l : Fin 256) (b : Fin 8) (c : Fin 16) (k : Fin 2) (w : Fin 512) (v : Word) (o : Bool),
     let f := s.f.toRun
     let x := v.toNat
     let near := x % 256 = 0xFF ∨ (x % 256 < 128 ∧ f.lacksCluster (x % 256 / 8) = false ∧ (x % 256 / 8 = l / 16 ∨ x % 256 / 8 = (l / 16 + 1) % 16 ∨ x % 256 / 8 = (l / 16 + 15) % 16))
     let window := fieldOf x 8 6 ≤ 32 ∧ fieldOf x 24 6 ≤ 32 ∧ fieldOf x 0 6 + fieldOf x 8 6 ≤ 48 ∧ fieldOf x 16 6 + fieldOf x 24 6 ≤ 48
     let slice := fieldOf x 0 12 % 4 = 0 ∧ fieldOf x 0 12 + 4 * fieldOf x 16 11 ≤ 4096
     let has := f.lacksCluster (n.val / 8) = false
     let hasC := f.lacksCluster c = false
     let line := (((((((f.wr (Reg.FIO_CFG_DRV l) (x % 256)).wr (Reg.FIO_CFG_MODE l) (fieldOf x 8 2)).wr (Reg.FIO_CFG_PULL l) (fieldOf x 10 2)).wr
       (Reg.FIO_CFG_INV l) (fieldOf x 12 1)).wr (Reg.FIO_CFG_SLEW l) (fieldOf x 13 1)).wr (Reg.FIO_CFG_SAFE l) (fieldOf x 14 2)).wr
       (Reg.FIO_CFG_FILT l) (fieldOf x 16 4))
     let shut := f.rd (Reg.MAR_CCTL_ACTIVE c) = k ∧ f.rd (Reg.MAR_CEN_EN c) ≠ 0
     let was := f.rd (Reg.MAR_CEN_EN c)
     let engine := fun (g : FDie) (i : Nat) =>
       if bitOf x i = true ∧ bitOf was i = false then
         ((g.wr (Reg.MAR_ESTAT_STATE c i) 1).wr (Reg.MAR_ESTAT_STALL c i) 0).wr (Reg.MAR_ESTAT_PC c i) (g.rd (Reg.MAR_ECFG_ENTRY c i))
       else if bitOf x i = false ∧ bitOf was i = true then
         let stop := (g.wr (Reg.MAR_ESTAT_STATE c i) 0).wr (Reg.MAR_ESTAT_STALL c i) 0
         if (g.eng (8 * c + i)).held then stop.setEng (8 * c + i) { g.eng (8 * c + i) with held := false } else stop
       else g
     let set := ([0, 1, 2, 3, 4, 5, 6, 7] : List Nat).foldl engine (f.wr (Reg.MAR_CEN_EN c) (x % 256))
     let writes := [Instr.clusterEnableWrite c v, .pinWindowWrite n v, .fioCfgWrite l v, .imageSliceConfigWrite n o v, .instructionMemoryWrite c k w v,
       .bankOutputSet b v, .bankOutputClear b v, .safeClear]
     (s.f.power ≤ 1 →
       (hasC → set.rd (Reg.MAR_CCTL_SWAP_PEND c) = 0 → exec (.clusterEnableWrite c v) s = .next (afterField s set)) ∧
       (hasC → exec (.clusterEnableWrite c v) s = .next (afterField s (set.trySwap c))) ∧
       (has → window → exec (.pinWindowWrite n v) s = .next (afterField s
         ((((f.ew Reg.MAR_EPIN_OUT_BASE n (fieldOf x 0 6)).ew Reg.MAR_EPIN_OUT_CNT n (fieldOf x 8 6)).ew Reg.MAR_EPIN_IN_BASE n (fieldOf x 16 6)).ew
           Reg.MAR_EPIN_IN_CNT n (fieldOf x 24 6)))) ∧
       (has → ¬window → exec (.pinWindowWrite n v) s = .next (afterField s (f.ew Reg.MAR_EEVT_CFG_REFUSED n 1))) ∧
       (near → exec (.fioCfgWrite l v) s = .next (afterField s (line.wr (Reg.FIO_IN_LEVEL l) (b2n (line.inLevel l))))) ∧
       (¬near → exec (.fioCfgWrite l v) s = .next (afterField s (f.wr (Reg.FIO_EVT_REFUSED l) 1))) ∧
       (has → slice → exec (.imageSliceConfigWrite n true v) s = .next (afterField s
         ((f.ew Reg.MAR_EIMGO_OFF n (fieldOf x 0 12)).ew Reg.MAR_EIMGO_LEN n (fieldOf x 16 11)))) ∧
       (has → slice → exec (.imageSliceConfigWrite n false v) s = .next (afterField s
         (((f.ew Reg.MAR_EIMGI_OFF n (fieldOf x 0 12)).ew Reg.MAR_EIMGI_LEN n (fieldOf x 16 11)).ew Reg.MAR_EIMGI_CYC n (fieldOf x 31 1)))) ∧
       (has → ¬slice → exec (.imageSliceConfigWrite n o v) s = .next (afterField s (f.ew Reg.MAR_EEVT_CFG_REFUSED n 1))) ∧
       (hasC → shut → exec (.instructionMemoryWrite c k w v) s = .next (afterField s (f.wr (Reg.MAR_CEVT_ACCESS_FAULT c) 1))) ∧
       (hasC → ¬shut → exec (.instructionMemoryWrite c k w v) s = .next (afterField s
         ((f.wr (Reg.MAR_IMEM_WORD c (512 * k + w)) x).imemStore c k w))) ∧
       (f.lacksCluster (n.val / 8) = true → ∀ c ∈ [Instr.pinWindowWrite n v, .imageSliceConfigWrite n o v], exec c s = .next (afterField s f)) ∧
       (f.lacksCluster c = true → ∀ i ∈ [Instr.clusterEnableWrite c v, .instructionMemoryWrite c k w v], exec i s = .next (afterField s f)) ∧
       exec (.bankOutputSet b v) s = .next (afterField s (f.softBank b x 0xFFFFFFFF)) ∧
       exec (.bankOutputClear b v) s = .next (afterField s (f.softBank b x 0)) ∧
       (f.linkUp = true → exec .safeClear s = .next (afterField s { f.wr Reg.FIO_SAFE_ACTIVE 0 with safeSnap := [] })) ∧
       (f.linkUp = false → exec .safeClear s = .next (afterField s f))) ∧
     (1 < s.f.power → ∀ i ∈ writes, exec i s = .next (afterField s s.f)) ∧
     (f.rd (Reg.FIO_CFG_DRV l) = 0xFF → f.softOut l o = (f.wr (Reg.FIO_OUT_VALUE l) (b2n o)).wr (Reg.FIO_IN_DRIVEN l) (b2n o)) ∧
     (f.rd (Reg.FIO_CFG_DRV l) ≠ 0xFF → f.softOut l o = f.wr (Reg.FIO_OUT_VALUE l) (b2n o))) ∧
  (∀ (s : State) (b : Fin 8) (l : Fin 256) (v : Bool) (r : Fin 18) (x met : Word) (mv : BitVec 13),
     let f := s.f
     let good := f.rd (Reg.FIO_BSTAT_PRESENT (l / 32)) ≠ 0 ∧ f.rd (Reg.FIO_BSTAT_MISMATCH (l / 32)) = 0
     let seen := { f with high := if v then insertUp l f.high else f.high.filter fun x => x != l.val }
     let lv : Bool := decide (good ∧ (v = true ↔ f.rd (Reg.FIO_CFG_INV l) = 0))
     let u := mv.toNat
     let present := 1200 ≤ u
     let fits := if f.rd (Reg.FIO_BCFG_VSEL b) = 0 then 2850 ≤ u ∧ u ≤ 3750 else 1620 ≤ u ∧ u ≤ 1980
     let kept := { f with fvio := f.fvio.set b u }
     let shown := (kept.wr (Reg.FIO_BSTAT_PRESENT b) (if present then 1 else 0)).wr (Reg.FIO_BSTAT_MISMATCH b) (if present ∧ ¬fits then 1 else 0)
     let g := if f.power = 2 then shown else shown.bankInputs b
     let bad := g.rd (Reg.FIO_BSTAT_PRESENT b) = 0 ∨ g.rd (Reg.FIO_BSTAT_MISMATCH b) ≠ 0
     let rest := g.outs.filter fun y => !(y == (262 + b.val, 0))
     let volts := [Instr.fvioOutOfRange b mv, .fvioInRange b mv]
     let run := f.toRun
     let bits := (upto (if r.val < 2 then 32 else 8)).filter fun i => bitOf x.toNat i
     let at_ := fun (i : Nat) => stringAt r i
     let strings := [Instr.stringSoftwareSet r x met, .stringSoftwareClear r x met]
     (b.val < f.fvio.length → f.stage ≠ 4 → ∀ c ∈ volts,
       (bad → (262 + b.val, 0) ∉ g.outs → g.power ≠ 2 ∨ g.stage = 3 → exec c s = .next (carryF (s.withF
         (({ g with outs := (262 + b.val, 0) :: rest } : FDie).fault (262 + b) 0x2B (g.rd (Reg.FIO_BSTAT_PRESENT b)))))) ∧
       (bad → (262 + b.val, 0) ∈ g.outs ∨ (g.power = 2 ∧ g.stage ≠ 3) → exec c s = .next (carryF (s.withF { g with outs := (262 + b.val, 0) :: rest }))) ∧
       (¬bad → exec c s = .next (carryF (s.withF { g with outs := rest })))) ∧
     (f.stage = 4 → ∀ c ∈ volts, exec c s = .next (carryF (s.withF kept))) ∧
     (f.power = 0 → f.level l = lv → exec (.inputLevelChange l v) s = .next (afterField s seen)) ∧
     (f.power = 0 → f.level l ≠ lv → exec (.inputLevelChange l v) s = .next (afterField s
       (pinPass l lv (f.engs.map (·.1)) ((seen.wr (Reg.FIO_IN_LEVEL l) (b2n lv)).wr (if lv then Reg.FIO_EVT_RISE l else Reg.FIO_EVT_FALL l) 1)))) ∧
     (f.power ≠ 0 → exec (.inputLevelChange l v) s = .next (afterField s f)) ∧
     (f.power ≤ 1 → r.val < 2 ∨ run.lacksCluster (r.val - 2) = false →
       exec (.stringSoftwareSet r x met) s = .next (afterField s
         (bits.foldl (fun g i => (g.strSet (at_ i).1 (at_ i).2 (bitOf met.toNat i)).wakeString (at_ i).1 (at_ i).2) run)) ∧
       exec (.stringSoftwareClear r x met) s = .next (afterField s
         (bits.foldl (fun g i => (g.strClr (at_ i).1 (at_ i).2 (bitOf met.toNat i)).wakeString (at_ i).1 (at_ i).2) run))) ∧
     (f.power ≤ 1 → 2 ≤ r.val → run.lacksCluster (r.val - 2) = true → ∀ c ∈ strings, exec c s = .next (afterField s run)) ∧
     (1 < f.power → ∀ c ∈ strings, exec c s = .next (afterField s f))) ∧
  (∀ (f : FDie) (c : Fin 16) (k : Nat) (met : Bool), k < 72 →
     (f.strSet c k met).string c k = true ∧ (f.strClr c k met).string c k = (if met then f.string c k else false) ∧
     (∀ j, j < 72 → j ≠ k → (f.strSet c k met).string c j = f.string c j ∧ (f.strClr c k met).string c j = f.string c j))

/-! ### Engine instructions (chapter 11) -/

/-- A word that an engine cannot issue halts it (R275, R288): the undefined opcodes, and the first cause of Table 11.5 that any instruction meets; the engine is HALTED with
the cause and its PC, and reports a fault; a word with another opcode than the command's is not issued; and under a pending forced swap an instruction of two clocks is
held unissued, whatever Table 11.5 has to say of it (R291). Engines run in RUN alone (Table 13.1).
The instructions that an engine performs at once (R278 to R280, R282, R284, R287): each on the field die that the fetch left, with PC already at the next word. NOP does
nothing more; JMP goes to ADDR where its relation holds of the value after STEP; MOV gives its destination the operation of both values; STAMP gives X and Y
a time; IRQ sets its bit, with a message where it was clear; and a word issued anywhere but RUNNING, or on a die that is not in RUN, does nothing. -/
def Obligations.EngineFaultsAndArithmetic : Prop :=
  (∀ (s : State) (n : Fin 128) (cause : Nat),
     let f := s.f
     let pc := f.er Reg.MAR_ESTAT_PC n
     let r := f.fetchCheck 0xFF 0xB (n / 8) (f.rd (Reg.MAR_CCTL_ACTIVE (n / 8))) pc
     let op := fieldOf (f.fetch n) 27 5
     let forcing := r.1.forcing.contains (n.val / 8) = true ∧ twoClock (f.fetch n) = true
     let held := r.1.setEng n { r.1.eng n with held := true }
     f.power = 0 → f.er Reg.MAR_ESTAT_STATE n = 1 → (f.eng n).held = false → f.stage = 0 →
     (r.2 = false → op = 0 ∨ 0x14 ≤ op → exec (.illegalInstruction n) s = .next (afterField s (r.1.engHalt n 1 pc))) ∧
     (r.2 = false → op ≠ 1 → exec (.engineNop n) s = .next (afterField s f)) ∧
     (r.2 = true → exec (.engineNop n) s = .next (afterField s (r.1.engHalt n 1 pc))) ∧
     (r.2 = false → op = 3 → ¬forcing → r.1.engFault n (f.fetch n) = some cause → exec (.mov n) s = .next (afterField s (r.1.engHalt n cause pc))) ∧
     (r.2 = false → op = 2 → r.1.engFault n (f.fetch n) = some cause → exec (.jmp n) s = .next (afterField s (r.1.engHalt n cause pc))) ∧
     (r.2 = false → forcing → (op = 3 → exec (.mov n) s = .next (afterField s held)) ∧ (op = 6 → ∀ met, exec (.pushLen n met) s = .next (afterField s held)) ∧
       (op = 0x11 → exec (.stamp n) s = .next (afterField s held)))) ∧
  (∀ (s : State) (n : Fin 128),
     let f := s.f
     let g := f.issued n
     let w := f.fetch n
     let src := fieldOf w 24 3
     let step := fieldOf w 19 2
     let v := if step = 1 then (g.jmpSrc n src + (2 ^ 32 - 1)) % 2 ^ 32 else if step = 2 then (g.jmpSrc n src + 1) % 2 ^ 32 else g.jmpSrc n src
     let stepped := if step = 0 then g else if src = 1 then g.ew Reg.MAR_EX_X n v else g.ew Reg.MAR_EY_Y n v
     let dst := fieldOf w 23 4
     let t := if bitOf w 26 then g.er Reg.MAR_EEDGE_EDGE n else stampOf g.tb.now
     (f.power = 0 → f.issues n 1 → exec (.engineNop n) s = .next (afterField s g)) ∧
     (f.power = 0 → f.issues n 2 → exec (.jmp n) s = .next (afterField s
       (if src = 0 ∨ jmpRel (fieldOf w 21 3) v (fieldOf w 0 9) = true then stepped.ew Reg.MAR_ESTAT_PC n (fieldOf w 9 9) else stepped))) ∧
     (f.power = 0 → f.issues n 3 → dst = 0 → exec (.mov n) s = .next (afterField s
       (g.ew Reg.MAR_EX_X n (movOp (fieldOf w 17 3) (g.er Reg.MAR_EX_X n) (g.movSrc n (fieldOf w 20 3) (fieldOf w 0 16)))))) ∧
     (f.power = 0 → f.issues n 3 → dst = 1 → exec (.mov n) s = .next (afterField s
       (g.ew Reg.MAR_EY_Y n (movOp (fieldOf w 17 3) (g.er Reg.MAR_EY_Y n) (g.movSrc n (fieldOf w 20 3) (fieldOf w 0 16)))))) ∧
     (f.power = 0 → f.issues n 3 → dst = 5 → exec (.mov n) s = .next (afterField s
       (g.ew Reg.MAR_ETCMP_TCMP n (stampAdd (stampOf g.tb.now) (signed 32 (movOp (fieldOf w 17 3) (g.er Reg.MAR_EY_Y n)
         (g.movSrc n (fieldOf w 20 3) (fieldOf w 0 16)))))))) ∧
     (f.power = 0 → f.issues n 0x0B → exec (.setPins n) s = .next (afterField s
       (g.driveMany n (fieldOf w 22 5) (if fieldOf w 16 4 = 0 then 16 else fieldOf w 16 4) (fieldOf w 0 16)))) ∧
     (f.power = 0 → f.issues n 0x11 → exec (.stamp n) s = .next (afterField s ((g.ew Reg.MAR_EX_X n (t % 2 ^ 32)).ew Reg.MAR_EY_Y n (t / 2 ^ 32)))) ∧
     (f.power = 0 → f.issues n 0x12 → exec (.irq n) s = .next (afterField s
       (if g.er Reg.MAR_EEVT_IRQ n = 1 then g else (g.ew Reg.MAR_EEVT_IRQ n 1).eventMsg 0 n (fieldOf w 0 16)))) ∧
     (f.er Reg.MAR_ESTAT_STATE n ≠ 1 ∨ f.power ≠ 0 → ∀ (met : Bool) (l : List Word), ∀ c ∈ [Instr.engineNop n, .jmp n, .mov n, .pull n met, .push n met, .pushLen n met,
       .shiftOut n, .shiftIn n l, .shiftOutNb n, .shiftInNb n l, .setPins n, .waitPin n, .setString n met, .clrString n met, .waitString n, .engAt n met, .stamp n, .irq n,
       .sync n], exec c s = .next (afterField s f)))

/-- Instructions at the FIFOs and shifts (R258 to R260, R283, R284): PULL gives its destination the oldest word, or stalls; PUSH puts its source in, an ISR emptied by it reads 0,
and stalls where there is no room, unless the end does not block; PUSH_LEN commits; and a shift begins with SHIFT_CNT 0 and makes COUNT / W steps, an input step after the levels at its balls were accepted. -/
def Obligations.EngineMovesData : Prop :=
  ∀ (s : State) (n : Fin 128) (levels : List Word) (met : Bool) (x : Nat) (r u : FDie),
    let f := s.f
    let g := f.issued n
    let pl := g.meets n true met
    let ps := g.meets (128 + n) false met
    let w := f.fetch n
    let sel := fieldOf w 24 3
    let steps := shCount w / shWidth w
    let begun := g.ew Reg.MAR_ECNT_SHIFT_CNT n 0
    let ls := levels.map fun (l : Word) => l.toNat
    let seen := u.present n ls
    let done := fun (k : FDie) => (if sel = 0 then k.loadIsr n 0 else k).engGo n
    (f.power = 0 → f.issues n 4 → pl.pop n = (r, some x) → exec (.pull n met) s = .next (afterField s
      ((if sel = 0 then r.loadOsr n x else if sel = 1 then r.ew Reg.MAR_EX_X n x else r.ew Reg.MAR_EY_Y n x).engGo n))) ∧
    (f.power = 0 → f.issues n 4 → pl.pop n = (r, none) → exec (.pull n met) s = .next (afterField s (r.engStall n 1 w))) ∧
    (f.power = 0 → f.issues n 5 → ps.push (128 + n) (ps.pushSrc n sel) = (r, true) → exec (.push n met) s = .next (afterField s (done r))) ∧
    (f.power = 0 → f.issues n 5 → ps.push (128 + n) (ps.pushSrc n sel) = (r, false) → exec (.push n met) s = .next (afterField s
      (if ps.rd (fifoRegs (128 + n)).nb = 0 then r.engStall n 2 w else done (r.dropPush (128 + n))))) ∧
    (f.power = 0 → f.issues n 6 → ps.commit (128 + n) = (r, true) → exec (.pushLen n met) s = .next (afterField s (r.engGo n))) ∧
    (f.power = 0 → f.issues n 6 → ps.commit (128 + n) = (r, false) → ps.rd (fifoRegs (128 + n)).nb = 0 →
      exec (.pushLen n met) s = .next (afterField s (r.engStall n 2 w))) ∧
    (f.power = 0 → f.issues n 7 → exec (.shiftOut n) s = .next (afterField s (outSteps false n w steps begun))) ∧
    (f.power = 0 → f.issues n 8 → exec (.shiftIn n levels) s = .next (afterField s (inSteps false n w steps ls begun))) ∧
    (f.power = 0 → f.issues n 9 → exec (.shiftOutNb n) s = .next (afterField s (outSteps true n w steps begun))) ∧
    (f.power = 0 → f.issues n 10 → exec (.shiftInNb n levels) s = .next (afterField s (inSteps true n w steps ls begun))) ∧
    (∀ (nb : Bool) (k : Nat), shWidth w ≤ u.outLeft n →
      outSteps nb n w (k + 1) u = outSteps nb n w k (u.outStep n (shWidth w)) ∧ outSteps nb n w 0 u = u.engGo n) ∧
    (∀ (nb : Bool) (k : Nat), shWidth w ≤ u.inLeft n →
      inSteps nb n w (k + 1) ls u = inSteps nb n w k (ls.drop 1)
        ((seen.inStep n (shWidth w) (seen.inPins n (shWidth w))).ew Reg.MAR_ECNT_SHIFT_CNT n (seen.er Reg.MAR_ECNT_SHIFT_CNT n + shWidth w)))

/-- Instructions that wait, and what ends the wait (R261, R262, R264, R265, R285, R286, R290, R291): a pin's level may hold at once, TCMP may have passed, or the engine
stalls until one of them comes; AT acts at TCMP and late after it; SYNC waits for a swap; and swaps, forced or not, take place for a cluster: a forced one swaps the
banks, and every enabled engine that is not HALTED goes on at ENTRY, abandoning what it waited in or what was held. -/
def Obligations.EngineWaits : Prop :=
  ∀ (s : State) (n : Fin 128) (c : Fin 16) (met : Bool),
    let f := s.f
    let g := f.issued n
    let w := f.fetch n
    let v := g.inPin n (fieldOf w 22 5)
    let holds := (fieldOf w 20 2 = 0 ∧ v = false) ∨ (fieldOf w 20 2 = 1 ∧ v = true)
    let tcmp := g.er Reg.MAR_ETCMP_TCMP n
    let now := stampOf g.tb.now
    let later := f.advance (stampTime (f.er Reg.MAR_ETCMP_TCMP n))
    let run := f.toRun
    let pend := run.wr (Reg.MAR_CCTL_SWAP_PEND c) 0
    let swapped := { f.wr (Reg.MAR_CCTL_ACTIVE c) (1 - f.rd (Reg.MAR_CCTL_ACTIVE c)) with forcing := f.forcing.filter fun x => x != c.val }
    let engine := fun (g : FDie) (i : Nat) =>
      if g.rd (Reg.MAR_CEN_EN c) / 2 ^ i % 2 = 0 ∨ g.rd (Reg.MAR_ESTAT_STATE c i) = 3 then g
      else
        let left := (g.rd (Reg.MAR_ESTAT_STATE c i) = 2 ∧ g.rd (Reg.MAR_ESTAT_STALL c i) ≠ 8) ∨ (g.eng (8 * c + i)).held = true
        let g1 := if left then g.wr (Reg.MAR_EEVT_ABANDON c i) 1 else g
        let g2 := if (g.eng (8 * c + i)).held = true then g1.setEng (8 * c + i) { g1.eng (8 * c + i) with held := false } else g1
        ((g2.wr (Reg.MAR_ESTAT_STATE c i) 1).wr (Reg.MAR_ESTAT_STALL c i) 0).wr (Reg.MAR_ESTAT_PC c i) (g2.rd (Reg.MAR_ECFG_ENTRY c i))
    (f.power = 0 → f.issues n 0x0C → holds → exec (.waitPin n) s = .next (afterField s (g.endWait n false))) ∧
    (f.power = 0 → f.issues n 0x0C → ¬holds → bitOf w 19 = true → tcmp ≤ now → exec (.waitPin n) s = .next (afterField s (g.endWait n true))) ∧
    (f.power = 0 → f.issues n 0x0C → ¬holds → bitOf w 19 = false ∨ now < tcmp → exec (.waitPin n) s = .next (afterField s (g.engStall n 5 w))) ∧
    (f.power = 0 → f.stalledAt n 5 = true → bitOf (f.eng n).ir 19 = true → exec (.waitPinUntilTimeout n) s = .next (afterField s (later.endWait n true))) ∧
    (f.power = 0 → f.issues n 0x0D → exec (.setString n met) s = .next (afterField s
      ((g.strSet (n / 8) (fieldOf w 20 7) met).wakeString (n / 8) (fieldOf w 20 7)))) ∧
    (f.power = 0 → f.issues n 0x0E → exec (.clrString n met) s = .next (afterField s
      ((g.strClr (n / 8) (fieldOf w 20 7) met).wakeString (n / 8) (fieldOf w 20 7)))) ∧
    (f.power = 0 → f.issues n 0x0F → exec (.waitString n) s = .next (afterField s ((g.engStall n 6 w).wakeString (n / 8) (fieldOf w 20 7)))) ∧
    (f.power = 0 → f.issues n 0x10 → now < tcmp → exec (.engAt n met) s = .next (afterField s (g.engStall n 7 w))) ∧
    (f.power = 0 → f.issues n 0x10 → now = tcmp → exec (.engAt n met) s = .next (afterField s (g.atAct n w met))) ∧
    (f.power = 0 → f.issues n 0x10 → tcmp < now → exec (.engAt n met) s = .next (afterField s
      (((g.ew Reg.MAR_EEVT_LATE n 1).bump (Reg.MAR_EATLATE_COUNT (n / 8) (n % 8))).atAct n w met))) ∧
    (f.power = 0 → f.stalledAt n 7 = true → exec (.atAct n met) s = .next (afterField s (later.atAct n (f.eng n).ir met))) ∧
    (f.power = 0 → f.issues n 0x13 → g.rd (Reg.MAR_CCTL_SWAP_PEND (n / 8)) = 0 → exec (.sync n) s = .next (afterField s g)) ∧
    (f.power = 0 → f.issues n 0x13 → g.rd (Reg.MAR_CCTL_SWAP_PEND (n / 8)) ≠ 0 →
      exec (.sync n) s = .next (afterField s ((g.engStall n 8 w).trySwap (n / 8)))) ∧
    (f.power ≤ 1 → run.lacksCluster c = false → exec (.swap c) s = .next (afterField s ((run.wr (Reg.MAR_CCTL_SWAP_PEND c) 1).trySwap c))) ∧
    (f.power ≤ 1 → run.lacksCluster c = true → exec (.swap c) s = .next (afterField s run) ∧ exec (.forceSwap c) s = .next (afterField s run)) ∧
    (f.power ≤ 1 → run.lacksCluster c = false → run.forcing.contains c.val = false →
      exec (.forceSwap c) s = .next (afterField s { pend with forcing := c.val :: run.forcing })) ∧
    (1 < f.power → exec (.swap c) s = .next (afterField s f) ∧ exec (.forceSwap c) s = .next (afterField s f)) ∧
    (f.power = 0 → f.forcing.contains c.val = true →
      exec (.forcedSwapEffect c) s = .next (afterField s (([0, 1, 2, 3, 4, 5, 6, 7] : List Nat).foldl engine swapped))) ∧
    (f.power ≠ 0 ∨ f.forcing.contains c.val = false → exec (.forcedSwapEffect c) s = .next (afterField s f)) ∧
    (f.power ≠ 0 → exec (.waitPinUntilTimeout n) s = .next (afterField s f) ∧ exec (.atAct n met) s = .next (afterField s f))

/-! ### The barrier link (chapter 8) -/

/-- A message that reaches a die (R14, R17, R222, R224): it leaves the link and its credits count; while the link is down it is lost; one with a reserved field or a value out of
range, as a stream for a cyclic engine is, is dropped and counted; and one of an undefined type is dropped and counted.
Good messages, type by type (R26, R30, R191, R223, R199, R225, R226, R244, R322, R336, R373, R471); streams and output images come through the barrier queues, out of which
a distributor takes each message while no FIFO that it fills makes it wait; one that waited at an empty queue meets the push (MEET 2). How a message stands in the
barrier queues is log 174's choice, and where whole packets stay log 125's. -/
def Obligations.BarrierWordsAndMessages : Prop :=
  (∀ (s : State) (m : BarMsg), s.h.boot.inReset = false →
     let h := s.h
     let f := s.f
     let toH := { s with link.toH := s.link.toH.erase m }
     let toF := { s with link.toF := s.link.toF.erase m }
     (h.rd Reg.BAR_STAT_UP = 0 → exec (.fault m) s = .next (afterBoth s toH)) ∧
     (f.linkUp = false → exec (.time m) s = .next (afterField toF f)) ∧
     (h.rd Reg.BAR_STAT_UP ≠ 0 → msgBad false 0x03 m = true → exec (.fault m) s = .next (afterBoth s
       ((hostTook 0x03 m s).withH ((hostTook 0x03 m s).h.bump Reg.BAR_RXBAD_COUNT)))) ∧
     (f.linkUp = true → msgBad true 0x01 m = true → exec (.time m) s = .next (afterField (fieldTook 0x01 m s)
       ((fieldTook 0x01 m s).f.bump Reg.FGL_BRXBAD_COUNT))) ∧
     (f.linkUp = true → msgBad true 0x40 m = true ∨ f.cyclicStream m = true → exec (.stream true m) s = .next (afterField toF
       ({ f with bar := (f.bar.credits 0x40 m).freed 0x40 }.bump Reg.FGL_BRXBAD_COUNT))) ∧
     (f.linkUp = true → typeKnown true (mType m) = false → exec (.barrierUndefined true m) s = .next (afterBoth s
       (toF.withF (f.bump Reg.FGL_BRXUNDEF_COUNT)))) ∧
     (h.rd Reg.BAR_STAT_UP ≠ 0 → typeKnown false (mType m) = false → exec (.barrierUndefined false m) s = .next (afterBoth s
       (toH.withH (((h.bump Reg.BAR_RXMSG_COUNT).bump Reg.BAR_RXUNDEF_COUNT).raise Reg.BAR_EVT_UNDEF)))) ∧
     (h.rd Reg.BAR_STAT_UP ≠ 0 → exec (.creditSend true) s = .next (afterBoth s (s.withH (h.toField (mkMsg 0x00 0
       [((upto 4).map fun c => h.brg.bar.given.getD c 0 % 256 * 2 ^ (8 * c)).sum]))))) ∧
     (f.linkUp = true → exec (.creditSend false) s = .next (afterBoth s (s.withF (f.toHost (mkMsg 0x00 0
       [((upto 4).map fun c => f.bar.given.getD c 0 % 256 * 2 ^ (8 * c)).sum])))))) ∧
  (∀ (s : State) (m : BarMsg), s.h.boot.inReset = false → s.h.rd Reg.BAR_STAT_UP ≠ 0 → s.f.linkUp = true →
     let host := fun (t : Nat) => (hostTook t m s).h
     let field := fun (t : Nat) => (fieldTook t m s).f
     let hostSays := fun (t : Nat) (h : HDie) => Host.Outcome.next (φ := Fault) (ρ := Refusal) (afterBoth s ((hostTook t m s).withH h))
     let fieldSays := fun (t : Nat) (f : FDie) => Host.Outcome.next (φ := Fault) (ρ := Refusal) (afterField (fieldTook t m s) f)
     let raised := fun (b : BarEnd) => { b with granted := (upto 4).map fun c => raiseTo (b.granted.getD c 0) (m.m1.fld (8 * c) 8) }
     let credit := fun (b : BarEnd) => { b with granted := b.granted.set (m.m0.fld 12 2) (b.granted.getD (m.m0.fld 12 2) 0 + m.m0.fld 16 4) }
     let queued := ((field 0x40).bqMeet 291 (!s.f.distBusy)).pushWait 291 ((msgSplit m).map some)
     let popped := (popMany 291 8 s.f).1
     let parts := (field 0x21).cycTake m
     let words := (upto (ceilDiv (msgBytes m (strBytes m)).length 4)).map fun i => some (leNat (slice (msgBytes m (strBytes m)) (4 * i) 4))
     let so := aget (host 0x40).brg.strIn (strNo m) [] ++ msgBytes m (strBytes m)
     let inp := { host 0x20 with brg.imgIn := imgAdd (host 0x20).brg.imgIn m }
     let out := { s.f with imgRx := imgAdd s.f.imgRx m }
     let t1 := (field 0x01).timeIn m
     (msgBad true 0x00 m = false → exec (.credit true m) s = fieldSays 0x00 { s.f with bar := (raised (credit s.f.bar)).freed 0x00 }) ∧
     (msgBad false 0x00 m = false → exec (.credit false m) s = hostSays 0x00
       { s.h.bump Reg.BAR_RXMSG_COUNT with brg.bar := (raised (credit s.h.brg.bar)).freed 0x00 }) ∧
     (msgBad true 0x01 m = false → exec (.time m) s = fieldSays 0x01
       (if (field 0x01).tb.now < t1.tb.now then t1.passTime.launchPassed else t1)) ∧
     (msgBad true 0x02 m = false → exec (.wake true m) s = fieldSays 0x02
       (if s.f.rd Reg.FGL_PWRSTAT_STATE = 1 then (field 0x02).wr Reg.FGL_PWRSTAT_STATE 0 else field 0x02)) ∧
     (msgBad false 0x02 m = false → m.m1.fld 0 8 ≠ 3 → exec (.wake false m) s = .next (afterSplit s
       ((hostTook 0x02 m s).withH ((host 0x02).wr Reg.BAR_FSTAT_ASLEEP 0).restTrigger))) ∧
     (msgBad false 0x02 m = false → m.m1.fld 0 8 = 3 → exec (.wake false m) s = .next (afterSplit s
       (goOn { (hostTook 0x02 m s).withH ((host 0x02).wr Reg.BAR_FSTAT_ASLEEP 1).linkLost with link := { toF := [], toH := [] } }))) ∧
     (msgBad false 0x03 m = false → exec (.fault m) s = hostSays 0x03 ((host 0x03).report (faultOf m))) ∧
     (msgBad true 0x10 m = false → rspStatus m ≠ 9 → exec (.rsp true m) s = fieldSays 0x10
       { field 0x10 with bar := (field 0x10).bar.answered (mTag m), waits := s.f.waits.filter fun (w : FWait) => mTag w.msg != mTag m }) ∧
     (msgBad true 0x10 m = false → rspStatus m = 9 → exec (.rsp true m) s = fieldSays 0x10
       { field 0x10 with bar := (field 0x10).bar.answered (mTag m), waits := s.f.waits.map fun (w : FWait) => if mTag w.msg == mTag m then { w with back := true } else w }) ∧
     (msgBad false 0x10 m = false → rspStatus m ≠ 9 → ∀ w, s.h.brg.waits.find? (fun x => x.tag == mTag m) = some w →
       exec (.rsp false m) s = .next (afterBoth s (goOn ((hostTook 0x10 m s).withH ({ host 0x10 with brg.bar := (host 0x10).brg.bar.answered (mTag m) }.partEnds
         w (rspStatus m) (slice (leBytes 4 m.m2.toNat ++ leBytes 4 m.m3.toNat) 0 (min w.len (rspLen m)))))))) ∧
     (msgBad true 0x40 m = false → s.f.cyclicStream m = false → (field 0x40).fifoOn 291 = true →
       exec (.stream true m) s = fieldSays 0x40 (distLoop ((queued.fifo 291).words.length + 1) queued)) ∧
     (msgBad true 0x40 m = false → s.f.cyclicStream m = false → (field 0x40).fifoOn 291 = false →
       exec (.stream true m) s = fieldSays 0x40 { field 0x40 with bar := (field 0x40).bar.freed 0x40 }) ∧
     (s.f.fifoOn 291 = true → (s.f.fifo 291).words = [] → s.f.bqMeet 291 true = s.f.wr (fifoRegs 291).meet 2) ∧
     (s.f.distBusy = true → s.f.distribute = none) ∧
     (s.f.distBusy = false → s.f.bqHead 291 = some m → mType m = 0x40 → strNo m < 0x90 → s.f.distribute = some
       ({ popped with bar := popped.bar.freed 0x40 }.pushWait (streamFifo (strNo m)) (words ++ (if isLast m then [none] else [])))) ∧
     (msgBad false 0x40 m = false → isLast m = true → exec (.stream false m) s = hostSays 0x40
       { host 0x40 with brg.strIn := adel (host 0x40).brg.strIn (strNo m), brg.strPkts := (host 0x40).brg.strPkts ++ [(strNo m, so)] }) ∧
     (msgBad false 0x40 m = false → isLast m = false → exec (.stream false m) s = hostSays 0x40
       { host 0x40 with brg.strIn := aput (host 0x40).brg.strIn (strNo m) so }) ∧
     (msgBad false 0x20 m = false → ∀ p im, s.h.sw.inForce = some p → imgWhole inp.brg.imgIn (mTag m) (p.ins.getD inp.self 0) = some im →
       exec (.cycIn m) s = hostSays 0x20
       { inp with sw.lastIn := (mTag m, im) :: inp.sw.lastIn.filter fun x => x.1 % 4096 != mTag m % 4096 }) ∧
     (msgBad true 0x21 m = false → exec (.cycOut m) s = fieldSays 0x21
       ((parts.2.filter fun x => mType x == 0x21).foldl (fun (g : FDie) x => g.cycPiece x) parts.1)) ∧
     (∀ p im, s.f.plan = some p → imgWhole s.f.imgRx (mTag m) p.outLen = none → imgWhole out.imgRx (mTag m) p.outLen = some im →
       s.f.cycPiece m = out.pushSlices im))

/-! ### The cyclic image at the field die (chapters 10 and 12) -/

/-- The image of cycle N (R267 to R269, R312, R313; logs 5, 102): in RUN, while the cycle acts (EN is 1, N is not the cycle taken as running when EN was set, microcode runs), at
S_N + SWC_LAUNCH − LEAD the slices of engines, banks and filters are taken in that order, the image is sent in pieces and the filters count anew; at S_N + MAR_IMGAPP.NS each
enabled bank gives its word to its lines whose DRV is 0xFF, and each enabled transmit buffer is tried, or counts that the image has not crossed. Without a plan nothing is
captured; a bank without its word counts OUT_LATE; an engine's capture without a packet counts STALE; one whose newest packet fits takes its words; one with ERR or of another
length counts BAD. In another cycle and in another power state nothing acts. -/
def Obligations.ImagesOfACycle : Prop :=
  ∀ (s : State) (n : Word) (k : Nat) (p : FPlan) (bs : List Byte),
    let f := s.f
    let at_ := f.advance (f.cycleStart n.toNat + ofNs p.launch - ofNs (f.rd Reg.MAR_IMGCAP_LEAD))
    let engs := captureEngs (upto 128) (at_, List.replicate 4096 0)
    let banks := captureBanks engs.1 (upto 8) engs.2
    let all := (upto 16).foldl (fun (x : FDie × List Byte) c => captureFilters c (upto 128) x) (engs.1, banks)
    let anew := { all.1 with cans := all.1.cans.map fun e => (e.1, { e.2 with hits := [] }) }
    let acts := f.stage = 0 ∧ f.rd Reg.FTM_CYCLE_EN ≠ 0 ∧ f.tb.firstAct ≤ n.toNat
    let cycle := f.rd Reg.FTM_CYCLE_NS
    let ns := f.rd Reg.MAR_IMGAPP_NS
    let due := f.advance (f.cycleStart n.toNat + ofNs (if cycle ≤ ns then cycle - 1000 else ns))
    let out := due.outImage n.toNat
    let w := leNat (slice bs (f.rd (Reg.FIO_BIMG_OUT_OFF k)) 4)
    let q := f.fifo (128 + k)
    let ps := packets q.words.length (q.words.drop q.left)
    (f.power = 0 → f.plan = none ∨ ¬ acts → exec (.captureInstant n) s = .next (afterField s f)) ∧
    (f.power = 0 → acts → f.plan = some p → exec (.captureInstant n) s = .next (afterField s
      ((imageMsgs 0x20 n.toNat (all.2.take p.inLen)).foldl (fun (g : FDie) m => g.bqSend m) anew))) ∧
    (f.power = 0 → acts → exec (.bankImageApply n) s = .next (afterField s
      ((upto 16).foldl (fun (g : FDie) i => (upto 32).foldl (fun (x : FDie) j => x.txApply i j out) g)
        ((upto 8).foldl (fun (g : FDie) b => g.bankApply b out) due)))) ∧
    (f.power = 0 → ¬ acts → exec (.bankImageApply n) s = .next (afterField s f)) ∧
    (f.power ≠ 0 → exec (.captureInstant n) s = .next (afterField s f) ∧ exec (.bankImageApply n) s = .next (afterField s f)) ∧
    (f.rd (Reg.FIO_BIMG_OUT_EN k) ≠ 0 → f.bankApply k none = f.bump (Reg.FIO_BIMGSTAT_OUT_LATE k)) ∧
    (f.rd (Reg.FIO_BIMG_OUT_EN k) ≠ 0 → f.rd (Reg.FIO_BIMG_OUT_OFF k) + 4 ≤ bs.length → f.bankApply k (some bs) =
      (upto 32).foldl (fun (g : FDie) i => if g.rd (Reg.FIO_CFG_DRV (32 * k + i)) = 0xFF then g.hold (32 * k + i) (bitOf w i) else g) f) ∧
    (f.rd (Reg.FIO_BIMG_OUT_EN k) = 0 → f.bankApply k (some bs) = f) ∧
    (f.rd (fifoRegs (128 + k)).pkt = 0 → f.captureEng k = f.bump (Reg.MAR_EIMGSTAT_STALE (k / 8) (k % 8))) ∧
    (f.rd (fifoRegs (128 + k)).pkt ≠ 0 → ps = [] → f.captureEng k = f.bump (Reg.MAR_EIMGSTAT_STALE (k / 8) (k % 8))) ∧
    (∀ err ws, f.rd (fifoRegs (128 + k)).pkt ≠ 0 → ps.getLast? = some (err, ws) →
      let g := drainPushes (128 + k) q.waiting (((f.setFifo { q with words := [], left := 0, mark := f.found q true }).wr (fifoRegs (128 + k)).last (q.words.getLastD 0)).bump
        (Reg.MAR_EIMGSTAT_DISC (k / 8) (k % 8)) (ps.length - 1))
      f.captureEng k = if err = false ∧ ws.length = f.er Reg.MAR_EIMGI_LEN k then { g with slices := aput g.slices k (ws.flatMap fun x => leBytes 4 x) }
        else g.bump (Reg.MAR_EIMGSTAT_BAD (k / 8) (k % 8)))

/-! ### CAN controllers (chapter 12) -/

/-- A controller's mode, timing and error state (R295, R297, R310, Table 12.4; logs 31, 179). A write of its registers acts in RUN, and ends STANDBY: CAN_CTL is written unless MODE is 5 to 7;
a timing register is written in INIT alone, and only a configuration that R297 allows; recovery from bus-off starts by a command. In RUN the written mode takes effect once no frame
is in progress, and from INIT bus integration begins; recovery ends with TEC and REC 0, and late rules that waited for it apply; the bus found dominant raises DOM. In SLEEP, and for the
bus in STANDBY too, nothing acts (Table 13.1).
A frame on the bus (R295, R298, R299, R310, R311, R323; logs 31, 179): one that a controller hears as it takes part in the bus is counted, takes from REC and is offered to the filters in order;
one that a transceiver in STANDBY meets is a remote wake. An error is recorded by code and phase, and adds to TEC of the frame's transmitter or to REC; eight dominant bits more
after an error flag add 8; a protocol exception begins integration again, or counts as a form error. -/
def Obligations.CanControllersAndFramesHeard : Prop :=
  (∀ (s : State) (n : Fin 16) (v : Word),
     let f := s.f
     let r := s.f.toRun
     let gives := fun (i : Instr) (g : FDie) => exec i s = .next (afterField s g)
     let up := f.power = 0
     let has := f.power ≤ 1 ∧ r.lacksCan n = false
     let c := f.can n
     let x := v.toNat
     let mode := fieldOf x 0 3
     let t := r.timing n
     let ctl := ((((((r.wr (Reg.CAN_CTL_MODE n) mode).wr (Reg.CAN_CTL_FD_ALLOW n) (fieldOf x 3 1)).wr (Reg.CAN_CTL_SWITCH_ALLOW n) (fieldOf x 4 1)).wr
       (Reg.CAN_CTL_SINGLE_SHOT n) (fieldOf x 5 1)).wr (Reg.CAN_CTL_XL_AS_ERROR n) (fieldOf x 6 1)).wr (Reg.CAN_CTL_AUTO_RECOVER n) (fieldOf x 7 1)).wr
       (Reg.CAN_CTL_TXORD n) (fieldOf x 8 1)
     let run := (f.wr (Reg.CAN_STAT_MODE n) (f.rd (Reg.CAN_CTL_MODE n))).setCan n { c with modeWait := false }
     let free := f.rd (Reg.CAN_STAT_ACT n) ≠ 1 ∧ f.rd (Reg.CAN_STAT_ACT n) ≠ 2
     let past := if c.errTx = true then f.setCan n { c with errTx := false } else f
     let joined := ((past.wr (Reg.CAN_STAT_INTEG n) 1).wr (Reg.CAN_STAT_ACT n) 0).wr (Reg.CAN_STAT_DOMINANT n) 0
     let well := ((((f.wr (Reg.CAN_ECNT_TEC n) 0).wr (Reg.CAN_ECNT_REC n) 0).wr (Reg.CAN_ECNT_RX_PASSIVE n) 0).wr (Reg.CAN_ECNT_STATE n) 0).wr
       (Reg.CAN_ECNT_WARN n) 0
     let back := (well.setCan n { well.can n with recov := false }).canEvt n (Reg.CAN_EVT_BORECOV n)
     (has → mode < 5 → gives (.canModeWrite n v) (ctl.setCan n { ctl.can n with modeWait := mode != ctl.rd (Reg.CAN_STAT_MODE n) })) ∧
     (has → 5 ≤ mode → gives (.canModeWrite n v) (r.canEvt n (Reg.CAN_EVT_CFG_REFUSED n))) ∧
     (up → c.modeWait = false ∨ ¬free → gives (.canModeEffect n) f) ∧
     (up → c.modeWait = true → free → f.rd (Reg.CAN_CTL_MODE n) = 0 → gives (.canModeEffect n) ((run.wr (Reg.CAN_STAT_INTEG n) 0).wr (Reg.CAN_STAT_ACT n) 0)) ∧
     (up → c.modeWait = true → free → f.rd (Reg.CAN_CTL_MODE n) ≠ 0 → f.rd (Reg.CAN_STAT_MODE n) = 0 → gives (.canModeEffect n)
       ((run.wr (Reg.CAN_STAT_INTEG n) 0).wr (Reg.CAN_STAT_ACT n) 3)) ∧
     (up → c.modeWait = true → free → f.rd (Reg.CAN_CTL_MODE n) ≠ 0 → f.rd (Reg.CAN_STAT_MODE n) ≠ 0 → gives (.canModeEffect n) run) ∧
     (up → f.rd (Reg.CAN_STAT_MODE n) = 0 → gives (.busIntegrationDone n) f) ∧
     (up → f.rd (Reg.CAN_STAT_MODE n) ≠ 0 → (joined.can n).kaWait = false → gives (.busIntegrationDone n) joined) ∧
     (up → f.rd (Reg.CAN_STAT_MODE n) ≠ 0 → (joined.can n).kaWait = true → gives (.busIntegrationDone n)
       ((joined.setCan n { joined.can n with kaWait := false }).keepAlive n)) ∧
     (has → r.rd (Reg.CAN_STAT_MODE n) = 0 → timingBad x t.2.1 t.2.2 = false → gives (.canTimingWrite n 0 v)
       ((((r.wr (Reg.CAN_ARBT_A_PRESC n) (fieldOf x 0 5)).wr (Reg.CAN_ARBT_A_PH1 n) (fieldOf x 8 8)).wr (Reg.CAN_ARBT_A_PH2 n) (fieldOf x 16 7)).wr
         (Reg.CAN_ARBT_A_SJW n) (fieldOf x 24 7))) ∧
     (has → r.rd (Reg.CAN_STAT_MODE n) = 0 → timingBad t.1 x t.2.2 = false → gives (.canTimingWrite n 1 v)
       ((((r.wr (Reg.CAN_DATT_D_PRESC n) (fieldOf x 0 5)).wr (Reg.CAN_DATT_D_PH1 n) (fieldOf x 8 5)).wr (Reg.CAN_DATT_D_PH2 n) (fieldOf x 16 4)).wr
         (Reg.CAN_DATT_D_SJW n) (fieldOf x 24 4))) ∧
     (has → r.rd (Reg.CAN_STAT_MODE n) = 0 → timingBad t.1 t.2.1 x = false → gives (.canTimingWrite n 2 v)
       ((r.wr (Reg.CAN_SSP_SSP_OFS n) (fieldOf x 0 7)).wr (Reg.CAN_SSP_SSP_EN n) (fieldOf x 15 1))) ∧
     (has → r.rd (Reg.CAN_STAT_MODE n) ≠ 0 ∨ timingBad x t.2.1 t.2.2 = true → gives (.canTimingWrite n 0 v) (r.canEvt n (Reg.CAN_EVT_CFG_REFUSED n))) ∧
     (has → r.rd (Reg.CAN_STAT_MODE n) ≠ 0 ∨ timingBad t.1 x t.2.2 = true → gives (.canTimingWrite n 1 v) (r.canEvt n (Reg.CAN_EVT_CFG_REFUSED n))) ∧
     (has → r.rd (Reg.CAN_STAT_MODE n) ≠ 0 ∨ timingBad t.1 t.2.1 x = true → gives (.canTimingWrite n 2 v) (r.canEvt n (Reg.CAN_EVT_CFG_REFUSED n))) ∧
     (has → r.rd (Reg.CAN_ECNT_STATE n) = 2 → gives (.boRecover n) (r.setCan n { r.can n with recov := true })) ∧
     (has → r.rd (Reg.CAN_ECNT_STATE n) ≠ 2 → gives (.boRecover n) r) ∧
     (up → f.rd (Reg.CAN_ECNT_STATE n) = 2 → c.recov = true → gives (.busOffRecoveryDone n)
       (((back.can n).lateAt.filter fun e => e.2 == 2).foldl (fun (g : FDie) e => g.lateTimeout n e.1) back)) ∧
     (up → f.rd (Reg.CAN_ECNT_STATE n) ≠ 2 ∨ c.recov = false → gives (.busOffRecoveryDone n) f) ∧
     (up → f.lacksCan n = false → gives (.dominantTimeout n) ((f.wr (Reg.CAN_STAT_DOMINANT n) 1).canEvt n (Reg.CAN_EVT_DOM n))) ∧
     (up → f.lacksCan n = true → gives (.dominantTimeout n) f) ∧
     (f.power ≤ 1 → r.lacksCan n = true → ∀ i ∈ [Instr.canModeWrite n v, .canTimingWrite n 0 v, .canTimingWrite n 1 v, .canTimingWrite n 2 v, .boRecover n], gives i r) ∧
     (1 < f.power → ∀ i ∈ [Instr.canModeWrite n v, .canTimingWrite n 0 v, .canTimingWrite n 1 v, .canTimingWrite n 2 v, .boRecover n], gives i f) ∧
     (¬up → ∀ i ∈ [Instr.canModeEffect n, .busIntegrationDone n, .busOffRecoveryDone n, .dominantTimeout n], gives i f)) ∧
  (∀ (s : State) (n : Fin 16) (e0 e1 : Word) (bytes : List Byte) (time at_ b d : Nat) (odd dataPhase : Bool) (code : Fin 7) (loop : Option Nat),
     let f := s.f
     let gives := fun (i : Instr) (g : FDie) => exec i s = .next (afterField s g)
     let up := f.power = 0
     let c := f.can n
     let mode := f.rd (Reg.CAN_STAT_MODE n)
     let xcv := f.rd (Reg.CAN_XCV_STATE n)
     let awake := 4 ≤ n.val ∨ xcv ≤ 1
     let got := Instr.canFrameReceived n e0 e1 bytes time
     let erred := Instr.canError n code dataPhase odd loop
     let o := f.openValue
     let past := if c.errTx = true then f.setCan n { c with errTx := false } else f
     let idle := (past.wr (Reg.CAN_STAT_ACT n) 0).wr (Reg.CAN_STAT_DOMINANT n) 0
     let takes := fun (g : FDie) =>
       let x := (g.bump (Reg.CAN_RXOK_COUNT n)).offer n e0.toNat e1.toNat time bytes
       if x.2 = some (x.1.rd (Reg.CAN_NMCFG_FILT n)) then x.1.keepAliveIn n else x.1
     let tec := idle.rd (Reg.CAN_ECNT_TEC n)
     let l := f.loopDelay n loop
     let own := (l.can n).active.isSome || (l.can n).errTx
     let noted := l.wr (if dataPhase = true then Reg.CAN_LASTERR_DERR n else Reg.CAN_LASTERR_ERR n) code
     let seen := (noted.bump (Reg.CAN_ERRFRM_COUNT n)).setCan n { noted.can n with errTx := own }
     let up8 := fun (g : FDie) => g.setErr n (l.rd (Reg.CAN_ECNT_TEC n) + 8) (l.rec_ n)
     let upRec := fun (g : FDie) (k : Nat) => g.setErr n (l.rd (Reg.CAN_ECNT_TEC n)) (l.rec_ n + k)
     (f.power ≤ 1 → awake → f.canJoined n = true → mode ≠ 1 ∨ f.rec_ n = 0 → gives got (takes idle)) ∧
     (f.power ≤ 1 → awake → f.canJoined n = true → mode = 1 → f.rec_ n ≠ 0 → f.rec_ n < 128 → gives got (takes (idle.setErr n tec (f.rec_ n - 1)))) ∧
     (f.power ≤ 1 → awake → f.canJoined n = true → mode = 1 → 128 ≤ f.rec_ n → gives got
       (takes { idle.setErr n tec (119 + o.1 % 9) with free := o.2.free })) ∧
     (f.power ≤ 1 → n.val < 4 → xcv = 2 → gives got (f.remoteWake n)) ∧
     (f.power ≤ 1 → n.val < 4 → 2 < xcv → gives got f) ∧
     (f.power ≤ 1 → awake → f.canJoined n = false → gives got f) ∧
     (1 < f.power → gives got f) ∧
     (up → f.canJoined n = false ∨ (code.val = 6 ∧ mode = 4) → gives erred f) ∧
     (up → f.canJoined n = true → l.rd (Reg.CAN_STAT_MODE n) = 1 → code.val = 0 → gives erred (if own = true then up8 l else upRec l 8)) ∧
     (up → f.canJoined n = true → l.rd (Reg.CAN_STAT_MODE n) ≠ 1 → code.val = 0 → gives erred l) ∧
     (up → f.canJoined n = true → l.rd (Reg.CAN_STAT_MODE n) = 1 → code.val ≠ 0 → own = false → gives erred
       ((upRec seen (if odd = true then 8 else 1)).wr (Reg.CAN_STAT_ACT n) 0)) ∧
     (up → f.canJoined n = true → l.rd (Reg.CAN_STAT_MODE n) = 1 → code.val ≠ 0 → (l.can n).active = some (b, at_) →
       odd = (code.val == 6 && seen.rd (Reg.CAN_ECNT_STATE n) == 1) → gives erred (((up8 seen).txFail n b).wr (Reg.CAN_STAT_ACT n) 0)) ∧
     (up → f.canJoined n = true → l.rd (Reg.CAN_STAT_MODE n) = 1 → code.val ≠ 0 → (l.can n).active = some (b, at_) →
       odd = !(code.val == 6 && seen.rd (Reg.CAN_ECNT_STATE n) == 1) → gives erred ((seen.txFail n b).wr (Reg.CAN_STAT_ACT n) 0)) ∧
     (up → f.canJoined n = true → l.rd (Reg.CAN_STAT_MODE n) = 1 → code.val ≠ 0 → (l.can n).active = none → (l.can n).errTx = true →
       odd = (code.val == 6 && seen.rd (Reg.CAN_ECNT_STATE n) == 1) → gives erred ((up8 seen).wr (Reg.CAN_STAT_ACT n) 0)) ∧
     (up → f.canJoined n = true → l.rd (Reg.CAN_STAT_MODE n) = 3 → code.val ≠ 0 → (l.can n).active = none → gives erred
       ((seen.wr (Reg.CAN_STAT_INTEG n) 0).wr (Reg.CAN_STAT_ACT n) 3)) ∧
     (c.active = some (b, at_) → bitOf (wordAt (f.elem (txKey n b)) 1) 4 = true → bitOf (wordAt (f.elem (txKey n b)) 1) 5 = true → f.rd (Reg.CAN_SSP_SSP_EN n) ≠ 0 →
       f.loopDelay n (some d) = f.wr (Reg.CAN_SSP_LOOP_DLY n) (min d 0x7F)) ∧
     (up → f.canJoined n = true → f.rd (Reg.CAN_CTL_XL_AS_ERROR n) = 0 → gives (.canProtocolException n)
       (let p := (f.bump (Reg.CAN_PXE_COUNT n)).canEvt n (Reg.CAN_EVT_PXE n)
        (p.wr (Reg.CAN_STAT_INTEG n) 0).wr (Reg.CAN_STAT_ACT n) 3)) ∧
     (up → f.canJoined n = true → f.rd (Reg.CAN_CTL_XL_AS_ERROR n) ≠ 0 → exec (.canProtocolException n) s = exec (.canError n 4 false false none) s) ∧
     (up → f.canJoined n = false → gives (.canProtocolException n) f) ∧
     (¬up → gives erred f ∧ gives (.canProtocolException n) f))

/-- Buffers and elements (R303, R305 to R309, R323; logs 29, 102, 179): GET releases elements; a buffer is requested, waits for its launch time, is chosen at a commit point, sent, not sent, late,
or cancelled; in LOOPBACK a controller takes its own frame, and with its transmitter off it sends none; and the stream pool takes a packet whole, discards and counts a bad one, or waits
for one. A write of their registers acts in RUN, and ends STANDBY; the bus and the launch times act in RUN alone. -/
def Obligations.CanFrames : Prop :=
  ∀ (s : State) (n : Fin 16) (k : Fin 32) (j : Fin 2) (v : Word) (time at_ b kk lw : Nat) (loop : Option Nat) (ws : List Nat),
    let f := s.f
    let r := s.f.toRun
    let gives := fun (i : Instr) (g : FDie) => exec i s = .next (afterField s g)
    let up := f.power = 0
    let has := f.power ≤ 1 ∧ r.lacksCan n = false
    let c := f.can n
    let mode := f.rd (Reg.CAN_STAT_MODE n)
    let xcv := f.rd (Reg.CAN_XCV_STATE n)
    let st := f.txState n k
    let rst := r.txState n k
    let get := r.rd (Reg.CAN_RXQSTAT_GET n j)
    let fill := r.rd (Reg.CAN_RXQSTAT_FILL n j)
    let d := (v.toNat % 64 + 64 - get) % 64
    let ready := ((r.wr (Reg.CAN_TXB_OUTCOME n k) 0).wr (Reg.CAN_TXB_LATE n k) 0).wr (Reg.CAN_TXB_ATTEMPTS n k) 0
    let past := if c.errTx = true then f.setCan n { c with errTx := false } else f
    let sof := past.wr (Reg.CAN_STAT_DOMINANT n) 0
    let hears := 4 ≤ n.val ∨ mode = 4 ∨ xcv ≤ 1
    let sends := mode = 4 ∨ (mode = 1 ∧ (4 ≤ n.val ∨ xcv = 0))
    let load := sof.readWords 0xFF 0xE (elemWord (txKey n b)).1 (elemWord (txKey n b)).2 10
    let chosen := load.1.setTx n b 3
    let cc := chosen.can n
    let pool := (upto 32).find? fun i => f.inPool n i && (f.txState n i == 0 || f.txState n i == 4)
    let visible := f.rd (fifoRegs (256 + n)).pkt ≠ 0 ∧ (f.fifo (256 + n)).left = 0
    let first := (f.pop (256 + n)).1
    let packet := popMany (256 + n) (lw % 2 ^ 16) (first.setFifo { first.fifo (256 + n) with popWait := 0 })
    let badPacket := bitOf lw 31 = true ∨ packet.2.length ≠ 4 + ceilDiv (codeBytes (wordAt packet.2 1)) 4
    let said := ((f.bump (Reg.CAN_TXOK_COUNT n)).wr (Reg.CAN_TXBTS_TIME n b) (stampOf at_)).loopDelay n loop
    let counted := if f.rd (Reg.CAN_ECNT_TEC n) = 0 ∨ said.rd (Reg.CAN_STAT_MODE n) ≠ 1 then said else said.setErr n (f.rd (Reg.CAN_ECNT_TEC n) - 1) (said.rec_ n)
    let sent := ((counted.wr (Reg.CAN_TXB_LATE n b) (b2n (aget c.lateAt b 0 == 1))).wr (Reg.CAN_STAT_ACT n) 0).txDone n b (if f.rd (Reg.CAN_TXB_CANPEND n b) ≠ 0 then 3 else 1)
    let echo := (sent.bump (Reg.CAN_RXOK_COUNT n)).offer n (f.sentE0 n b) (wordAt (sent.elem (txKey n b)) 1) at_ (elemBytes (sent.elem (txKey n b)))
    let lost := ((f.bump (Reg.CAN_ARBLOST_COUNT n)).wr (Reg.CAN_STAT_ACT n) 1).bump (Reg.CAN_TXB_ATTEMPTS n b)
    let late := f.canEvt n (Reg.CAN_EVT_LATE n)
    let due := (f.advance (f.launchAt n k)).setTx n k 2
    (has → d ≤ fill → gives (.rxqGetWrite n j v)
      ((((clearNew n j d get r).wr (Reg.CAN_RXQSTAT_GET n j) (v.toNat % 64)).wr (Reg.CAN_RXQSTAT_FILL n j) (fill - d)).wr (Reg.CAN_RXQSTAT_FULL n j)
        (b2n (decide (fill - d = 64))))) ∧
    (has → fill < d → gives (.rxqGetWrite n j v) r) ∧
    (has → r.inPool n k = false → rst = 0 ∨ rst = 4 → ready.txInvalid n k = false → bitOf (wordAt (ready.elem (txKey n k)) 1) 6 = false →
      gives (.txReq n k) (ready.setTx n k 2)) ∧
    (has → r.inPool n k = false → rst = 0 ∨ rst = 4 → ready.txInvalid n k = false → bitOf (wordAt (ready.elem (txKey n k)) 1) 6 = true →
      gives (.txReq n k) (ready.setTx n k 1)) ∧
    (has → r.inPool n k = false → rst = 0 ∨ rst = 4 → ready.txInvalid n k = true → gives (.txReq n k) ((ready.txDone n k 5).canEvt n (Reg.CAN_EVT_TXINVALID n))) ∧
    (has → r.inPool n k = false → rst ≠ 0 → rst ≠ 4 → gives (.txReq n k) r) ∧
    (has → r.inPool n k = true → gives (.txReq n k) r ∧ gives (.txCancel n k) r) ∧
    (has → r.inPool n k = false → rst = 1 ∨ rst = 2 ∨ (rst = 3 ∧ r.rd (Reg.CAN_ECNT_STATE n) = 2) → gives (.txCancel n k) (r.txDone n k 2)) ∧
    (has → r.inPool n k = false → rst = 3 → r.rd (Reg.CAN_ECNT_STATE n) ≠ 2 → gives (.txCancel n k) (r.wr (Reg.CAN_TXB_CANPEND n k) 1)) ∧
    (has → r.inPool n k = false → rst = 0 ∨ rst = 4 → gives (.txCancel n k) r) ∧
    (up → f.canJoined n = true → c.active = none → hears → sends → sof.chooseTx n = some b → load.2 = false → gives (.canCommitPoint n time)
      ((chosen.wr (Reg.CAN_STAT_ACT n) 2).setCan n
        { cc with active := some (b, time), lateAt := if aget cc.lateAt b 0 = 1 then cc.lateAt else adel cc.lateAt b })) ∧
    (up → f.canJoined n = true → c.active = none → hears → sends → sof.chooseTx n = some b → load.2 = true → gives (.canCommitPoint n time)
      (((load.1.wr (Reg.CAN_STAT_ACT n) 1).txDone n b 5).canEvt n (Reg.CAN_EVT_TXINVALID n))) ∧
    (up → f.canJoined n = true → c.active = none → hears → ¬sends ∨ sof.chooseTx n = none → gives (.canCommitPoint n time) (sof.wr (Reg.CAN_STAT_ACT n) 1)) ∧
    (up → f.canJoined n = false ∨ c.active ≠ none ∨ ¬hears → gives (.canCommitPoint n time) f) ∧
    (f.rd (Reg.CAN_CTL_TXORD n) ≠ 0 → f.chooseTx n = c.order.head?) ∧
    (f.rd (Reg.CAN_CTL_TXORD n) = 0 → f.chooseTx n = bestTx (fun x => arbKey (wordAt (f.elem (txKey n x)) 0)) c.order) ∧
    (up → sends → c.active = some (b, at_) → mode ≠ 4 → gives (.canFrameSent n loop) sent) ∧
    (up → c.active = some (b, at_) → mode = 4 → gives (.canFrameSent n loop)
      (if echo.2 = some (echo.1.rd (Reg.CAN_NMCFG_FILT n)) then echo.1.keepAliveIn n else echo.1)) ∧
    (up → ¬sends ∨ c.active = none → gives (.canFrameSent n loop) f) ∧
    (up → c.active = some (b, at_) → lost.rd (Reg.CAN_TXB_CANPEND n b) = 0 → lost.rd (Reg.CAN_CTL_SINGLE_SHOT n) = 0 → gives (.canArbitrationLost n) (lost.setTx n b 2)) ∧
    (up → c.active = some (b, at_) → lost.rd (Reg.CAN_TXB_CANPEND n b) ≠ 0 → gives (.canArbitrationLost n) (lost.txDone n b 2)) ∧
    (up → c.active = some (b, at_) → lost.rd (Reg.CAN_TXB_CANPEND n b) = 0 → lost.rd (Reg.CAN_CTL_SINGLE_SHOT n) ≠ 0 → gives (.canArbitrationLost n) (lost.txDone n b 6)) ∧
    (up → st = 1 → gives (.canLaunchTimeReached n k) (due.setCan n { due.can n with lateAt := aput (due.can n).lateAt k 0 })) ∧
    (up → st ≠ 1 → gives (.canLaunchTimeReached n k) f) ∧
    (up → st = 2 → ahas c.lateAt k = true → f.rd (Reg.CAN_ECNT_STATE n) ≠ 2 → late.rd (Reg.CAN_LCFG_LATEMODE n) ≠ 0 → gives (.canLateTimeout n k) (late.txDone n k 4)) ∧
    (up → st = 2 → ahas c.lateAt k = true → f.rd (Reg.CAN_ECNT_STATE n) ≠ 2 → late.rd (Reg.CAN_LCFG_LATEMODE n) = 0 → gives (.canLateTimeout n k)
      (late.setCan n { late.can n with lateAt := aput (late.can n).lateAt k 1 })) ∧
    (up → st = 2 → ahas c.lateAt k = true → f.rd (Reg.CAN_ECNT_STATE n) = 2 → gives (.canLateTimeout n k) (f.setCan n { c with lateAt := aput c.lateAt k 2 })) ∧
    (up → pool = none ∨ ¬visible → gives (.streamPoolLoad n) f) ∧
    (up → pool = some kk → visible → f.fifoOn (256 + n) = true → (f.fifo (256 + n)).words = lw :: ws →
      (¬badPacket → gives (.streamPoolLoad n)
        ((packet.1.storeElem (txKey n kk) (packet.2 ++ List.replicate (20 - packet.2.length) 0)).txRequest n kk true)) ∧
      (badPacket → gives (.streamPoolLoad n) (packet.1.bump (Reg.CAN_SQBAD_COUNT n)))) ∧
    (up → pool = some kk → visible → f.fifoOn (256 + n) = false ∨ (f.fifo (256 + n)).words = [] → gives (.streamPoolLoad n)
      (first.setFifo { first.fifo (256 + n) with popWait := 1 })) ∧
    (f.power ≤ 1 → r.lacksCan n = true → ∀ i ∈ [Instr.rxqGetWrite n j v, .txReq n k, .txCancel n k], gives i r) ∧
    (1 < f.power → ∀ i ∈ [Instr.rxqGetWrite n j v, .txReq n k, .txCancel n k], gives i f) ∧
    (¬up → ∀ i ∈ [Instr.canCommitPoint n time, .canFrameSent n loop, .canArbitrationLost n, .canLaunchTimeReached n k, .canLateTimeout n k, .streamPoolLoad n], gives i f)

/-! ### Sleep, wake and the Groom (chapter 13) -/

/-- The field die's power states (R255, R320 to R325, R330, Tables 13.1 and 13.3; logs 110, 180): a request is refused with its first reason, or obeyed, once the die has heard of
the plan that awaits its cycle; SLEEP keeps what Table 13.1 lists, after its notice; FWAKE reaches the Groom of a sleeping field die alone, and ends SLEEP with a message that names
the host; a transceiver's MODE, its GO_SLEEP timer, a wake-up pattern; the loss of a supply; and the field safe time.
Network management and the Groom (R326 to R328, R331 to R335, Table 13.4; logs 30, 180): EN is set only where R326 allows it; NEED asks for the bus or lets it go; the timers lead from NORMAL
through READY_SLEEP and PREPARE_SLEEP, where NMG is asked, to the sleeping bus, unless a keep-alive comes in the same clock; an input or a rule is configured unless its filter, source or
condition is refused; and the samples of one tick make rules fire. -/
def Obligations.FieldPowerAndNetworkManagement : Prop :=
  (∀ (s : State) (n : Fin 4) (m : Fin 4),
     let f := s.f
     let r := s.f.toRun
     let gives := fun (i : Instr) (g : FDie) => exec i s = .next (afterField s g)
     let told := s.tellPlan
     let ask := told.f.toRun
     let pwr := f.rd Reg.FGL_PWRSTAT_STATE
     let xcv := f.rd (Reg.CAN_XCV_STATE n)
     let nm := r.rd (Reg.CAN_NMCFG_EN n)
     let moded := r.wr (Reg.CAN_XCV_MODE n) m
     let notice := carryF (told.withF (told.f.wakeMsg 0x03 0 0 2))
     let entry := (f.goSafe.wr Reg.FGL_PWRSTAT_STATE 2).wr Reg.FGL_PWRSTAT_REFUSE 0
     let ha := s.linked && s.h.modeOf 12 != 0
     let woken := ((((f.wr (Reg.CAN_XCV_STATE n) 2).wr (Reg.CAN_XCV_INH n) 1).wr (Reg.CAN_SLPEVT_WUP n) 1).setCan n { f.can n with latch := true }).remoteWake n
     let pulse := f.wr Reg.GRM_EVT_BWAKE 1
     let detected := sampleAll [(24, 1)] f.barrierWake
     let safe := f.goSafe.feedsSafe.settle
     (pwr = 1 → f.power ≤ 1 → gives .powerRequestRun (f.wr Reg.FGL_PWRSTAT_STATE 0)) ∧
     (f.power = 0 ∨ 1 < f.power → gives .powerRequestRun f) ∧
     (told.f.power ≤ 1 → ask.pwrRefuse 1 ≠ 0 → exec .powerRequestStandby s = .next (afterField told (ask.wr Reg.FGL_PWRSTAT_REFUSE (ask.pwrRefuse 1)))) ∧
     (told.f.power ≤ 1 → ask.pwrRefuse 1 = 0 → exec .powerRequestStandby s = .next (afterField told
       ((ask.wr Reg.FGL_PWRSTAT_REFUSE 0).wr Reg.FGL_PWRSTAT_STATE 1))) ∧
     (1 < told.f.power → exec .powerRequestStandby s = .next (afterField told told.f)) ∧
     (told.f.power ≠ 2 → told.f.pwrRefuse 2 ≠ 0 → exec .powerRequestSleep s = .next (told.withF (ask.wr Reg.FGL_PWRSTAT_REFUSE (told.f.pwrRefuse 2)))) ∧
     (told.f.power ≠ 2 → told.f.pwrRefuse 2 = 0 → exec .powerRequestSleep s = .next (notice.withF notice.f.enterSleep)) ∧
     (told.f.power = 2 → exec .powerRequestSleep s = .next told) ∧
     (∀ i, f.rd (Reg.MAR_CEN_EN i) ≠ 0 → i < 16 → f.pwrRefuse 1 = 1 ∧ f.pwrRefuse 2 = 1) ∧
     ((∀ i < 16, f.rd (Reg.MAR_CEN_EN i) = 0 ∧ f.rd (Reg.CAN_STAT_MODE i) = 0) → f.dueImage = true → f.pwrRefuse 1 = 3 ∧ f.pwrRefuse 2 = 3) ∧
     (let g := f.enterSleep
      g.regs = entry.regs.filter (fun e => variantKey e.1 || sleepKeeps e.1) ∧ g.stage = 0 ∧ g.linkUp = false ∧ g.bar = BarEnd.clear ∧ g.fifos = [] ∧ g.engs = [] ∧
        g.forcing = [] ∧ g.plan = none ∧ g.slices = [] ∧ g.imgRx = [] ∧ g.elems = [] ∧ g.feeds = [] ∧ g.waits = [] ∧ g.asks = [] ∧ g.tb.now = f.tb.now ∧
        g.grmS = f.grmS ∧ g.wakeSeq = f.wakeSeq ∧ g.mems = memsReset f.mems) ∧
     (sleepKeeps Reg.FGL_PWRSTAT_STATE.key = true ∧ ∀ i : Fin 16, sleepKeeps (Reg.CAN_XCV_STATE i).key = true ∧ sleepKeeps (Reg.CAN_STAT_MODE i).key = false) ∧
     (f.stage = 1 → exec .fieldClockLocked s = .next (s.withF { f with stage := 2 })) ∧
     (f.stage ≠ 1 → exec .fieldClockLocked s = .next s) ∧
     (s.h.rd Reg.BAR_FSTAT_ASLEEP ≠ 0 → pwr = 2 → f.stage ≠ 4 →
       exec .fwake s = .next (s.withF (detected.1.groomFire detected.2 false 0))) ∧
     (pwr = 2 → f.stage = 0 → f.barrierWake = { pulse with stage := 1 }.wakeMsg 0x05 0 0 2) ∧
     (pwr = 2 → f.stage ≠ 0 → f.barrierWake = pulse) ∧
     (s.h.rd Reg.BAR_FSTAT_ASLEEP = 0 ∨ pwr ≠ 2 → exec .fwake s = .next s) ∧
     (f.power ≤ 1 → nm ≠ 0 → gives (.transceiverModeWrite (n.castLE (by decide)) m) (r.wr (Reg.CAN_SLPEVT_NM_REFUSED n) 1)) ∧
     (f.power ≤ 1 → nm = 0 → m ≠ 3 → gives (.transceiverModeWrite (n.castLE (by decide)) m)
       (((moded.wr (Reg.CAN_XCV_STATE n) m).wr (Reg.CAN_XCV_INH n) 1).setCan n { r.can n with armed := false })) ∧
     (f.power ≤ 1 → nm = 0 → r.rd (Reg.CAN_XCV_STATE n) ≤ 2 → gives (.transceiverModeWrite (n.castLE (by decide)) 3)
       ((((r.wr (Reg.CAN_XCV_MODE n) 3).wr (Reg.CAN_XCV_STATE n) 4).wr (Reg.CAN_XCV_INH n) 1).setCan n { r.can n with armed := true })) ∧
     (1 < f.power → gives (.transceiverModeWrite (n.castLE (by decide)) m) f) ∧
     (xcv = 4 → (f.can n).latch = false → gives (.goSleepTimerExpiry n) ((f.wr (Reg.CAN_XCV_STATE n) 3).wr (Reg.CAN_XCV_INH n) 0)) ∧
     (xcv ≠ 4 ∨ (f.can n).latch = true → gives (.goSleepTimerExpiry n) f) ∧
     (xcv = 4 → gives (.wupDetected n) (f.capture_ n)) ∧
     (xcv = 3 → gives (.wupDetected n) (woken.groomIn [(20 + n, 1)] ha (s.h.budget 12))) ∧
     (xcv ≠ 3 → xcv ≠ 4 → gives (.wupDetected n) f) ∧
     gives .fvcanUndervoltage ((upto 4).foldl (fun (g : FDie) i =>
       if g.rd (Reg.CAN_XCV_STATE i) ≤ 1 then (g.xcvTo i 2).wr (Reg.CAN_SLPEVT_UV i) 1 else g) f) ∧
     (∃ g, exec .fvsupLost s = .next (s.withF g) ∧ g.stage = 4 ∧ g.linkUp = false ∧ g.grmR = [] ∧ g.engs = [] ∧ g.fifos = [] ∧
       ∀ i : Fin 4, g.rd (Reg.CAN_XCV_INH i) = 0) ∧
     (f.linkUp = true ∨ 1 < f.power → gives .fieldSafeTimeExpiry f) ∧
     (f.linkUp = false → f.power ≤ 1 → gives .fieldSafeTimeExpiry f.goSafe.feedsSafe)) ∧
  (∀ (s : State) (n : Fin 16) (v : Word) (i : Fin 32) (samples : List (Fin 25 × Word)) (y : Nat),
     let f := s.f
     let r := s.f.toRun
     let gives := fun (c : Instr) (g : FDie) => exec c s = .next (afterField s g)
     let up := f.power = 0
     let open_ := f.power ≤ 1
     let x := v.toNat
     let has := f.power ≤ 1 ∧ r.lacksCan n = false
     let en := r.rd (Reg.CAN_NMCFG_EN n)
     let nm := f.rd (Reg.CAN_NMSTAT_STATE n)
     let txb := fieldOf x 2 5
     let filt := fieldOf x 8 7
     let set := (((r.wr (Reg.CAN_NMCFG_TXB n) txb).wr (Reg.CAN_NMCFG_FILT n) filt).wr (Reg.CAN_NMCFG_KA_MS n) (fieldOf x 16 16)).wr (Reg.CAN_NMCFG_NEED n)
       (fieldOf x 1 1)
     let on := set.wr (Reg.CAN_NMCFG_EN n) 1
     let moves := fun (g : FDie) (st : Nat) =>
       let u := g.wr (Reg.CAN_NMSTAT_STATE n) st
       if st ≠ 1 ∧ (u.can n).kaWait = true then u.setCan n { u.can n with kaWait := false } else u
     let need := r.wr (Reg.CAN_NMCFG_NEED n) 1
     let unneed := r.wr (Reg.CAN_NMCFG_NEED n) 0
     let asleep := (moves f 4).wr (Reg.CAN_CTL_MODE n) 0
     let lapsed := s.withH (s.h.lapse 5 n)
     let src := fieldOf x 1 5
     let cond := fieldOf x 6 2
     let ruled := ((((r.wr (Reg.GRM_RCOND_EN i) (fieldOf x 0 1)).wr (Reg.GRM_RCOND_SRC i) src).wr (Reg.GRM_RCOND_COND i) cond).wr
       (Reg.GRM_RCOND_THR i) (fieldOf x 8 10)).wr (Reg.GRM_RCOND_HYS i) (fieldOf x 18 6)
     let ha := s.linked && s.h.modeOf 12 != 0
     let got := samples.map fun (p : Fin 25 × Word) => (p.1.val, p.2.toNat % 1024)
     let seen := sampleAll got f
     let held := f.rule i
     let rsrc := f.rd (Reg.GRM_RCOND_SRC i)
     let rcond := f.rd (Reg.GRM_RCOND_COND i)
     let thr := f.rd (Reg.GRM_RCOND_THR i)
     let hys := f.rd (Reg.GRM_RCOND_HYS i)
     (has → en = 0 → bitOf x 0 = true → set.nmBad n txb filt = true → gives (.nmEnableWrite n v) (set.wr (Reg.CAN_SLPEVT_NM_REFUSED n) 1)) ∧
     (has → en = 0 → bitOf x 0 = true → set.nmBad n txb filt = false → bitOf x 1 = false → bitOf (on.rd Reg.GRM_LWK_PEND) n = false →
       gives (.nmEnableWrite n v) (moves on 2)) ∧
     (has → en = 0 → bitOf x 0 = true → set.nmBad n txb filt = false → bitOf x 1 = true ∨ bitOf (on.rd Reg.GRM_LWK_PEND) n = true →
       gives (.nmEnableWrite n v) (((moves on 1).keepAlive n).wr Reg.GRM_LWK_PEND (setBit (on.rd Reg.GRM_LWK_PEND) n false))) ∧
     (has → en ≠ 0 → bitOf x 0 = false → gives (.nmEnableWrite n v) (moves (set.wr (Reg.CAN_NMCFG_EN n) 0) 0)) ∧
     (has → en = 0 → gives (.nmNeedWrite n true) need ∧ gives (.nmNeedWrite n false) unneed) ∧
     (has → en ≠ 0 → r.rd (Reg.CAN_NMCFG_NEED n) = 0 → need.rd (Reg.CAN_NMSTAT_STATE n) = 2 ∨ need.rd (Reg.CAN_NMSTAT_STATE n) = 3 →
       gives (.nmNeedWrite n true) ((moves need 1).keepAlive n)) ∧
     (has → en ≠ 0 → r.rd (Reg.CAN_NMCFG_NEED n) = 0 → need.rd (Reg.CAN_NMSTAT_STATE n) = 4 → gives (.nmNeedWrite n true)
       (let g := (moves need 1).busNormal n
        g.setCan n { g.can n with kaWait := true })) ∧
     (has → en ≠ 0 → r.rd (Reg.CAN_NMCFG_NEED n) ≠ 0 → unneed.rd (Reg.CAN_NMSTAT_STATE n) = 1 → gives (.nmNeedWrite n false) (moves unneed 2)) ∧
     (f.power ≤ 1 → r.lacksCan n = true → ∀ c ∈ [Instr.nmEnableWrite n v, .nmNeedWrite n true], gives c r) ∧
     (1 < f.power → ∀ c ∈ [Instr.nmEnableWrite n v, .nmNeedWrite n true, .groomConfigWrite true i v, .groomConfigWrite false i v], gives c f) ∧
     (up → nm = 1 → gives (.keepAliveTimer n) (f.keepAlive n)) ∧
     (f.txState n (f.rd (Reg.CAN_NMCFG_TXB n)) ≠ 0 → f.txState n (f.rd (Reg.CAN_NMCFG_TXB n)) ≠ 4 → f.keepAlive n = f.bump (Reg.CAN_NMCNT_KASKIP n)) ∧
     (f.txState n (f.rd (Reg.CAN_NMCFG_TXB n)) = 0 ∨ f.txState n (f.rd (Reg.CAN_NMCFG_TXB n)) = 4 →
       f.keepAlive n = (f.txRequest n (f.rd (Reg.CAN_NMCFG_TXB n)) true).bump (Reg.CAN_NMCNT_KATX n)) ∧
     (up → nm = 2 → gives (.readySleepTimerExpiry n) ((moves f 3).want 5 n 0 n)) ∧
     (up → nm = 3 → exec (.prepareSleepTimerExpiry n false) s = .next (afterField lapsed
       ((asleep.setCan n { asleep.can n with modeWait := asleep.rd (Reg.CAN_STAT_MODE n) != 0 }).goSleep n))) ∧
     (up → nm = 3 → gives (.prepareSleepTimerExpiry n true) f) ∧
     (∀ q ∈ lapsed.h.spl.reqs, ¬ (q.func = 5 ∧ q.ctx = n.val)) ∧
     (¬ up → ∀ c ∈ [Instr.keepAliveTimer n, .readySleepTimerExpiry n, .prepareSleepTimerExpiry n false, .prepareSleepTimerExpiry n true], gives c f) ∧
     (open_ → 25 ≤ src ∨ (20 ≤ src ∧ cond % 2 = 1) → gives (.groomConfigWrite true i v) (r.wr Reg.GRM_EVT_CFG_REFUSED 1)) ∧
     (open_ → src < 20 → bitOf x 0 = false ∨ r.rd (Reg.GRM_RCOND_EN i) ≠ 0 → gives (.groomConfigWrite true i v) ruled) ∧
     (open_ → src < 20 → bitOf x 0 = true → r.rd (Reg.GRM_RCOND_EN i) = 0 → gives (.groomConfigWrite true i v)
       { ruled with grmR := aput ruled.grmR i { ruled.rule i with holds := false, fresh := true } }) ∧
     (open_ → i.val < 16 → fieldOf x 2 2 = 3 → gives (.groomConfigWrite false i v) (r.wr Reg.GRM_EVT_CFG_REFUSED 1)) ∧
     (open_ → 16 ≤ i.val → i.val < 20 → fieldOf x 2 2 = 1 → gives (.groomConfigWrite false i v) (r.wr Reg.GRM_EVT_CFG_REFUSED 1)) ∧
     (open_ → i.val < 16 → fieldOf x 2 2 ≠ 3 → gives (.groomConfigWrite false i v)
       (((((r.wr (Reg.GRM_INCFG_EN i) (fieldOf x 0 1)).wr (Reg.GRM_INCFG_INV i) (fieldOf x 1 1)).wr (Reg.GRM_INCFG_FILT i) (fieldOf x 2 2)).wr
         (Reg.GRM_INCFG_DEB i) (fieldOf x 4 4)).wr (Reg.GRM_INCFG_K i) (fieldOf x 8 3))) ∧
     (f.stage = 4 → gives (.groomSample samples) f) ∧
     (f.stage ≠ 4 → (∀ p ∈ got, p.1 ≠ 24) → gives (.groomSample samples) (seen.1.groomFire seen.2 ha (s.h.budget 12))) ∧
     (rsrc < 16 → (f.ruleTest i y).1 = { f with grmR := aput f.grmR i { held with holds := decide (y = 1 - rcond % 2), fresh := false } }) ∧
     (16 ≤ rsrc → rsrc < 20 → rcond = 0 → held.holds = false → (f.ruleTest i y).2 = decide (thr ≤ y)) ∧
     (16 ≤ rsrc → rsrc < 20 → rcond = 0 → held.holds = true → held.fresh = false → (f.ruleTest i y).2 = false ∧ ((f.ruleTest i y).1.rule i).holds = decide (thr ≤ y + hys)) ∧
     (∀ (g : FDie) (b : Bool) (k : Nat), g.groomFire [] b k = g))

/-! ### Feed controllers (chapter 14) -/

/-- A channel's states (R341, R342, R345, R348 to R354, Tables 14.3 and 14.7; logs 32, 35, 112): enabling with a valid configuration enters WAIT with no attempts and the model at the ambient
temperature, and an invalid one is refused; good input lets WAIT become RAMP; FULLY_ON makes it ON; PG is asserted in ON without limiting; 10 s without a fault clear the attempts; COOL
ends below RETRY_C; a measurement moves the model and is looked at for warnings; and the held warning pin. All of it runs in RUN and STANDBY, and not in SLEEP.
Limiting, reverse current and faults of a channel (R342 to R344, R348, R350, R352, R353, R356, Tables 14.3 and 14.7): limiting in RAMP or ON is shown and its timer's end, unless limiting ends
with it, is a fault whose cause names the state; the ramp timer and a diode that reads nonsense are faults; RAMP and ON go to WAIT on a bad input or a reverse current, which is no fault;
and a fault latches with SENSE, or when the attempts are spent and FDP is not asked, else it cools. In SLEEP nothing acts. -/
def Obligations.FeedChannelsAndFaults : Prop :=
  (∀ (s : State) (n : Fin 4) (v : Word) (vin vout : Fin 1024) (uv : Nat) (lim : Bool),
     let f := s.f
     let r := s.f.toRun
     let gives := fun (i : Instr) (g : FDie) => exec i s = .next (afterField s g)
     let runs := f.power ≤ 1
     let x := v.toNat
     let c := f.feed n
     let st := f.rd (Reg.FED_STAT_STATE n)
     let rst := r.rd (Reg.FED_STAT_STATE n)
     let att := f.rd (Reg.FED_STAT_ATTEMPTS n)
     let kept := (r.wr (Reg.FED_CFG_SAFE n) (fieldOf x 4 1)).wr (Reg.FED_CFG_RETRIES n) (fieldOf x 8 4)
     let src := kept.wr (Reg.FED_CFG_TSRC n) (fieldOf x 2 2)
     let shr := (kept.wr (Reg.FED_CFG_SHARE n) (fieldOf x 1 1)).wr (Reg.FED_CFG_TSRC n) (fieldOf x 2 2)
     let begun := ((src.wr (Reg.FED_CFG_EN n) 1).wr (Reg.FED_STAT_ATTEMPTS n) 0).wr (Reg.FED_STAT_STATE n) 1
     let shown0 := begun.wr (Reg.FED_TEMP_MODEL n) (unsigned 16 (src.tAmb n * 16).floor)
     let up := shown0.setFeed n { begun.feed n with temp := src.tAmb n }
     let good := f.setFeed n { c with good := true }
     let roomy := good.shares n = false ∨ 5 * good.rd (Reg.FED_MEAS_VOUT n) + 16 ≤ 5 * good.rd (Reg.FED_MEAS_VIN n)
     let cold := f.setFeed n { c with asked := false, decision := none }
     let again := ((cold.wr (Reg.FED_STAT_STATE n) 1).wr (Reg.FED_STAT_ATTEMPTS n) (min 15 (att + 1))).bump (Reg.FED_FLTCNT_RETRIES n)
     let cools := st = 4 ∧ f.stage = 0 ∧ f.feedT n < ((f.rd (Reg.FED_COOL_RETRY_C n) : Nat) : Rat)
     let latches := c.decision = some false ∨ (c.decision = none ∧ c.asked = true ∧ att = f.rd (Reg.FED_CFG_RETRIES n))
     let amps : Rat := quot ((uv : Nat) : Rat) ((f.rd (Reg.FED_LIM_SHUNT_UOHM n) : Nat) : Rat)
     let temp := f.modelStep n vin vout amps
     let shown := (((f.wr (Reg.FED_MEAS_VIN n) vin).wr (Reg.FED_MEAS_VOUT n) vout).wr (Reg.FED_IMEAS_MA10 n) (min 0xFFFF (amps * 100).floor.toNat)).wr
       (Reg.FED_TEMP_MODEL n) (unsigned 16 (temp * 16).floor)
     let metered := ((shown.setFeed n { c with temp := temp, reverse := false }).thermal n).overtemp n (fdpView s)
     (runs → rst = 0 → n.val % 2 = 1 → bitOf x 0 = true → r.rd (Reg.FED_CFG_EN n) = 0 → src.feedValid n = true → gives (.feedEnableWrite n v)
       (((up.setFeed n { up.feed n with asked := false, decision := none }).tryRamp n).feedWarn n)) ∧
     (runs → rst = 0 → n.val % 2 = 1 → bitOf x 0 = true → r.rd (Reg.FED_CFG_EN n) = 0 → src.feedValid n = false → gives (.feedEnableWrite n v)
       ((src.feedEvt n (Reg.FED_EVT_CFG_REFUSED n)).feedWarn n)) ∧
     (runs → rst = 0 → n.val % 2 = 1 → bitOf x 0 = true → r.rd (Reg.FED_CFG_EN n) ≠ 0 → gives (.feedEnableWrite n v) (src.feedWarn n)) ∧
     (runs → n.val % 2 = 0 → rst = 0 → r.rd (Reg.FED_STAT_STATE (n + 1)) = 0 → bitOf x 0 = false → r.rd (Reg.FED_CFG_EN n) = 0 → gives (.feedEnableWrite n v) (shr.feedWarn n)) ∧
     (runs → n.val % 2 = 1 → rst ≠ 0 → r.rd (Reg.FED_CFG_TSRC n) ≠ fieldOf x 2 2 → bitOf x 0 = true → r.rd (Reg.FED_CFG_EN n) ≠ 0 → gives (.feedEnableWrite n v)
       ((kept.feedEvt n (Reg.FED_EVT_CFG_REFUSED n)).feedWarn n)) ∧
     (runs → n.val % 2 = 1 → rst ≠ 0 → r.rd (Reg.FED_CFG_TSRC n) = fieldOf x 2 2 → bitOf x 0 = false → r.rd (Reg.FED_CFG_EN n) ≠ 0 → gives (.feedEnableWrite n v)
       (((((kept.wr (Reg.FED_CFG_EN n) 0).gateOff n).wr (Reg.FED_STAT_STATE n) 0).wr (Reg.FED_STAT_ATTEMPTS n) 0).feedWarn n)) ∧
     (f.feedValid n = true → 1 ≤ f.rd (Reg.FED_RAMP_RATE n) ∧ f.rd (Reg.FED_RAMP_RATE n) ≤ 100 ∧ f.rd (Reg.FED_VIN_OV n) ≤ 0x3C0 ∧
       f.rd (Reg.FED_FETT_RTH n) ≠ 0 ∧ f.rd (Reg.FED_FETT_TAU n) ≠ 0) ∧
     (runs → st ≠ 1 → gives (.inputGood n) good) ∧
     (runs → good.rd (Reg.FED_STAT_STATE n) = 1 → (good.feed n).good = true → roomy → gives (.inputGood n)
       ((good.wr (Reg.FED_STAT_STATE n) 2).setFeed n { good.feed n with limited := false, reverse := false })) ∧
     (runs → ¬roomy → gives (.inputGood n) good) ∧
     (runs → st = 2 ∨ st = 3 → gives (.fullyOn n) ((f.wr (Reg.FED_STAT_STATE n) 3).wr (Reg.FED_STAT_FULL n) 1)) ∧
     (runs → st ≠ 2 → st ≠ 3 → gives (.fullyOn n) f) ∧
     (runs → st = 3 → f.rd (Reg.FED_STAT_LIMIT n) = 0 → f.rd (Reg.FED_STAT_PG n) = 0 → gives (.pgDelayExpiry n false)
       ((f.wr (Reg.FED_STAT_PG n) 1).feedEvt n (Reg.FED_EVT_PG_UP n))) ∧
     (runs → lim = true ∨ st ≠ 3 ∨ f.rd (Reg.FED_STAT_LIMIT n) ≠ 0 → gives (.pgDelayExpiry n lim) f) ∧
     (runs → st = 3 → gives (.faultFreePeriod n) (f.wr (Reg.FED_STAT_ATTEMPTS n) 0)) ∧
     (runs → st ≠ 3 → gives (.faultFreePeriod n) f) ∧
     (runs → cools → ¬latches → c.decision ≠ some false → gives (.coolEnd n false) ((again.feedEvt n (Reg.FED_EVT_RETRY n)).tryRamp n)) ∧
     (runs → cools → latches → gives (.coolEnd n false) ((cold.wr (Reg.FED_STAT_STATE n) 5).feedEvt n (Reg.FED_EVT_LATCHED n))) ∧
     (runs → ¬cools → gives (.coolEnd n false) f) ∧
     (runs → gives (.coolEnd n true) f) ∧
     (runs → vin.val < metered.rd (Reg.FED_VIN_UV n) ∨ metered.rd (Reg.FED_VIN_OV n) < vin.val → gives (.feedMeasurement n vin vout uv) ((metered.vinBad n).feedWarn n)) ∧
     (runs → metered.rd (Reg.FED_VIN_UV n) ≤ vin.val → vin.val ≤ metered.rd (Reg.FED_VIN_OV n) → gives (.feedMeasurement n vin vout uv) ((metered.tryRamp n).feedWarn n)) ∧
     (runs → gives .warnHoldExpiry { f with warnHold := false }.warnPin) ∧
     (¬runs → ∀ i ∈ [Instr.feedEnableWrite n v, .inputGood n, .fullyOn n, .pgDelayExpiry n lim, .faultFreePeriod n, .coolEnd n lim, .feedMeasurement n vin vout uv,
       .warnHoldExpiry], gives i f)) ∧
  (∀ (s : State) (n : Fin 4) (t : Int) (cause fdp : Nat) (end_ : Bool),
     let f := s.f
     let gives := fun (i : Instr) (g : FDie) => exec i s = .next (afterField s g)
     let runs := f.power ≤ 1
     let c := f.feed n
     let st := f.rd (Reg.FED_STAT_STATE n)
     let on := st = 2 ∨ st = 3
     let lim := ((f.wr (Reg.FED_STAT_LIMIT n) 1).wr (Reg.FED_STAT_FULL n) 0).setFeed n { c with limited := true }
     let off := f.gateOff n
     let att := f.rd (Reg.FED_STAT_ATTEMPTS n)
     let told := ((((off.wr (Reg.FED_STAT_LAST_FAULT n) cause).bump (Reg.FED_FLTCNT_FAULTS n)).feedEvt n (Reg.FED_EVT_FAULT n)).fault (416 + n) 0x2A cause)
     let wants := if fdp ≠ 0 ∧ cause ≠ 5 then { told with asks := told.asks ++ [{ func := 7, detail0 := n + cause * 16 + att * 256, detail1 := 0, ctx := n }] } else told
     let plain := wants.setFeed n { wants.feed n with asked := (fdp == 2 && cause != 5), decision := none }
     let spent := fdp ≠ 2 ∧ att = f.rd (Reg.FED_CFG_RETRIES n)
     let nonsense := t < -800 ∨ 3200 < t
     let bad := (f.setFeed n { c with badDiode := true }).wr (Reg.FED_TEMP_DIODE n) (unsigned 16 t)
     let wait := ((f.setFeed n { c with good := false }).gateOff n).wr (Reg.FED_STAT_STATE n) 1
     let rev := ((f.gateOff n).wr (Reg.FED_STAT_STATE n) 1).feedEvt n (Reg.FED_EVT_REVERSE n)
     (runs → on → gives (.limitingOnset n) ((lim.feedEvt n (Reg.FED_EVT_LIMIT n)).feedWarn n)) ∧
     (runs → ¬on → gives (.limitingOnset n) f) ∧
     (runs → gives (.limitingEnd n) ((f.wr (Reg.FED_STAT_LIMIT n) 0).feedWarn n)) ∧
     (runs → f.rd (Reg.FED_STAT_LIMIT n) ≠ 0 → st = 2 → gives (.faultTimerExpiry n false) (f.feedFault n 1 (fdpView s))) ∧
     (runs → f.rd (Reg.FED_STAT_LIMIT n) ≠ 0 → st = 3 → gives (.faultTimerExpiry n false) (f.feedFault n 2 (fdpView s))) ∧
     (runs → end_ = true ∨ f.rd (Reg.FED_STAT_LIMIT n) = 0 ∨ ¬on → gives (.faultTimerExpiry n end_) f) ∧
     (runs → st = 2 → gives (.rampTimerExpiry n) (f.feedFault n 4 (fdpView s))) ∧
     (runs → st ≠ 2 → gives (.rampTimerExpiry n) f) ∧
     (runs → nonsense → f.rd (Reg.FED_CFG_TSRC n) = 1 → on → gives (.diodeReading n t) (bad.feedFault n 5 (fdpView s))) ∧
     (runs → nonsense → f.rd (Reg.FED_CFG_TSRC n) ≠ 1 ∨ ¬on → gives (.diodeReading n t) (bad.feedWarn n)) ∧
     (runs → ¬nonsense → gives (.diodeReading n t)
       (((((f.setFeed n { c with badDiode := false }).wr (Reg.FED_TEMP_DIODE n) (unsigned 16 t)).thermal n).overtemp n (fdpView s)).feedWarn n)) ∧
     (f.feedT n < 150 ∨ ¬on → f.overtemp n fdp = f) ∧
     (150 ≤ f.feedT n → st = 3 ∨ (st = 2 ∧ c.limited = false) → f.overtemp n fdp = f.feedFault n 3 fdp) ∧
     (150 ≤ f.feedT n → st = 2 → c.limited = true → f.overtemp n fdp = f.feedFault n 1 fdp) ∧
     (runs → on → gives (.vinOutOfRange n) (wait.feedWarn n)) ∧
     (runs → f.shares n = true → on → gives (.reverseCurrent n) ((rev.setFeed n { rev.feed n with reverse := true }).feedWarn n)) ∧
     (runs → f.shares n = false ∨ ¬on → gives (.reverseCurrent n) f) ∧
     (cause = 5 ∨ spent → f.feedFault n cause fdp = ((plain.wr (Reg.FED_STAT_STATE n) 5).feedEvt n (Reg.FED_EVT_LATCHED n)).feedWarn n) ∧
     (cause ≠ 5 → ¬spent → f.feedFault n cause fdp = (plain.wr (Reg.FED_STAT_STATE n) 4).feedWarn n) ∧
     (¬runs → ∀ i ∈ [Instr.limitingOnset n, .limitingEnd n, .faultTimerExpiry n end_, .rampTimerExpiry n, .diodeReading n t, .vinOutOfRange n, .reverseCurrent n], gives i f))

/-! ### Stored data and faults (chapters 15 and 16) -/

/-- Memory instances (R359 to R365, R367, R368; logs 61, 181): a scrub, the oldest merge entry's write back, a flush of both dies, a remap entry and an injection act on the die that holds
the instance. A read of a word whose valid bit is clear, or that is stored right, changes nothing; one wrong bit is corrected and counted, and more are flagged. A scrub reads the next
valid word, and changes nothing where it is off or none is valid. A remap entry in use is not moved, and no address comes to be held by two; and a word written whole,
while nothing arms an injection, is stored right. -/
def Obligations.MemoryIntegrity : Prop :=
  ∀ (s : State) (i : Fin 256) (k : Fin 8) (v : Word) (found : Fin 3) (again vote : Bool) (e : MergeEnt) (rest : List MergeEnt) (m : Mem) (a acc n : Nat) (late : Bool),
    s.h.boot.inReset = false →
    let mem := if i.val < 64 then s.h.mem else s.f.mem
    let run := fun (m : Mem) => Host.Outcome.next (φ := Fault) (ρ := Refusal)
      (afterBoth s (if i.val < 64 then s.withH (s.h.memRun m) else askAll (s.withF (s.f.memDone m false))))
    let period := ((mem.ctx i).period).getD (s.h.rd Reg.MEM_CFG_SCRUB_MS)
    let x := v.toNat
    let set := fun (y : Nat) => (((mem.wr (Reg.MEM_IINJ_ADDR i) (fieldOf y 0 17)).wr (Reg.MEM_IINJ_ADDR_EN i) (fieldOf y 17 1)).wr (Reg.MEM_IINJ_ARM i)
      (fieldOf y 18 1)).wr (Reg.MEM_IINJ_MASK i) (fieldOf y 20 10)
    let re := x ||| 2 ^ 19
    let drained := s.withH (s.h.memRun (drainMerges s.h.mem))
    let held := fun (m : Mem) (j : Nat) => m.rd (Reg.MEM_IRMP_EN i j) = 1
    let single := fun (m : Mem) => ∀ j < 8, ∀ l < 8, held m j → held m l → m.rd (Reg.MEM_IRMP_ADDR i j) = m.rd (Reg.MEM_IRMP_ADDR i l) → j = l
    let toState := fieldOf x 0 17
    let cell := m.word i a
    let bad := aget (m.ctx i).bad cell 0
    let failed := (m.ctx i).stuck.contains cell = true
    let old := m.setCtx { m.ctx i with merge := (m.ctx i).merge.filter fun y => y.addr != e.addr }
    (period ≠ 0 → i.val < 64 ∨ s.f.rd Reg.FGL_PWRSTAT_STATE ≠ 2 → exec (.memoryScrubRead i found again vote) s = run (mem.scrub i period found again vote)) ∧
    (period = 0 → exec (.memoryScrubRead i found again vote) s = .next (afterBoth s s)) ∧
    (m.rd (Reg.MEM_ICFG_SCRUB_EN i) = 0 ∨ m.rd (Reg.MEM_ISTAT_PRESENT i) = 0 ∨ (m.ctx i).valid = [] → m.scrub i n found again vote = m) ∧
    (m.rd (Reg.MEM_ICFG_SCRUB_EN i) ≠ 0 → m.rd (Reg.MEM_ISTAT_PRESENT i) ≠ 0 → rangeNext (m.ctx i).valid (m.rd (Reg.MEM_ISCRUB_POS i)) = some a →
      let next := rangeNext (m.ctx i).valid (a + 1)
      let shown := ((m.wr (Reg.MEM_ISCRUB_POS i) (next.getD ((rangeNext (m.ctx i).valid 0).getD 0))).wr (Reg.MEM_ISCRUB_PASSES i)
        (m.rd (Reg.MEM_ISCRUB_PASSES i) + b2n (decide (a < m.rd (Reg.MEM_ISCRUB_POS i))) + b2n next.isNone)).wr (Reg.MEM_ISTAT_SCRUB_SLOW i)
          (b2n (decide (1000 * n < rangeCount (m.ctx i).valid)))
      m.scrub i n found again vote = if shown.merging i a = true then shown else (shown.read i a 0xC found again vote).1) ∧
    ((mem.ctx i).merge = e :: rest → exec (.mergeWriteBack i found) s = run (mem.writeBack i e found)) ∧
    ((mem.ctx i).merge = [] → exec (.mergeWriteBack i found) s = run mem) ∧
    ((old.read i e.addr 0xD found false false).2 = true → m.writeBack i e found =
      ((old.read i e.addr 0xD found false false).1.wr (Reg.MEM_IEVT_MERGE_UE i) 1).setBad i e.addr (poison i)) ∧
    ((old.read i e.addr 0xD found false false).2 = false → m.writeBack i e found = (old.read i e.addr 0xD found false false).1.write i e.addr) ∧
    exec .memoryFlush s = .next (afterBoth s (askAll (drained.withF (s.f.memDone (drainMerges s.f.mem) false)))) ∧
    exec (.remapWrite i k v) s = run (mem.remapWrite i k x) ∧
    (bitOf x 19 = false ∨ mem.isValid i toState = false → exec (.injectionArm i v) s = run (set x)) ∧
    (bitOf x 19 = true → mem.isValid i toState = true → exec (.injectionArm i v) s = run ((set x).injectAt i toState)) ∧
    exec (.injectionRewrite i v) s = run (mem.injWrite i re) ∧
    (mem.isValid i (fieldOf re 0 17) = true → mem.injWrite i re = (set re).injectAt i (fieldOf re 0 17)) ∧
    (mem.isValid i (fieldOf re 0 17) = false → mem.injWrite i re = set re) ∧
    (held m k → toState ≠ m.rd (Reg.MEM_IRMP_ADDR i k) → m.remapWrite i k x = { m with refused := true }) ∧
    (¬held m k → bitOf x 31 = true → (∃ j < 8, j ≠ k.val ∧ held m j ∧ m.rd (Reg.MEM_IRMP_ADDR i j) = toState) → m.remapWrite i k x = { m with refused := true }) ∧
    (single m → single (m.remapWrite i k x) ∧ (a < 2 ^ 17 → single (m.remap i a).1)) ∧
    (m.isValid i a = false → m.read i a acc found again vote = (m, false)) ∧
    (bad = 0 → ¬failed → m.read i a acc 0 again false = (m, false)) ∧
    (m.isValid i a = true → (m.read i a acc 2 again vote).2 = true) ∧
    (m.isValid i a = true → bad = 0 → ¬failed → m.merging i a = false → m.read i a acc 1 false false =
      (((m.corrected i a acc).setBad i a 0).reread i a acc false, false)) ∧
    ((m.corrected i a acc).ces = m.ces + 1 ∧ (m.uncorrectable i a acc).ues = m.ues + 1) ∧
    (m.rd (Reg.MEM_ILAST_VALID i) = 0 → (m.corrected i a acc).faults.map (fun f => (f.inst, f.kind, f.addr)) =
      m.faults.map (fun f => (f.inst, f.kind, f.addr)) ++ [(i.val, 0x10, a)]) ∧
    ((m.uncorrectable i a acc).faults.map (fun f => (f.inst, f.kind, f.addr)) = m.faults.map (fun f => (f.inst, f.kind, f.addr)) ++ [(i.val, 0x11, a)]) ∧
    (m.rd (Reg.MEM_IINJ_ARM i) = 0 → ¬failed → (m.write i a).isValid i a = true ∧ ∀ b, (m.write i a).read i a b 0 late false = (m.write i a, false)) ∧
    (m.rd (Reg.MEM_IINJ_ARM i) = 1 → m.rd (Reg.MEM_IINJ_ADDR_EN i) = 0 → (m.write i a).rd (Reg.MEM_IINJ_ARM i) = 0 ∧ (m.write i a).injected i (a % 2 ^ 17) = true)

/-- The fault collector (R372, R374, R375, R379, R381, R383, R384, R388, R458; logs 50, 183): the earliest message is processed, unless its source is absent or disabled; one that falls in a shadow
is counted as consequential; a block reset runs where its domain has one and ends, shadows close, a step decays, PEND clears only where the fault is over and not grave, FLT_FECSTAT clears, and a condition that goes out of range
is reported once, and again only after it has returned.
How the collector takes a fault (R376 to R382, R385, R388): its level comes from the kind, MODE, SEV and CLASS; it is counted, logged and captured, and, on the ladder, found at the step
that the time since the last fault gives, which climbs, or FLE is asked; PEND is set, the gravest latches; and the reactions of the step act in the order of Table 16.5, without event
and NMI where the kind is already pending. An escalation adds the next step's reactions. -/
def Obligations.FaultsAndReactions : Prop :=
  (∀ (s : State) (m : FaultMsg) (v : Word) (d : Fin 64) (src : Fin 768) (sh : Shadow) (t : Nat) (rail : Fin 8) (temp : BitVec 16) (n : Fin 13)
     (lost : Bool), s.h.boot.inReset = false →
     let h := s.h
     let f := s.f
     let x := v.toNat
     let left := { h with flt.inbox := h.flt.inbox.erase m }
     let dom := fieldOf x 0 6
     let began := (h.flt.shadows.reverse.find? fun y => y.dom == d.val).map (fun y => y.open_ + ofUs (resetUs d))
     let shown := (h.advance (began.getD 0)).showShadows
     let ended := { shown with flt.resets := shown.flt.resets.filter fun y => y != d.val }
     let decayed := (h.advance (ofNs (t + 1000000 * max 1 (h.rd Reg.FLT_TIM_REPEAT_MS)))).wr (Reg.FLT_SSTAT_STEP src) 0
     let supply := h.wr Reg.PWM_SUPSTAT_INRANGE (setBit (h.rd Reg.PWM_SUPSTAT_INRANGE) rail false)
     let cleared := (h.wr (Reg.FLT_SSTAT_PEND src) 0).wr (Reg.FLT_SSTAT_ERRPIN src) 0
     let lists := fun (l : List (Nat × Nat)) (k : Nat) => (k, n.val) :: l.filter fun y => !(y == (k, n.val))
     let hot := decide (2000 < signed 16 temp.toNat)
     (h.flt.inbox = [] → exec .faultMessageReceived s = .next (afterSplit s (goOn s))) ∧
     (nextFault h.flt.inbox = some m → h.rd (Reg.FLT_SCFG_PRESENT m.source) = 0 → exec .faultMessageReceived s = .next (afterSplit s (goOn (s.withH left)))) ∧
     (nextFault h.flt.inbox = some m → h.rd (Reg.FLT_SCFG_PRESENT m.source) ≠ 0 → h.rd (Reg.FLT_SCFG_EN m.source) = 0 →
       exec .faultMessageReceived s = .next (afterSplit s (goOn (s.withH (left.bump (Reg.FLT_SCNT_FAULTS m.source)))))) ∧
     (nextFault h.flt.inbox = some m → h.rd (Reg.FLT_SCFG_PRESENT m.source) ≠ 0 → h.rd (Reg.FLT_SCFG_EN m.source) ≠ 0 → left.consequential m = false →
       exec .faultMessageReceived s = .next (afterSplit s (goOn (takeFault m (s.withH left))))) ∧
     (bitOf x 31 = true → resetUs dom = 0 → exec (.blockResetCommand v) s = .next (afterSplit s (goOn (s.withH (h.wr Reg.FLT_STAT_CFG_REFUSED 1))))) ∧
     (bitOf x 31 = true → resetUs dom ≠ 0 → exec (.blockResetCommand v) s = .next (afterSplit s (goOn (blockReset dom s)))) ∧
     (bitOf x 31 = false → exec (.blockResetCommand v) s = .next (afterSplit s (goOn s))) ∧
     (nextFault h.flt.inbox = some m → h.rd (Reg.FLT_SCFG_PRESENT m.source) ≠ 0 → h.rd (Reg.FLT_SCFG_EN m.source) ≠ 0 → left.consequential m = true →
       exec .faultMessageReceived s = .next (afterSplit s (goOn (s.withH (((left.bump (Reg.FLT_SCNT_CONSEQ m.source)).bump Reg.FLT_CONSEQTOT_COUNT).wr
         (Reg.FLT_SSTAT_LASTKIND m.source) m.kind))))) ∧
     (d.val ∈ h.flt.resets → d.val ≠ 9 → exec (.blockResetDone d) s = .next (afterSplit s (s.withH ended))) ∧
     (d.val ∉ h.flt.resets → exec (.blockResetDone d) s = .next (afterSplit s s)) ∧
     (d.val ∈ h.flt.resets → d.val = 9 → ended.upd.switch.any (fun y => slotClass y == 1) = true → exec (.blockResetDone d) s = .next (afterSplit s (s.withH ended))) ∧
     (d.val ∈ h.flt.resets → d.val = 9 → ended.upd.switch.any (fun y => slotClass y == 1) = false → exec (.blockResetDone d) s = .next (afterSplit s (s.withH { ended with boot.coreHeld := false }))) ∧
     (h.flt.shadows.reverse.find? (fun y => y.dom == d.val) = some sh →
       exec (.shadowClose d) s = .next (afterHost s (h.advance (sh.close + 1)).showShadows)) ∧
     (h.flt.lastAct.find? (fun e => e.1 == src.val) = some (src.val, t) →
       exec (.ladderStepDecay src) s = .next (afterHost s { decayed with flt.lastAct := adel h.flt.lastAct src })) ∧
     (faultActive s src = true → exec (.pendClear src) s = .next (afterSplit s (s.withH (h.wr Reg.FLT_STAT_CLR_REFUSED 1)))) ∧
     (faultActive s src = false → h.rd (Reg.FLT_SSTAT_GRAVE src) ≠ 0 → exec (.pendClear src) s = .next (afterSplit s s)) ∧
     (faultActive s src = false → h.rd (Reg.FLT_SSTAT_GRAVE src) = 0 → exec (.pendClear src) s = .next (afterSplit s
       (s.withH { cleared with flt.kinds := cleared.flt.kinds.filter fun y => y.1 != src.val }))) ∧
     exec .fecClear s = .next (afterHost s ((h.wr Reg.FLT_FECSTAT_VALID 0).wr Reg.FLT_FECSTAT_LATER 0)) ∧
     (bitOf x 31 = true → exec (.faultInject v) s = .next (afterSplit s (goOn (processFault (injectedMsg x (timeWord h.tb.now)) s)))) ∧
     (f.power ≤ 1 → bitOf x 31 = true → 256 ≤ fieldOf x 0 10 → fieldOf x 0 10 ≤ 511 → exec (.fieldFaultInject v) s =
       .next (afterField s (f.toRun.report (injectedMsg x (timeWord f.toRun.tb.now))))) ∧
     (1 < f.power → exec (.fieldFaultInject v) s = .next (afterField s f)) ∧
     (rail.val < 6 → h.flt.outs.contains (1, rail.val) = false → exec (.supplyOutOfRange rail true) s = .next (afterHost s
       ({ supply with flt.outs := (1, rail.val) :: h.flt.outs.filter fun y => !(y == (1, rail.val)) }.fault 1 0x31 rail))) ∧
     (rail.val < 6 → h.flt.outs.contains (1, rail.val) = true → exec (.supplyOutOfRange rail true) s = .next (afterHost s
       { supply with flt.outs := (1, rail.val) :: h.flt.outs.filter fun y => !(y == (1, rail.val)) })) ∧
     (f.stage ≠ 4 → exec (.junctionOvertemp true temp) s = .next (carryF (s.withF (f.outOf 258 0 0x32 temp.toNat hot)))) ∧
     exec (.junctionOvertemp false temp) s = .next (afterHost s (h.outOf 2 0 0x32 temp.toNat hot)) ∧
     (n.val ≠ 0 → n.val < 9 ∨ n.val = 12 → exec (.clockLoss n lost) s = .next (afterHost s (h.outOf 3 n 0x33 n lost))) ∧
     (n.val = 0 → exec (.clockLoss n lost) s = .next (afterHost s h)) ∧
     (9 ≤ n.val → n.val ≤ 11 → f.stage ≠ 4 → exec (.clockLoss n lost) s = .next (carryF (s.withF (f.outOf 270 n 0x33 n lost)))) ∧
     (9 ≤ n.val → n.val ≤ 11 → f.stage = 4 → exec (.clockLoss n lost) s = .next (carryF s)) ∧
     (h.flt.outs.contains (3, n.val) = false → h.outOf 3 n 0x33 n true = { h with flt.outs := lists h.flt.outs 3 }.fault 3 0x33 n) ∧
     (h.flt.outs.contains (3, n.val) = true → h.outOf 3 n 0x33 n true = { h with flt.outs := lists h.flt.outs 3 }) ∧
     h.outOf 3 n 0x33 n false = { h with flt.outs := h.flt.outs.filter fun y => !(y == (3, n.val)) } ∧
     (f.outs.contains (270, n.val) = false → f.power ≠ 2 ∨ f.stage = 3 → f.outOf 270 n 0x33 n true = { f with outs := lists f.outs 270 }.fault 270 0x33 n) ∧
     (f.outs.contains (270, n.val) = true ∨ (f.power = 2 ∧ f.stage ≠ 3) → f.outOf 270 n 0x33 n true = { f with outs := lists f.outs 270 }) ∧
     f.outOf 270 n 0x33 n false = { f with outs := f.outs.filter fun y => !(y == (270, n.val)) }) ∧
  (∀ (s : State) (m : FaultMsg) (st r src t : Nat) (quiet : Bool) (got : FaultMsg × Bool),
     let h := s.h
     let level := h.faultLevel m
     let ns := wordNs m.time
     let known := h.rd (Reg.FLT_SSTAT_PEND m.source) ≠ 0 ∧ (m.source, m.kind) ∈ h.flt.kinds
     let counted := (h.bump (Reg.FLT_SCNT_FAULTS m.source)).wr (Reg.FLT_SSTAT_LASTKIND m.source) m.kind
     let noted := fun (k : Nat) => (counted.logFault m k).captureFault m k
     let stood := (h.stepNow m.source ns).1
     let pend := fun (g : HDie) => { g.wr (Reg.FLT_SSTAT_PEND m.source) 1 with
       flt.kinds := if (g.flt.kinds.contains (m.source, m.kind)) = true then g.flt.kinds else (m.source, m.kind) :: g.flt.kinds }
     let stepped := fun (k : Nat) => { (noted k).wr (Reg.FLT_SSTAT_STEP m.source) k with flt.lastAct := aput (noted k).flt.lastAct m.source ns }
     let set := fun (g : HDie) (k : Nat) => if m.react = true then g.reactions m.source k else 0
     let asked := h.spl.reqs.any (fun q => q.func == 8 && q.ctx == m.source) = true
     let near := h.flt.lastAct.find? (fun e => e.1 == src) = some (src, st) ∧ t ≤ st + 1000000 * max 1 (h.rd Reg.FLT_TIM_REPEAT_MS)
     let react0 := if resetUs (h.rd (Reg.FLT_SCFG_DOM src)) = 0 then setBit (h.rd (Reg.FLT_SCFG_REACT src)) 2 false else h.rd (Reg.FLT_SCFG_REACT src)
     let woke := if bitOf r 0 = true ∨ bitOf r 1 = true then h.restTrigger else h
     let told := if bitOf r 0 = true then woke.irq m quiet else woke
     let called := if bitOf r 1 = true ∧ quiet = false then told.nmi else told
     let pinned := if bitOf r 4 = true then called.wr (Reg.FLT_SSTAT_ERRPIN m.source) 1 else called
     let now := h.rd (Reg.FLT_SSTAT_STEP src)
     let dropped := { h with flt.fle := adel h.flt.fle src }
     let raised := dropped.wr (Reg.FLT_SSTAT_STEP src) (min 2 (now + 1))
     (kindClass 0x10 = 0 ∧ kindClass 0x12 = 0 ∧ kindClass 0x34 = 2 ∧ kindClass 0x11 = 1) ∧
     (h.rd Reg.FLT_CFG_MODE = 0 → kindClass m.kind = 0 → level = 1) ∧
     (h.rd Reg.FLT_CFG_MODE = 0 → kindClass m.kind ≠ 0 → level = if h.rd (Reg.FLT_SCFG_SEV m.source) = 0 then 0 else if h.rd (Reg.FLT_SCFG_SEV m.source) = 3 then 3 else 2) ∧
     (h.rd Reg.FLT_CFG_MODE ≠ 0 → level = max (kindClass m.kind) (min 2 (h.rd (Reg.FLT_SCFG_CLASS m.source))) + 1) ∧
     (level = 0 → takeFault m s = s.withH (noted stood)) ∧
     (level = 1 → m.react = false → takeFault m s = s.withH (pend (noted stood))) ∧
     (level = 1 → m.react = true → takeFault m s = react ((pend (noted stood)).reactions m.source stood % 2) m (decide known) (s.withH (pend (noted stood)))) ∧
     (level = 2 → kindClass m.kind = 0 → takeFault m s = react (set (pend (noted stood)) stood) m (decide known) (s.withH (pend (noted stood)))) ∧
     (level = 3 → kindClass m.kind = 0 → takeFault m s =
       (let g := (pend (noted stood)).grave m
        react (set g stood) m (decide known) (s.withH g))) ∧
     (2 ≤ level → kindClass m.kind ≠ 0 → h.climb m = (st, r) → takeFault m s =
       (let asks := if r = 1 then (stepped st).fleAsk m st (decide known) else if r = 2 then (stepped st).bump (Reg.SPL_FCNT_DEFAULTED 8) else stepped st
        let g := if level = 3 then (pend asks).grave m else pend asks
        react (set g st) m (decide known) (s.withH g))) ∧
     (h.flt.lastAct.find? (fun e => e.1 == src) = none → h.stepNow src t = (h.rd (Reg.FLT_SSTAT_STEP src), false)) ∧
     (near → h.stepNow src t = (h.rd (Reg.FLT_SSTAT_STEP src), true)) ∧
     (h.flt.lastAct.find? (fun e => e.1 == src) = some (src, st) → st + 1000000 * max 1 (h.rd Reg.FLT_TIM_REPEAT_MS) < t → h.stepNow src t = (0, false)) ∧
     (h.stepNow m.source ns = (st, true) → st < 2 → ¬asked → h.modeOf 8 = 0 → h.climb m = (st + 1, 0)) ∧
     (h.stepNow m.source ns = (st, true) → st < 2 → ¬asked → h.modeOf 8 ≠ 0 → h.mayAsk 8 = true → h.climb m = (st, 1)) ∧
     (h.stepNow m.source ns = (st, true) → st < 2 → ¬asked → h.modeOf 8 ≠ 0 → h.mayAsk 8 = false → h.climb m = (st + 1, 2)) ∧
     (h.stepNow m.source ns = (st, true) → 2 ≤ st ∨ asked → h.climb m = (st, 0)) ∧
     (h.stepNow m.source ns = (st, false) → h.climb m = (st, 0)) ∧
     (m.injected = true → h.grave m = h.wr (Reg.FLT_SSTAT_ERRPIN m.source) 1) ∧
     (m.injected = false → h.rd Reg.FLT_GRAVE_VALID ≠ 0 → h.grave m = h) ∧
     (m.injected = false → h.rd Reg.FLT_GRAVE_VALID = 0 → h.grave m =
       ((((h.wr Reg.FLT_GRAVE_SOURCE m.source).wr Reg.FLT_GRAVE_KIND m.kind).wr Reg.FLT_GRAVE_VALID 1).wr Reg.FLT_GRAVET_TIME m.time).wr (Reg.FLT_SSTAT_GRAVE m.source) 1) ∧
     (kindClass m.kind ≠ 0 ∨ h.rd Reg.FLT_CFG_FEC_CE ≠ 0 → h.rd Reg.FLT_FECSTAT_VALID ≠ 0 → h.captureFault m st = h.bump Reg.FLT_FECSTAT_LATER) ∧
     (kindClass m.kind = 0 → h.rd Reg.FLT_CFG_FEC_CE = 0 → h.captureFault m st = h) ∧
     (kindClass m.kind ≠ 0 ∨ h.rd Reg.FLT_CFG_FEC_CE ≠ 0 → h.rd Reg.FLT_FECSTAT_VALID = 0 → h.captureFault m st =
       (storeWords Reg.FLT_FEC_F_w m st h).wr Reg.FLT_FECSTAT_VALID 1) ∧
     h.reactions src 0 = react0 ∧
     (bitOf r 3 = false → bitOf r 2 = false → react r m quiet s = s.withH pinned) ∧
     (bitOf r 3 = false → bitOf r 2 = true → react r m quiet s = blockReset (pinned.rd (Reg.FLT_SCFG_DOM m.source)) (s.withH pinned)) ∧
     (bitOf r 3 = true → react r m quiet s = chipReset 2 (s.withH
       (((pinned.wr Reg.FLT_LASTRST_SOURCE m.source).wr Reg.FLT_LASTRST_KIND m.kind).wr Reg.FLT_LASTRST_VALID 1))) ∧
     (h.coreRuns = false → h.nmi = (h.bump Reg.FLT_NMILOST_COUNT).wr Reg.FLT_STAT_NMI_LOST 1) ∧
     (h.coreRuns = true → h.nmi = { h with flt.nmis := h.flt.nmis + 1 }) ∧
     (quiet = true ∨ h.hostAttached = false → h.irq m quiet = { h with flt.irqs := h.flt.irqs + 1 }) ∧
     (h.flt.fle.find? (fun e => e.1 == src) = some (src, got) → fleDecide src false s = s.withH dropped) ∧
     (h.flt.fle.find? (fun e => e.1 == src) = some (src, got) → got.1.react = true → fleDecide src true s =
       react ((raised.reactions src (min 2 (now + 1)) ||| dropped.reactions src now) - dropped.reactions src now) got.1 got.2 (s.withH raised)))

/-- Block resets (R30, R33, R92, R372, R383, Table 16.2; logs 50, 73): each opens its shadow. The PCI domain, a ring port, a spur, the bridge, the core, the update engine and the monitors are reset on the
host die; the barrier link comes down on both; and a domain of the field die is reset while the dies hear each other: the Groom's filters, a cluster, a CAN controller, a feed. -/
def Obligations.BlockResets : Prop :=
  ∀ (s : State) (d : Nat) (g : HDie) (f : FDie) (p : Fin 2) (q : Fin 4) (i : Fin 20) (mon : Fin 30),
    let opened := s.withH (s.h.openShadow d)
    let o := opened.h
    let past := failAll 17 g.brg.posted (endAll 17 g.brg.nps g)
    let off := f.clusterEnable 2 0
    (resetUs d = 0 → blockReset d s = s) ∧
    (d ∈ [1, 2, 3, 4, 5, 6, 7, 8, 11] → blockReset d s = opened.withH (o.domainReset d)) ∧
    (d = 9 → o.bootRec.trial = true ∧ o.coreRuns = true → blockReset d s = opened.withH o.fallbackM) ∧
    (d = 9 → o.bootRec.trial = false ∨ o.coreRuns = false → blockReset d s = opened.withH ({ o with boot.coreHeld := true, boot.coreOk := false }.serveAll)) ∧
    (d = 10 → blockReset d s = opened.withH o.updateReset) ∧
    (d = 12 → opened.linked = false → blockReset d s = opened) ∧
    (d = 12 → opened.linked = true → ∃ h2 f2, blockReset d s = { opened with h := h2, f := f2, link := { toF := [], toH := [] } } ∧ f2.linkUp = false ∧ f2.bar = BarEnd.clear ∧ f2.waits = [] ∧
      h2.brg.bar = BarEnd.clear ∧ h2.brg.imgIn = [] ∧ h2.brg.strIn = []) ∧
    (12 < d → resetUs d ≠ 0 → opened.linked = true → blockReset d s = coolsEnd s.f (opened.withF (s.f.domainReset d))) ∧
    (12 < d → resetUs d ≠ 0 → opened.linked = false → blockReset d s = opened) ∧
    g.domainReset 1 = g.pciReset 0 ∧
    (g.rd (Reg.RNG_PSTAT_STATE p) = 0 → g.domainReset (2 + p) = g) ∧
    (g.rd (Reg.RNG_PSTAT_STATE p) ≠ 0 → g.domainReset (2 + p) = (g.goTo p 1 0xE).enterDetect p true) ∧
    g.domainReset (4 + q) = (g.spurShow q false false false false false).spurFollow q ∧
    g.domainReset 8 = ({ past with brg.orders := [], brg.acks := [], brg.ackIn := [], brg.reports := [] }.wr Reg.BRG_STATUS_ORD_FULL 0).settlePw ∧
    (g.domainReset 11).rd (Reg.AGE_MVAL_WEAR mon) = 0 ∧ (g.domainReset 11).rd (Reg.AGE_MVAL_RAW mon) = 0 ∧
    (f.domainReset 13).grmS = [] ∧
    (f.rd (Reg.GRM_INCFG_FILT i) = 1 ∨ f.rd (Reg.GRM_INCFG_FILT i) = 3 → (f.domainReset 13).rd (Reg.GRM_VAL_VALUE i) = 0) ∧
    f.domainReset 18 = (upto 8).foldl (fun (x : FDie) k => (x.emptyFifo (16 + k)).emptyFifo (144 + k)) off ∧
    (∀ k : Fin 8, ((f.domainReset 18).fifo (16 + k)).words = [] ∧ ((f.domainReset 18).fifo (144 + k)).words = []) ∧
    (f.domainReset 35).rd (Reg.CAN_CTL_MODE 3) = 0 ∧ (f.domainReset 35).rd (Reg.CAN_STAT_MODE 3) = 0 ∧ (f.domainReset 35).rd (Reg.CAN_ECNT_TEC 3) = 0 ∧
    f.domainReset (48 + q) = ((((f.wr (Reg.FED_CFG_EN q) 0).gateOff q).wr (Reg.FED_STAT_STATE q) 0).wr (Reg.FED_STAT_ATTEMPTS q) 0).feedWarn q

/-! ### Updates and ageing (chapters 18 and 19) -/

/-- A session of the update engine (R410 to R412, R415, Table 18.5): START is accepted only in IDLE, for an inactive slot, at rest, with power and unlocked; a chunk is programmed within the
slot, on its grid, once; what reads back otherwise ends the session with FLASH, what the flash then holds in the chunk's place being open (log 5); CHECK, its header checks and its digest
stage the slot or end the session with the code of the failure, firmware being asked in between in an HA mode; and ABORT leaves it. Everything else is refused with its code and changes no
state. Logs 63 and 66 name what the model chose.
Switching (R405, R409, R412, R415, R416): ACTIVATE is refused outside STAGED and while R412 bars it, and else the record takes the slot, on trial for
class M, whose core is held, while a class F slot waits for the field die's ROM; the record that is written is then in force; and the core starts an image whose digest is right. Logs 63 and
66 name what the model chose. -/
def Obligations.UpdateSessionsAndSwitching : Prop :=
  (∀ (s : State) (slot : Fin 16) (motionLow holdupLow good accept : Bool) (off : Nat) (bs : List Byte), s.h.boot.inReset = false →
     let h := s.h
     let st := h.rd Reg.FWU_STAT_STATE
     let k := h.rd Reg.FWU_STAT_SLOT
     let g := h.fwuPins motionLow (holdupLow || h.on Reg.FWU_STAT_HOLDUP_LOW)
     let cls := slotClass slot
     let cls_ := slotClass
     let chOff := h.rd Reg.FWU_CHOFF_OFFSET
     let chLen := h.rd Reg.FWU_CHLEN_LEN
     let grid := chOff % 256 = 0 ∧ chLen % 4 = 0 ∧ 4 ≤ chLen ∧ chLen ≤ 16384 ∧ chOff + chLen ≤ slotSize k
     let idle := h.wr Reg.FWU_STAT_BUSY (b2n h.upd.writing.isSome)
     let junk := (upto bs.length).map fun i => BitVec.ofNat 8 (Config.freeValue (h.free + i))
     let code := h.checkHeader k
     let failed := fun (x : Nat) =>
       { ((h.wr Reg.FWU_STAT_ERR x).wr Reg.FWU_EVT_CHECK_FAIL 1).imageFault x h.fwuSlot with upd.header := false }.fwuTo 0
     let payload := if h.digestOk k = true then { h.wr Reg.FWU_EVT_STAGED 1 with upd.ok := k :: h.upd.ok, upd.header := false }.fwuTo 3 else failed 0x0B
     let ans := fun (u : HDie) => Host.Outcome.next (φ := Fault) (ρ := Refusal) (afterSplit s (s.withH u))
     (g.rd Reg.FWU_STAT_STATE ≠ 0 ∨ 6 ≤ slot.val → exec (.updateStart slot motionLow holdupLow) s = ans (g.fwuRefuse 0x12)) ∧
     (g.rd Reg.FWU_STAT_STATE = 0 → slot.val < 6 → g.bootRec.active cls = slot →
       exec (.updateStart slot motionLow holdupLow) s = ans (g.fwuRefuse 0x0E)) ∧
     (g.rd Reg.FWU_STAT_STATE = 0 → slot.val < 6 → g.bootRec.active cls ≠ slot → g.fwuBar ≠ 0 →
       exec (.updateStart slot motionLow holdupLow) s = ans (g.fwuRefuse g.fwuBar)) ∧
     (g.rd Reg.FWU_STAT_STATE = 0 → slot.val < 6 → g.bootRec.active cls ≠ slot → g.fwuBar = 0 →
       exec (.updateStart slot motionLow holdupLow) s = ans
         ({ (g.wr Reg.FWU_STAT_SLOT slot).wr Reg.FWU_STAT_ERR 0 with
             upd.touched := [], upd.written := [], upd.chunk := none, upd.header := false,
             upd.ok := g.upd.ok.filter fun x => x != slot.val }.fwuTo 1)) ∧
     (motionLow = true → g.fwuBar = 0x0F) ∧
     (st ≠ 1 ∨ h.upd.chunk ≠ none → exec .updateProgram s = ans (h.fwuRefuse 0x12)) ∧
     (st = 1 → h.upd.chunk = none → ¬grid → exec .updateProgram s = ans (h.fwuRefuse 0x05)) ∧
     (st = 1 → h.upd.chunk = none → grid → h.upd.written.any (fun w => w.1 < chOff + chLen && chOff < w.1 + w.2) = true →
       exec .updateProgram s = ans (h.fwuRefuse 0x0D)) ∧
     (st = 1 → h.upd.chunk = none → grid → h.upd.written.any (fun w => w.1 < chOff + chLen && chOff < w.1 + w.2) = false →
       let a := slotBase k + chOff
       let e := eraseSectors ((upto ((a + chLen - 1) / 0x10000 - a / 0x10000 + 1)).map fun i => a / 0x10000 + i) h
       exec .updateProgram s = ans { e.wr Reg.FWU_STAT_BUSY 1 with upd.chunk := some (chOff, e.chunkBytes chLen) }) ∧
     (h.upd.chunk = some (off, bs) → exec (.programDone true) s = ans
       { idle with upd.chunk := none, upd.written := h.upd.written ++ [(off, bs.length)],
                   upd.flash := flashWrite h.upd.flash (slotBase k + off) bs }) ∧
     (h.upd.chunk = some (off, bs) → exec (.programDone false) s = ans
       ({ idle.wr Reg.FWU_STAT_ERR 0x0C with
           upd.chunk := none, upd.flash := flashWrite h.upd.flash (slotBase k + off) junk, free := h.free + bs.length }.fwuTo 0)) ∧
     (h.upd.chunk = none → exec (.programDone good) s = ans h) ∧
     (st = 1 → h.upd.chunk = none → exec .updateCheck s = ans (h.fwuTo 2)) ∧
     (st ≠ 1 ∨ h.upd.chunk ≠ none → exec .updateCheck s = ans (h.fwuRefuse 0x12)) ∧
     (st = 2 → h.upd.header = false → code ≠ 0 → exec .checkDone s = ans (failed code)) ∧
     (st = 2 → h.upd.header = false → code = 0 → h.modeOf 9 = 0 → exec .checkDone s = ans payload) ∧
     (st = 2 → h.upd.header = false → code = 0 → h.modeOf 9 ≠ 0 → h.mayAsk 9 = true → exec .checkDone s = ans
       ({ h with upd.header := true }.ask 9 (k + cls_ k * 16 + h.imageVersion k * 2 ^ 32) (hdrLength (h.header k)) k)) ∧
     (st ≠ 2 ∨ h.upd.header = true → exec .checkDone s = ans h) ∧
     (st = 2 → h.upd.header = true → h.fwcDecide accept = if accept = true then payload else failed 0x0A) ∧
     (1 ≤ st → st ≤ 3 → exec .updateAbort s = ans h.updateReset ∧
       (h.updateReset.rd Reg.FWU_STAT_STATE = 0 ∧ h.updateReset.upd.chunk = none ∧ h.updateReset.upd.header = false ∧ k ∉ h.updateReset.upd.ok)) ∧
     (st = 0 ∨ 3 < st → exec .updateAbort s = ans (h.fwuRefuse 0x12))) ∧
  (∀ (s : State) (motionLow holdupLow : Bool), s.h.boot.inReset = false →
     let h := s.h
     let g := h.fwuPins motionLow (holdupLow || h.on Reg.FWU_STAT_HOLDUP_LOW)
     let k := g.rd Reg.FWU_STAT_SLOT
     let ans := fun (u : HDie) => Host.Outcome.next (φ := Fault) (ρ := Refusal) (afterSplit s (s.withH u))
     let staged := g.rd Reg.FWU_STAT_STATE = 3 ∧ g.fwuBar = 0
     let new := fun (sw : Option Nat) => { g.wr Reg.FWU_EVT_ACTIVATED 1 with upd.prev := g.bootRec.active (slotClass k), upd.switch := sw }
     let switched := fun (sw : Option Nat) (r : BootRec) => (((new sw).writeRec r).wr Reg.FWU_STAT_ERR 0).fwuTo 4
     let rec_ := h.finishRec
     let stepped := fun (u : HDie) (x : Nat) => if u.rd Reg.FWU_STAT_STATE = 4 then u.fwuTo x else u
     let started := fun (x : Nat) => { rec_.startCore x with upd.switch := none }
     (g.rd Reg.FWU_STAT_STATE ≠ 3 → exec (.updateActivate motionLow holdupLow) s = ans (g.fwuRefuse 0x12)) ∧
     (g.rd Reg.FWU_STAT_STATE = 3 → g.fwuBar ≠ 0 → exec (.updateActivate motionLow holdupLow) s = ans (g.fwuRefuse g.fwuBar)) ∧
     (staged → slotClass k = 1 → exec (.updateActivate motionLow holdupLow) s = ans
       (switched (some k) { g.bootRec.withActive k with trial := true, tryUsed := true }).coreStop) ∧
     (staged → slotClass k = 2 → exec (.updateActivate motionLow holdupLow) s = ans
       ({ switched (some k) (g.bootRec.withActive k) with upd.load := some { slot := k, tried := false, sent := false, ran := false } }.sendImg [imgData 0 1 []])) ∧
     (staged → slotClass k = 3 → exec (.updateActivate motionLow holdupLow) s = ans (switched none (g.bootRec.withActive k))) ∧
     (rec_.rd Reg.FWU_STAT_STATE = 4 → slotClass rec_.fwuSlot = 3 → exec .bootRecordWritten s = ans (rec_.fwuTo 0)) ∧
     (rec_.rd Reg.FWU_STAT_STATE ≠ 4 → exec .bootRecordWritten s = ans rec_) ∧
     (∀ x : Nat, h.upd.switch = some x → slotClass x = 1 → exec .classMImageStarted s = ans
       (if (started x).rd Reg.GLB_STATUS_BOOT = 2 then stepped (started x) 5
        else stepped (((started x).wr Reg.FWU_STAT_ERR 0x0B).imageFault 0x0B x).fallbackM 0)) ∧
     (∀ x : Nat, h.digestOk x = true → let u := h.startCore x
       u.rd Reg.GLB_STATUS_BOOT = 2 ∧ u.rd Reg.FWU_VERM_VERSION = h.imageVersion x ∧ u.boot.coreHeld = false ∧ u.upd.run = x ∧
       u.boot.entry = leNat (slice (h.header x) 0x14 4)) ∧
     (∀ x : Nat, h.digestOk x = false → let u := h.startCore x
       u.rd Reg.GLB_STATUS_BOOT = 3 ∧ u.boot.imem = h.boot.imem ∧ u.boot.dmem = h.boot.dmem) ∧
     (h.upd.switch = none → exec .classMImageStarted s = ans h))

/-- The end of a trial (R415 to R417, R419): CONFIRM, which the hub's own running core alone can give, ends the trial of class M; an expired window falls back, the record returning to the
previous slot, whose image starts, and wins over a CONFIRM of the same instant; and a microcode that does not report HEALTHY in time sends its update or its load back. Log 63 names what the
model chose.
The image stream, motion and ownership (R413, R414, R417, R418, R423): the ROM takes the stream's bytes in their order and RESTART starts it over; what the field die reports moves the load
on, the microcode that is to run being known by its VERSION, and another one being sent RESTART; the lead tells every hub of motion, and silence means motion; and only the owner writes
FWU_OWNER. Log 63 names what the model chose. -/
def Obligations.TrialsImageStreamAndMotion : Prop :=
  (∀ (s : State) (core expired : Bool) (l : FLoad), s.h.boot.inReset = false →
     let h := s.h
     let ans := fun (u : HDie) => Host.Outcome.next (φ := Fault) (ρ := Refusal) (afterSplit s (s.withH u))
     let r := h.bootRec
     let trial := r.trial = true
     let written := h.coreStop.writeRec { r with actM := 1 - r.actM, trial := false }
     let back := ((({ written with upd.switch := none }.wr Reg.FWU_EVT_FALLBACK 1).bump Reg.FWU_FALLBACKS_COUNT).imageFault 0x13 r.actM).startCore (1 - r.actM)
     let recorded := h.writeRec { r with trial := false, minrb := max r.minrb (leNat (slice (h.header r.actM) 0xC 4)) }
     let confirmed := { recorded with boot.coreOk := true }.wr Reg.FWU_EVT_CONFIRMED 1
     (core = false ∨ h.coreRuns = false → exec (.updateConfirm core false) s = ans (h.fwuRefuse 0x12)) ∧
     (trial → h.coreRuns = true → confirmed.rd Reg.FWU_STAT_STATE = 5 → exec (.updateConfirm true false) s = ans (confirmed.fwuTo 0).serveAll) ∧
     (trial → h.coreRuns = true → confirmed.rd Reg.FWU_STAT_STATE ≠ 5 → exec (.updateConfirm true false) s = ans confirmed.serveAll) ∧
     (r.trial = false → h.coreRuns = true → h.boot.coreOk = false → exec (.updateConfirm true expired) s = ans { h with boot.coreOk := true }) ∧
     (r.trial = false → h.boot.coreOk = true → exec (.updateConfirm core expired) s = ans (h.fwuRefuse 0x12)) ∧
     (trial → h.coreRuns = true → back.rd Reg.FWU_STAT_STATE = 5 → slotClass back.fwuSlot = 1 →
       exec .confirmWindowExpiry s = ans ((back.wr Reg.FWU_STAT_ERR 0x13).fwuTo 0) ∧
       exec (.updateConfirm core true) s = ans ((back.wr Reg.FWU_STAT_ERR 0x13).fwuTo 0)) ∧
     (trial → h.coreRuns = true → back.rd Reg.FWU_STAT_STATE ≠ 5 ∨ slotClass back.fwuSlot ≠ 1 →
       exec .confirmWindowExpiry s = ans back ∧ exec (.updateConfirm core true) s = ans back) ∧
     (r.trial = false ∨ h.coreRuns = false → exec .confirmWindowExpiry s = ans h) ∧
     (h.upd.load = some l → exec .classFHealthTimeout s = ans (h.failF l.slot 0x14 l.tried true)) ∧
     (h.upd.load = none → h.updatesF = false → exec .classFHealthTimeout s = ans h) ∧
     (h.upd.load = none → h.updatesF = true → exec .classFHealthTimeout s = ans (h.failF (h.bootRec.active 2) 0x14 false true))) ∧
  (∀ (s : State) (hub : Fin 128) (v : Word) (m : BarMsg) (l : FLoad), s.h.boot.inReset = false →
     let h := s.h
     let ring := h.rd Reg.FWU_MOTCFG_RING
     let lead := h.rd Reg.RED_LEADSTAT_LEAD_HUB
     let told := fun (u : HDie) (x : Nat) => (u.wr Reg.FWU_RINGMOT_VAL x).showMotion
     let took := fieldTook 0x50 m s
     let risen := h.wr Reg.FWU_STAT_HOLDUP_LOW 0
     (s.f.linkUp = true → msgBad true 0x50 m = false → m.m1.fld 30 2 = 0 → s.f.stage = 3 → m.m1.fld 0 16 = s.f.romSeq →
       exec (.imgData m) s = .next (afterField took
         { took.f with rom := s.f.rom ++ msgBytes m (m.m1.fld 16 5), romSeq := s.f.romSeq + 1 })) ∧
     (s.f.linkUp = true → msgBad true 0x50 m = false → m.m1.fld 30 2 = 1 → s.f.stage = 0 ∨ s.f.stage = 3 →
       exec (.imgData m) s = .next (afterField took took.f.restart)) ∧
     (h.rd Reg.BAR_STAT_UP ≠ 0 → msgBad false 0x51 m = false →
       let t := hostTook 0x51 m s
       let tld := fun (u : HDie) (upd : Bool) => Host.Outcome.next (φ := Fault) (ρ := Refusal) (afterSplit s ({ t.withH u with f.upd := upd }))
       (m.m1.fld 0 8 = 1 → exec (.imgStat m) s = tld t.h.romReady t.f.upd) ∧
       (m.m1.fld 0 8 = 3 → t.h.upd.load = some l → exec (.imgStat m) s = tld (t.h.failF l.slot 0x0B l.tried false) t.f.upd) ∧
       (m.m1.fld 0 8 = 4 → exec (.imgStat m) s = tld (t.h.fieldRuns m.m3.toNat) t.f.upd) ∧
       (m.m1.fld 0 8 = 5 → let u := t.h.fieldHealthy m.m3.toNat
         exec (.imgStat m) s = tld u (t.f.upd && u.upd.load.isSome)) ∧
       (m.m1.fld 0 8 = 6 → t.h.upd.load = some l → exec (.imgStat m) s = tld (t.h.sendImg (t.h.streamFrom l.slot (m.m2.fld 0 16))) t.f.upd)) ∧
     (h.upd.load = some l → h.checkHeader l.slot = 0 →
       h.romReady = ({ h with upd.load := some { l with sent := true, ran := false } }.wr Reg.GLB_STATUS_FIELD 1).sendImg (h.streamFrom l.slot 0)) ∧
     (h.upd.load = some l → l.sent = true → v.toNat = h.imageVersion l.slot → let u := h.fieldHealthy v.toNat
       u.rd Reg.GLB_STATUS_FIELD = 2 ∧ u.rd Reg.FWU_VERF_VERSION = v.toNat ∧ u.upd.load = none ∧ (h.updatesF = true → u.rd Reg.FWU_EVT_CONFIRMED = 1 ∧ u.rd Reg.FWU_STAT_STATE = 0)) ∧
     (h.upd.load = some l → v.toNat ≠ h.imageVersion l.slot →
       h.fieldHealthy v.toNat = ({ h.wr Reg.FWU_VERF_VERSION v.toNat with upd.load := some { l with sent := false, ran := false } }.wr Reg.GLB_STATUS_FIELD 1).sendImg
         [imgData 0 1 []]) ∧
     (h.leads = true → h.numbered = true → exec .motionBroadcast s = .next (afterHost s
       (told (h.sendRequest 127 0 (requestPayload 2 0xFF 4 0xC0030 0 0 (leBytes 4 ring))) ring))) ∧
     (h.leads = false → lead = 0x7F → exec .motionBroadcast s = .next (afterHost s (told h ring))) ∧
     (h.leads = false → lead ≠ 0x7F → exec .motionTimeout s = .next (afterHost s (told h 1))) ∧
     (h.leads = true → lead ≠ 0x7F → exec .motionTimeout s = .next (afterHost s h)) ∧
     (hub.val = h.rd Reg.FWU_OWNER_HUB → exec (.ownerWrite (some hub) v) s = .next (afterHost s
       (((h.wr Reg.FWU_OWNER_LOCK (v.toNat % 2)).wr Reg.FWU_OWNER_HUB (fieldOf v.toNat 8 7)).wr Reg.FWU_STAT_OWNER_LOCK (v.toNat % 2)))) ∧
     (hub.val ≠ h.rd Reg.FWU_OWNER_HUB → exec (.ownerWrite (some hub) v) s = .next (afterHost s (h.wr Reg.FWU_EVT_REFUSED 1))) ∧
     (h.upd.saveDue = true → exec .holdupNRise s = .next (afterHost s { risen with upd.saveDue := false }.saveAge)) ∧
     (h.upd.saveDue = false → exec .holdupNRise s = .next (afterHost s risen)))

/-- Ageing (R15, R370, R421 to R425, R429): hours and readings are shown, counted and checked, a monitor that reads nothing keeping what it shows, and the field die's remap counts are read
across the barrier; thermal cycles of the feeds, read across the barrier, add up, and count from 0 after a lower reading; a save waits while HOLDUP_N is low; a history of 16 points is
thinned, every second point after the oldest being dropped, before it grows; and the estimate. Logs 42, 57 and 63 name what the model chose. -/
def Obligations.Ageing : Prop :=
  ∀ (s : State) (ts : List (BitVec 16)) (rs : List (Fin 30 × BitVec 16)) (v : Word) (holdupLow : Bool) (m : Nat), s.h.boot.inReset = false →
    let h := s.h
    let pins := h.fwuPins h.upd.motLow (holdupLow || h.on Reg.FWU_STAT_HOLDUP_LOW)
    let sensed := fun (i : Nat) => (rs.find? fun (r : Fin 30 × BitVec 16) => r.1.val == i).map fun r => r.2.toNat
    let read := (upto 30).foldl (fun (g : HDie) i => g.readMonitor i (sensed i)) (h.hours ts)
    let asked := fun (g : HDie) => (upto 49).foldl (fun (x : State) k => accept (ownRead 7 (64 + k) (0x91004 + 0x40 * (64 + k)) x.h) x) (s.withH g)
    let shows := fun (raw wear : Nat) =>
      ((h.wr (Reg.AGE_MVAL_RAW m) (min 0xFFFF raw)).wr (Reg.AGE_MVAL_WEAR m) (min 0xFFFF wear)).warnCheck m
    let total := fun (i x : Nat) =>
      let was := h.age.ftc.getD i 0
      { h.wr (Reg.AGE_FTCYC_COUNT i) (min (2 ^ 32 - 1) (h.rd (Reg.AGE_FTCYC_COUNT i) + (if x < was then x else x - was))) with age.ftc := h.age.ftc.set i x }
    let old := h.rd Reg.AGE_POH_HOURS / 24
    let points := h.hist m
    let point := (h.ageMonths, h.rd (Reg.AGE_MVAL_WEAR m))
    let es := (upto 30).map fun i => (i, h.estimate i)
    let shown := es.foldl (fun (g : HDie) x => (g.wr (Reg.AGE_MEST_MONTHS x.1) x.2.1).wr (Reg.AGE_MEST_BAND x.1) x.2.2.1) h
    (old < read.rd Reg.AGE_POH_HOURS / 24 → exec (.monitorReading ts rs) s = .next (afterSplit s (asked read.dailySample))) ∧
    (read.rd Reg.AGE_POH_HOURS / 24 ≤ old → exec (.monitorReading ts rs) s = .next (afterSplit s (asked read))) ∧
    (m = 22 → let x := h.rd Reg.AGE_FLERASE_COUNT
      h.readMonitor m none = shows x (wearOf x (h.rd Reg.AGE_FLCFG_LIMIT))) ∧
    (24 ≤ m → m ≤ 27 → let x := h.rd (Reg.AGE_FTCYC_COUNT (m - 24))
      h.readMonitor m none = shows x (wearOf x (h.rd (Reg.AGE_FEEDLIM_LIMIT (m - 24))))) ∧
    (m < 18 ∨ m = 20 ∨ m = 21 ∨ ((m = 28 ∨ m = 29) ∧ h.rd Reg.BAR_STAT_UP ≠ 0) → h.readMonitor m (some v.toNat) = shows v.toNat (sensedWear m v.toNat) ∧
      h.readMonitor m none = h) ∧
    (m = 28 ∨ m = 29 → h.rd Reg.BAR_STAT_UP = 0 → h.readMonitor m (some v.toNat) = h) ∧
    (∀ (a : FieldAcc) (bs : List Byte) (st : Nat), a.who = 7 → st ≠ 0 →
      h.endAcc a 0 bs = { h with age.remaps := aput h.age.remaps a.ref (leNat (slice bs 0 4) % 16) }.readMonitor 23 none ∧ h.endAcc a st bs = h) ∧
    exec .cycleTotalUpdate s = .next (afterSplit s ((upto 4).foldl (fun (x : State) i => accept (ownRead 6 i (0x880054 + 0x1000 * i) x.h) x) s)) ∧
    (∀ (a : FieldAcc) (bs : List Byte) (st : Nat), a.who = 6 → st ≠ 0 → h.endAcc a 0 bs = total a.ref (leNat (slice bs 0 4)) ∧ h.endAcc a st bs = h) ∧
    exec (.ageingRecordSave holdupLow) s = .next (afterHost s pins.saveAge) ∧
    (bitOf v.toNat 0 = true → exec (.ageSaveCommand v holdupLow) s = .next (afterHost s pins.saveAge)) ∧
    (bitOf v.toNat 0 = false → exec (.ageSaveCommand v holdupLow) s = .next (afterHost s h)) ∧
    (pins.rd Reg.FWU_STAT_HOLDUP_LOW ≠ 0 → pins.saveAge = { pins with upd.saveDue := true }) ∧
    (∃ g, exec .historyPoint s = .next (afterHost s g) ∧ g = { h with age.hist := g.age.hist } ∧
      (m < 30 → points.length < 16 → g.hist m = points ++ [point]) ∧
      (m < 30 → points.length = 16 → (g.hist m).length = 9 ∧ (∀ j < 8, (g.hist m)[j]? = points[2 * j]?) ∧ (g.hist m)[8]? = some point)) ∧
    exec .lifeEstimate s = .next (afterSplit s (s.withH
      ((((shown.groupEstimate es 0).groupEstimate es 1).lifAsk 0).lifAsk 1)))

/-! ### Power, booting, the link and joining (chapter 20) -/

/-- Booting and the barrier link (R17, R21, R245, R405, R406, R432, R435 to R437, R441): a release samples the straps and shows the cause; the boot ROM reads its record and starts, tries the
other slot, or fails; READY is a bit; the field die that has power comes to its ROM with the registers at their reset values and a WAKE to send; the link comes up with fresh credits and a
cleared cycle; each end that hears no valid block declares its loss for itself and loses what was on its way to it, the host end counting it unless the field die sleeps. Logs 51 and 61
name what the model chose.
Joining (R38, R145, R213, R442 to R446): a number is asked for only without a strap, a claim or a number; a CLAIM is sent three times; 4 ms without an objection number the hub; a numbered
hub objects to a claim for its number, and a claim loses to a lower UID or to an objection that names it; a JOINED makes its number a member and frees the records of another UID's, and at the hub's
own number tells of a duplicate; each join frame acts once; and the numbered hub repeats its JOINED. GLB_HUBREQ holds what was written last, and one
written during a claim acts when that fails (the model's choice, log 184, as are logs 46, 47, 68 and 69). -/
def Obligations.BootLinkAndJoining : Prop :=
  (∀ (s : State) (high : Option Bool) (hEnd fEnd : Bool) (hubId : Option (Fin 128)) (v : Word) (lat : BitVec 16),
     let h := s.h
     let f := s.f
     let role := high.getD false
     let strap := (hubId.map fun x => x.val).getD 0x7F
     let h1 := { h with boot.inReset := false, boot.roleHigh := role, boot.hubId := strap }
     let h2 := ((h1.wr Reg.GLB_RSTCAUSE_CAUSE (2 ^ h.boot.cause)).wr Reg.GLB_STATUS_ROLE (b2n (!role || h1.variant == 2))).wr Reg.GLB_HUBNUM_STRAP strap
     let badStrap := hubId = none ∨ (120 ≤ strap ∧ strap ≤ 126)
     let rom := if h.rd Reg.GLB_STATUS_BOOT = 0 then h.romReads else h
     let done := rom.finishRec
     let k := done.bootRec.actM
     let up := { ((h.wr Reg.BAR_STAT_UP 1).wr Reg.BAR_STAT_CH_LOCK 0xFF).wr Reg.BAR_EVT_UP 1 with
       brg.bar := BarEnd.start, brg.imgIn := [], brg.strIn := [], flt.outs := h.flt.outs.filter fun x => x.1 != 15 }.copyCycle
     let quiet := ((h.wr Reg.BAR_STAT_UP 0).wr Reg.BAR_STAT_CH_LOCK 0).barrierGone
     let lost := fun (u : HDie) => { s with
       h := u, f := if fEnd then f.linkLost else f, link := { toF := if fEnd then [] else s.link.toF, toH := if hEnd then [] else s.link.toH } }
     (h.boot.inReset = true → ¬badStrap →
       exec (.chipResetRelease high hubId) s = .next (afterSplit s (s.withH h2.romReads.showBuf))) ∧
     (h.boot.inReset = true → badStrap →
       exec (.chipResetRelease high hubId) s = .next (afterSplit s (s.withH (h2.wr Reg.GLB_EVT_BAD_STRAP 1).romReads.showBuf))) ∧
     (h.boot.inReset = false → exec (.chipResetRelease high hubId) s = .next (afterSplit s s)) ∧
     (h.boot.inReset = false → rom.rd Reg.GLB_STATUS_BOOT ≠ 1 → exec .bootImageLoaded s = .next (afterSplit s (s.withH rom))) ∧
     (h.boot.inReset = false → rom.rd Reg.GLB_STATUS_BOOT = 1 → done.boot.tryOther = false →
       exec .bootImageLoaded s = .next (afterSplit s (s.withH (match done.bootBad k with
         | none => done.startCore k
         | some c => { (done.imageFault c k).wr Reg.FWU_EVT_FALLBACK 1 with boot.tryOther := true })))) ∧
     (h.boot.inReset = false → rom.rd Reg.GLB_STATUS_BOOT = 1 → done.boot.tryOther = true → ∀ c, done.bootBad (1 - k) = some c →
       exec .bootImageLoaded s = .next (afterSplit s (s.withH ((done.imageFault c (1 - k)).wr Reg.GLB_STATUS_BOOT 3)))) ∧
     (h.boot.inReset = false → exec (.readyWrite v) s = .next (afterHost s
       { h.wr Reg.GLB_CTL_READY (v.toNat % 2) with boot.ready := h.boot.ready || v.toNat % 2 == 1 })) ∧
     (f.stage = 4 → ∃ u, exec .fieldPowerOn s = .next (s.withF u) ∧ u.stage = 3 ∧ u.linkUp = false ∧ u.variant = f.variant ∧ u.plan = none ∧ u.fifos = [] ∧
       u.engs = [] ∧ u.cans = [] ∧ u.elems = [] ∧ u.feeds = [] ∧ u.held = [] ∧ u.waits = [] ∧ u.asks = [] ∧ u.high = [] ∧ u.outs = f.outs ∧ u.fvio = f.fvio ∧
       u.wakeHeld = [mkMsg 2 0 [4, 0, 1]] ∧
       (∀ r : Fld, variantKey r.key = false → (∀ b < 8, r.key ≠ (Reg.FIO_BSTAT_PRESENT b).key ∧ r.key ≠ (Reg.FIO_BSTAT_MISMATCH b).key) → u.rd r = r.reset)) ∧
     (f.stage ≠ 4 → exec .fieldPowerOn s = .next s) ∧
     (h.boot.inReset = false → h.rd Reg.BAR_STAT_UP = 0 → f.canTrain = true → exec (.barrierLinkUp lat) s = .next (afterSplit s
       { s with
           h := up, link := { toF := [], toH := [] }
           f := { (f.linkLost.wr Reg.MEM_CFG_SCRUB_MS (up.rd Reg.MEM_CFG_SCRUB_MS)).wr Reg.MEM_CFG_CE_WIN_MS (up.rd Reg.MEM_CFG_CE_WIN_MS) with
             plan := up.fieldPlan }.linkUpF lat.toNat })) ∧
     (let u := f.linkUpF lat.toNat
      u.rd Reg.FTM_LAT_LAT = lat.toNat ∧ u.linkUp = true ∧ u.waits = [] ∧ u.wakeHeld = [] ∧ (f.stage = 0 → u.stage = 0) ∧ (f.stage ≠ 0 → u.stage = 3 ∧ u.rom = [] ∧ u.romSeq = 0)) ∧
     (quiet.brg.accs = [] ∧ quiet.brg.bar = BarEnd.clear ∧ quiet.brg.imgIn = [] ∧ quiet.brg.strIn = []) ∧
     (f.linkUp = true → let u := f.linkLost
      u.linkUp = false ∧ u.bar = BarEnd.clear ∧ u.waits = [] ∧ u.rom = [] ∧ u.romSeq = 0) ∧
     (h.boot.inReset = false → h.rd Reg.BAR_STAT_UP ≠ 0 ∨ f.canTrain = false → exec (.barrierLinkUp lat) s = .next (afterSplit s s)) ∧
     (hEnd = true → h.boot.inReset = false → h.rd Reg.BAR_STAT_UP ≠ 0 → quiet.rd Reg.BAR_FSTAT_ASLEEP = 0 → exec (.barrierLinkLost hEnd fEnd) s = .next (afterSplit s
       (goOn (lost (((quiet.wr Reg.BAR_EVT_LOST 1).bump Reg.BAR_LOSTCNT_COUNT).outOf 15 0 0x19 0 true))))) ∧
     (hEnd = true → h.boot.inReset = false → h.rd Reg.BAR_STAT_UP ≠ 0 → quiet.rd Reg.BAR_FSTAT_ASLEEP ≠ 0 →
       exec (.barrierLinkLost hEnd fEnd) s = .next (afterSplit s (goOn (lost quiet)))) ∧
     (hEnd = false ∨ h.boot.inReset = true ∨ h.rd Reg.BAR_STAT_UP = 0 → exec (.barrierLinkLost hEnd fEnd) s = .next (afterSplit s (goOn (lost h))))) ∧
  (∀ (s : State) (v : Word) (f : Frame), s.h.boot.inReset = false →
     let h := s.h
     let st := h.rd Reg.GLB_JOIN_STATE
     let n := h.boot.claims
     let asked := h.wr Reg.GLB_HUBREQ_NUM (v.toNat % 128)
     let w := h.wantNum
     let won := ((((h.advance (h.boot.claimAt + ofMs 4)).wr Reg.GLB_HUBNUM_NUM w).wr Reg.GLB_JOIN_STATE 2).wr Reg.GLB_EVT_NUMBERED 1).addMember w
     let t := h.takeInbox f
     let key := (jUid f, jSeq f)
     let fresh := f.payload.length = 20 ∧ jUid f ≠ t.rd Reg.GLB_UID_UID ∧ t.boot.seenJoin.contains key = false
     let g := { t with boot.seenJoin := (key :: t.boot.seenJoin.filter fun e => e.1 == key.1).take 4 ++ t.boot.seenJoin.filter fun e => e.1 != key.1 }
     let c := { g with boot.uids := g.boot.uids.filter fun e => e.2 != jUid f }
     let dupl := fun (u : HDie) => { (u.wr Reg.GLB_JOIN_STATE 3).wr Reg.GLB_EVT_DUP_NUM 1 with boot.claims := 0, boot.reqWaits := false }
     let fails := fun (u : HDie) => if u.boot.reqWaits then (dupl u).claimAsked else dupl u
     let member := (g.addMember (jNum f)).ringUpdate
     let again := (h.advance (h.boot.claimAt + ofMs n)).sendJoin 0x10 w 0
     let ans := fun (u : HDie) => Host.Outcome.next (φ := Fault) (ρ := Refusal) (afterHost s u)
     (h.rd Reg.GLB_HUBNUM_STRAP < 120 ∨ h.hubNum ≠ 0x7F → exec (.hubNumberRequest v) s = ans asked) ∧
     (120 ≤ h.rd Reg.GLB_HUBNUM_STRAP → h.hubNum = 0x7F → st = 1 → exec (.hubNumberRequest v) s = ans { asked with boot.reqWaits := true }) ∧
     (120 ≤ h.rd Reg.GLB_HUBNUM_STRAP → h.hubNum = 0x7F → st = 0 → exec (.hubNumberRequest v) s = ans asked.claimStart) ∧
     (120 ≤ h.rd Reg.GLB_HUBNUM_STRAP → h.hubNum = 0x7F → st = 3 → asked.rd Reg.GLB_HUBREQ_NUM < 120 →
       exec (.hubNumberRequest v) s = ans (asked.wr Reg.GLB_JOIN_STATE 0).claimStart) ∧
     (st = 1 → 1 ≤ n → n ≤ 2 → exec .claimResend s = ans { again with boot.claims := n + 1 }) ∧
     (2 < n → exec .claimResend s = ans h) ∧
     (st = 1 → 1 ≤ n → exec .claimTimeout s = ans ({ won with boot.claims := 0, boot.reqWaits := false }.sendJoin 0x12 w 0).ringUpdate.leadEval.showLaunch) ∧
     (st ≠ 1 → exec .claimTimeout s = ans h) ∧
     (fresh → c.numbered = true → jNum f = c.hubNum → exec (.claimReceived f) s = ans (c.sendJoin 0x11 (jNum f) (jUid f))) ∧
     (fresh → c.numbered = false → c.rd Reg.GLB_JOIN_STATE = 1 → jNum f = c.wantNum → jUid f < c.rd Reg.GLB_UID_UID →
       exec (.claimReceived f) s = ans (fails c)) ∧
     (fresh → c.numbered = false → c.rd Reg.GLB_JOIN_STATE ≠ 1 → exec (.claimReceived f) s = ans c) ∧
     (fresh → g.rd Reg.GLB_JOIN_STATE = 1 → jTuid f = g.rd Reg.GLB_UID_UID → exec (.objectReceived f) s = ans (fails g)) ∧
     (fresh → jTuid f ≠ g.rd Reg.GLB_UID_UID → exec (.objectReceived f) s = ans g) ∧
     (fresh → 120 ≤ jNum f → exec (.joinedReceived f) s = ans g) ∧
     (fresh → jNum f < 120 → jNum f = g.hubNum → jUid f < g.rd Reg.GLB_UID_UID → (g.wr Reg.GLB_EVT_DUP_NUM 1).numbered = true →
       exec (.joinedReceived f) s = ans ((g.wr Reg.GLB_EVT_DUP_NUM 1).wr Reg.GLB_JOIN_STATE 4).leadEval) ∧
     (fresh → jNum f < 120 → jNum f ≠ g.hubNum → ahas member.boot.uids (jNum f) = false → exec (.joinedReceived f) s = ans
       { member.forget (jNum f) with boot.uids := aput member.boot.uids (jNum f) (jUid f),
                                     brg.orders := member.brg.orders.filter fun (o : OrdRec) => o.src != jNum f }.showOrd) ∧
     (¬fresh → exec (.claimReceived f) s = ans t ∧ exec (.objectReceived f) s = ans t ∧ exec (.joinedReceived f) s = ans t) ∧
     (h.hubNum = 0x7F → exec .joinedPeriod s = ans h) ∧
     (h.hubNum ≠ 0x7F → exec .joinedPeriod s = ans (h.sendJoin 0x12 h.hubNum 0)))

/-! ### Accesses that this hub makes (chapters 2 and 8) -/

/-- Register writes (R10, R11, R15, R24, R44, R45, R49, R51, R53, R55, R56): an address that no aligned register has does nothing; a register of the host die is written at once; one that lies
across the barrier is asked for by a request of its own, after the accesses before it, and is unreachable without the field die; a window and a virtual endpoint are written by their fields'
codes, an endpoint out of its kind's range is refused; a register of a unit that the variant lacks reads 0 and ignores writes (R3); a block's lock, once set, stays and keeps every RWL field; a
write leaves every field of another key as it was, and of its own fields writes those that software may write. Logs 139 and 181 name what the model chose.
A block's lock, once set, stays whatever software writes to whatever register, on either die (R55). -/
def Obligations.RegisterWritesAndLocks : Prop :=
  ((∀ (s : State) (a : BitVec 24) (v w : Word) (n : Fin 256) (e : Fin 592) (b : Fin 23) (m access : Nat), s.h.boot.inReset = false →
     let h := s.h
     let x := a.toNat
     let lock := (blocks.map fun y => y.2.2.1).getD b.val 0
     let ans := fun (t : State) => Host.Outcome.next (φ := Fault) (ρ := Refusal) (afterSplit s t)
     let acc : FieldAcc := { acc := 0, who := 0, ref := 0, master := 0x40, op := 2, src := h.self, rnum := 0, raddr := x, len := 4, left := 0, got := [], bad := none }
     let u := { h with brg.nextAcc := h.brg.nextAcc + 1 }
     let part : Part := { at_ := 0, len := 4, place := .field x }
     let sent := u.requestPart h.brg.nextAcc 0x40 true false 0 x part (leBytes 4 v.toNat)
     let job : Job := { from_ := h.self, off := x, data := slice (leBytes 4 v.toNat) 0 4, car := { stream := 0, seq := 0, time := 0 }, acc := acc, parts := some [part] }
     (x % 4 ≠ 0 → exec (.registerWrite a v) s = ans s) ∧
     (x % 4 = 0 → crosses x = false → exec (.registerWrite a v) s = ans (goOn (hostWrite h.self 0x40 x v.toNat (s.withH u)))) ∧
     (x % 4 = 0 → crosses x = true → h.fieldGone = true →
       exec (.registerWrite a v) s = ans (goOn (s.withH (u.hostFault (endKind 3) 1 (3 + h.self * 2 ^ 16))))) ∧
     (x % 4 = 0 → crosses x = true → h.fieldGone = false → h.brg.accs = [] → h.brg.jobs = [] →
       exec (.registerWrite a v) s = ans (s.withH { sent with brg.accs := [{ acc with acc := h.brg.nextAcc, left := 1 }] })) ∧
     (x % 4 = 0 → crosses x = true → h.fieldGone = false → h.brg.accs ≠ [] →
       exec (.registerWrite a v) s = ans (s.withH { h with brg.jobs := h.brg.jobs ++ [job] })) ∧
     (x % 4 = 0 → x < 0xF0000 → lacksReg h.variant x = true →
       exec (.registerWrite a v) s = ans (goOn (s.withH u)) ∧ hostRead m access x s = (0, 0, s)) ∧
     (lacksReg s.f.variant x = true → s.f.regWrite m x v.toNat = (0, s.f) ∧ s.f.regRead m x = (0, 0, s.f)) ∧
     exec (.brgWinWrite n v) s = ans (s.withH ((h.memRun (h.mem.narrow 52 (n.val / 2) (15 * 2 ^ (n.val % 2 * 4)))).plainWrite (0x81000 + 4 * n) v.toNat)) ∧
     (h.vepRefused w.toNat = true → exec (.brgVepWrite e w) s = ans (s.withH (h.wr Reg.BRG_STATUS_VEP_REFUSED 1))) ∧
     (h.vepRefused w.toNat = false → exec (.brgVepWrite e w) s =
       ans (s.withH ((h.memRun (h.mem.narrow 52 (128 + e.val / 2) (15 * 2 ^ (e.val % 2 * 4)))).plainWrite (0x82000 + 4 * e) w.toNat))) ∧
     (b.val < 15 → lacksReg h.variant lock = false → exec (.blockLockSet b) s = ans (s.withH (h.plainWrite lock 1)) ∧ (h.plainWrite lock 1).rd ⟨lock, 0, 1, 0⟩ ≠ 0)) ∧
   (∀ (r : Regs) (hold : List (Nat × Nat)) (a v : Nat) (F : Fld), pairAt a = none → pairAt (a - 4) = none → (∀ f ∈ fieldsAt a, f.1.key ≠ F.key) →
     regGet (plainWrite r hold a v).1 F = regGet r F) ∧
   (∀ (r : Regs) (hold : List (Nat × Nat)) (a v : Nat) (F : Fld), pairAt a = none → pairAt (a - 4) = none → (F, Acc.rwl) ∈ fieldsAt a →
     (∀ f ∈ fieldsAt a, f.1.key = F.key → f = (F, Acc.rwl)) → regGet r (lockAt a) = 1 → regGet (plainWrite r hold a v).1 F = regGet r F)) ∧
  (∀ (r : Regs) (hold : List (Nat × Nat)) (a v : Nat) (b : Fin 23), let lk : Fld := ⟨(blocks.map fun y => y.2.2.1).getD b.val 0, 0, 1, 0⟩
     regGet r lk = 1 → regGet (plainWrite r hold a v).1 lk = 1)

/-- Accesses of the host and of remote descriptors (R36, R46 to R49, R51, R52, R72, R74, R89, R204 to R206, R209, R213, R217): a BAR that the hub does not present, or without PCIe, takes no
access; the MSI-X table is read and written by dwords (its place is the model's choice, log 84); BAR0 takes an aligned 4 or 8 bytes and performs its parts, at once or in its turn at the field
die; BAR4 finds its window's entry, which must be readable and allow it; a read waits while 32 BAR4 reads are outstanding, and one without an enabled byte completes in its turn; a request goes
to this hub itself, onto the ring, or ends at once where no path leads; and a posted write is complete once it has left, or its origin reports it: a descriptor's by its completion, one of BAR4
or of the core by a PWE fault, a PWE event and a count (log 138). -/
def Obligations.HubAccesses : Prop :=
  ∀ (s : State) (wr ok : Bool) (a : BitVec 24) (o : BitVec 30) (len : Nat) (data : List Byte) (q : Fin 64) (st : Started) (read : Option (List Byte))
    (c : CoreAcc) (be : List Bool), s.h.boot.inReset = false →
    let h := s.h
    let ans := fun (t : State) => Host.Outcome.next (φ := Fault) (ρ := Refusal) (afterSplit s t)
    let x := a.toNat
    let acc : FieldAcc := { acc := 0, who := 0, ref := 0, master := 0x40, op := if wr then 2 else 1, src := h.self, rnum := 0, raddr := x, len := len,
                            left := 0, got := [], bad := none }
    let parts := regParts h.fieldGone 0 (2 ^ 24) x len
    let job : Job := { from_ := h.self, off := x, data := slice data 0 len, car := { stream := 0, seq := 0, time := 0 }, acc := acc, parts := some parts }
    let far := parts.any fun p => match p.place with | .field _ | .window _ _ => true | _ => false
    let near := (h.bump Reg.BRG_NEARERR_COUNT).hostFault 7 (b2n wr) 0
    let host := h.hostAttached = true ∧ h.pcieUp = true
    let n := fieldOf o.toNat 22 8
    let four := o.toNat % 256 ≤ 252
    let all4 := [true, true, true, true]
    let rw_ := h.readWords 0x40 2 52 (n / 2) 1
    let ww := h.readWords 0x40 3 52 (n / 2) 1
    let g := rw_.1
    let u := ww.1
    let raddr := g.winAddr o.toNat
    let dLen := st.desc.d1.fld 0 9
    let dAddr := dRaddr st.desc
    let np : NpReq := { ser := st.ser, kind := 0, q := q, master := q, hub := 0, rnum := 0, op := 1, raddr := dAddr, data := [], len := dLen, sent := 0,
                        resends := 0, phase := 3, swap := false, ur := false }
    let begun := s.withH (h.begin_ q st.ser)
    let started := fun (d : List Byte) => startPw st.ser q dAddr d begun
    let bad := dLen = 0 ∨ 256 < dLen ∨ (dInline st.desc = true ∧ 8 < dLen)
    (h.hostAttached = false ∨ h.pcieUp = false → exec (.bar0Access false wr a len data) s = ans s ∧ exec (.bar4Access wr o be data) s = ans s) ∧
    (host → h.npFull = true → exec (.bar0Access false false a len data) s = ans s ∧ exec (.bar4Access false o be data) s = ans s) ∧
    (host → x % 4 = 0 → exec (.bar0Access true true a len data) s =
      .next (afterHost s ((upto (len / 4)).foldl (fun g i => g.msixWrite (x + 4 * i) (leNat (slice data (4 * i) 4))) h))) ∧
    (host → x % 4 = 0 → exec (.bar0Access true false a len data) s =
      .next (afterHost s (h.hostRead { bar := 9, addr := x, data := (upto (len / 4)).flatMap fun i => leBytes 4 (h.msixRead (x + 4 * i)), ur := false }))) ∧
    (host → wr = true ∨ h.npFull = false → len = 4 ∨ len = 8 → x % len = 0 → far = false →
      exec (.bar0Access false wr a len data) s = ans (goOn (performParts h.self (slice data 0 len) acc parts s))) ∧
    (host → wr = true ∨ h.npFull = false → len = 4 ∨ len = 8 → x % len = 0 → far = true →
      exec (.bar0Access false wr a len data) s = ans (goOn (s.withH { h with brg.jobs := h.brg.jobs ++ [job] }))) ∧
    (host → wr = true ∨ h.npFull = false → (len ≠ 4 ∧ len ≠ 8) ∨ x % len ≠ 0 → exec (.bar0Access false wr a len data) s =
      ans (s.withH (if wr then near else near.hostRead { bar := 0, addr := x, data := [], ur := true }))) ∧
    (host → h.npFull = false → four → rw_.2 = false → g.rd (Reg.BRG_WIN_SWAP n) = 0 → g.winAllows n false = false →
      exec (.bar4Access false o all4 data) s = ans (s.withH
        (((g.freshSer.2.hostFault 1 2 0).keepNp (bar4Np g.freshSer.1 1 raddr 4 [] false)).bar4Done g.freshSer.1 (allOnes 4) false))) ∧
    (host → h.npFull = false → four → rw_.2 = true → g.rd (Reg.BRG_WIN_SWAP n) = 0 →
      exec (.bar4Access false o all4 data) s = ans (s.withH (((g.freshSer.2.hostFault (endKind 7) 2 (7 + g.self * 2 ^ 16)).keepNp
        (bar4Np g.freshSer.1 1 raddr 4 [] false)).bar4Done g.freshSer.1 (allOnes 4) false))) ∧
    (host → h.npFull = false → four → rw_.2 = false → g.rd (Reg.BRG_WIN_SWAP n) = 0 → g.winAllows n false = true →
      exec (.bar4Access false o all4 data) s = ans (startNp (bar4Np g.freshSer.1 1 raddr 4 [] false) (s.withH g.freshSer.2))) ∧
    (host → h.npFull = false → (be.all fun b => !b) = true →
      exec (.bar4Access false o be data) s = ans (s.withH ((h.freshSer.2.keepNp (bar4Np h.freshSer.1 1 raddr 0 [] false)).bar4Done h.freshSer.1 [] false))) ∧
    (host → four → ww.2 = false → u.rd (Reg.BRG_WIN_SWAP n) = 0 → u.winAllows n true = true → u.rd (Reg.BRG_WIN_WACK n) = 0 → u.pwFull = false →
      exec (.bar4Access true o all4 data) s = ans (startPw u.freshSer.1 0x40 (u.winAddr o.toNat) (slice data 0 4) (s.withH u.freshSer.2)).2) ∧
    (host → four → ww.2 = false → u.rd (Reg.BRG_WIN_SWAP n) = 0 → u.winAllows n true = false → u.rd (Reg.BRG_WIN_WACK n) = 0 →
      exec (.bar4Access true o all4 data) s = ans (s.withH (u.freshSer.2.pwRefused 0x40 (u.winAddr o.toNat) 16))) ∧
    (∀ m ra e, m < 64 → h.pwRefused m ra e = h.bridgeFault 8 m (accessCode 0 2 false) ra (endRing e) (raHub ra) 0 h.tb.now) ∧
    (∀ m ra e, 64 ≤ m → h.hostAttached = true → h.pwRefused m ra e =
      ((h.bridgeFault 8 m (accessCode (if m = 0x40 then 1 else 0) 2 false) ra (endRing e) (raHub ra) 0 h.tb.now).post
        { kind := 3, func := 0, ha := false, origin := m, count := 1, cookie := 0, time := h.tb.now, detail0 := ra, detail1 := m + endStatus e * 256 }).bump
        Reg.BRG_PWFAIL_COUNT) ∧
    (h.current q 3 = none → exec (.remoteRead (.inl q) ok) s = ans s) ∧
    (h.current q 3 = some st → bad → exec (.remoteRead (.inl q) ok) s = ans (s.withH (h.finish q st.ser 2 0))) ∧
    (h.current q 3 = some st → ¬bad → exec (.remoteRead (.inl q) ok) s = ans (startNp np (s.withH ((h.begin_ q st.ser).setDma q st.ser ok)))) ∧
    (h.current q 2 = some st → ¬bad → dInline st.desc = false → exec (.remoteWrite (.inl q) none) s = ans (s.withH (h.finish q st.ser 3 0))) ∧
    (h.current q 2 = some st → ¬bad → h.pwFull = true → remoteData st.desc read ≠ none → exec (.remoteWrite (.inl q) read) s = ans s) ∧
    (h.current q 2 = some st → ¬bad → h.pwFull = false → ∀ d e, remoteData st.desc read = some d → (started d).1 = some e → (started d).2.h.boot.inReset = false →
      exec (.remoteWrite (.inl q) read) s = ans ((started d).2.withH ((started d).2.h.finish q st.ser (endStatus e) 0))) ∧
    (h.current q 2 = some st → ¬bad → h.pwFull = false → ∀ d, remoteData st.desc read = some d → (started d).1 = none →
      exec (.remoteWrite (.inl q) read) s = ans (started d).2) ∧
    (h.current q 4 = some st → ¬bad → h.goes (raHub dAddr) true ≠ .broadcast → ∀ d, remoteData st.desc read = some d →
      exec (.remoteWriteAck (.inl q) read) s = ans (startNp { np with op := 3, data := d } begun)) ∧
    (h.coreRuns = false → exec (.remoteRead (.inr c) ok) s = ans s) ∧
    (∀ r : NpReq, h.goes (raHub r.raddr) (r.op != 1) = .unreachable → startNp r s =
      s.withH ((h.noPath.keepNp { r with hub := raHub r.raddr, rnum := 0, sent := h.tb.now, resends := 0, phase := 3 }).endNp
        { r with hub := raHub r.raddr, rnum := 0, sent := h.tb.now, resends := 0, phase := 3 } 3 [])) ∧
    (∀ r : NpReq, h.goes (raHub r.raddr) (r.op != 1) = .local_ → startNp r s = performOwn 2 r.ser r.master r.op r.raddr r.len r.data
      (s.withH (h.keepNp { r with hub := raHub r.raddr, rnum := 0, sent := h.tb.now, resends := 0, phase := 3 }))) ∧
    (∀ ser m ra d, h.goes (raHub ra) true = .unreachable → startPw ser m ra d s = (some 3, s.withH (h.noPath.pwRefused m ra 3))) ∧
    (∀ ser m ra d, h.goes (raHub ra) true = .refused → startPw ser m ra d s = (some 16, s.withH (h.pwRefused m ra 16))) ∧
    (∀ ser m ra d, h.goes (raHub ra) true = .local_ → startPw ser m ra d s =
      (some 0, performOwn 3 ser m 2 ra d.length d (s.withH (h.keepPw ser m 128 ra d)))) ∧
    (∀ ser m ra d, h.goes (raHub ra) true = .ring → startPw ser m ra d s =
      (none, s.withH ((h.sendPw ser ser m ra d false).1.departing m ser (h.sendPw ser ser m ra d false).2))) ∧
    (∀ hub, h.self ≠ hub → hub < 120 → h.canSend = false → h.goes hub true = .unreachable) ∧
    (h.self < 120 → h.goes 127 true = .broadcast ∧ h.goes 127 false = .refused)

/-- Requests at their target (R24, R30, R147, R213, R215, R216): a frame that is not laid out as R211 has it is dropped, and an unnumbered hub answers
as a non-existent endpoint; in Rest it waits and ends Rest; with no record free it is
retried; a number below the expected one, or one already held, is a duplicate; one ahead by up to 32 is held, and further ahead retried; a broadcast write is performed once; an aged record is
freed; and a request across the barrier is performed and answered, or answered with BACKOFF, one that asks for SLEEP being answered first. Log 133 names what the model chose. -/
def Obligations.RequestsAtTarget : Prop :=
  ∀ (s : State) (f : Frame) (src : Fin 128) (master : Fin 256) (r : OrdRec) (m : BarMsg), s.h.boot.inReset = false →
    let h := s.h
    let b := h.inboxOf f
    let t := h.takeInbox f
    let from_ := hSrc f.hdr
    let who := pMaster f
    let rnum := qRnum f
    let own := hDst f.hdr ≠ 127
    let ready := h.numbered = true ∧ reqFormed f = true ∧ h.rd Reg.PWM_REST_STATE < 2
    let d := (rnum + 65536 - r.next) % 65536
    let set := t.setOrder r
    let fresh := d < 32768 ∧ r.held.any (fun x => qRnum x.frame == rnum) = false ∧ t.slotTaken from_ = false ∧ r.retry = none
    let ans := fun (u : HDie) => Host.Outcome.next (φ := Fault) (ρ := Refusal) (afterSplit s (s.withH u))
    let aged := h.advance (r.last + ofMs 100)
    let took := hostTook 0x30 m (s.withF (s.f.keepReq m))
    let took1 := hostTook 0x31 m (s.withF (s.f.keepReq m))
    let back := fun (u : State) => u.withH (((u.h.toField (rspMsg (mTag m) 9 [])).bump Reg.BAR_BACKOFF_COUNT).wr Reg.BAR_EVT_BACKOFF 1)
    (reqFormed f = false ∨ (h.numbered = false ∧ ¬own) → exec (.requestReceived f) s = ans t ∧ (¬own → exec (.broadcastWriteReceived f) s = ans t)) ∧
    (reqFormed f = true → h.numbered = false → own → exec (.requestReceived f) s = ans (t.respond from_ (pOp f) who 2 rnum [])) ∧
    (h.numbered = true → reqFormed f = true → 2 ≤ h.rd Reg.PWM_REST_STATE → exec (.requestReceived f) s = ans
      { t.restTrigger with sw.inbox := t.sw.inbox ++ [b] }) ∧
    (ready → own → t.orderFor from_ who rnum = none → exec (.requestReceived f) s = ans (t.answerRetry f)) ∧
    (ready → own → t.orderFor from_ who rnum = some r → 32768 ≤ d → exec (.requestReceived f) s = ans (set.bump Reg.BRG_DUPREQ_COUNT)) ∧
    (ready → own → t.orderFor from_ who rnum = some r → fresh → 32 < d →
      exec (.requestReceived f) s = ans ((set.setOrder { r with retry := none }).answerRetry f)) ∧
    (ready → own → t.orderFor from_ who rnum = some r → fresh → 0 < d → d ≤ 32 →
      exec (.requestReceived f) s = ans (set.setOrder { r with retry := none, held := r.held ++ [b] })) ∧
    (ready → own → t.orderFor from_ who rnum = some r → fresh → d = 0 → exec (.requestReceived f) s =
      .next (afterSplit s (performOrdered (r.held.length + 1) b (s.withH (set.setOrder { r with retry := none }))))) ∧
    (ready → ¬own → pOp f = 2 → (t.firstCopy b).1 = true → exec (.broadcastWriteReceived f) s =
      .next (afterSplit s (performReq 4 b (s.withH ((t.firstCopy b).2.bump Reg.BRG_BCAST_COUNT))))) ∧
    (own → exec (.broadcastWriteReceived f) s = ans h) ∧
    (h.order src master = some r → r.held = [] → exec (.orderRecordAged src master) s = ans
      ({ aged with brg.orders := aged.brg.orders.filter fun (x : OrdRec) => !(x.src == src.val && x.master == master.val) }.showOrd)) ∧
    (h.order src master = some r → r.held ≠ [] → exec (.orderRecordAged src master) s = ans h) ∧
    (h.rd Reg.BAR_STAT_UP ≠ 0 → s.f.linkUp = true → msgBad false 0x30 m = false → took.h.backsOff = true →
      exec (.reqRd false m) s = .next (afterSplit s (goOn (back took)))) ∧
    (h.rd Reg.BAR_STAT_UP ≠ 0 → s.f.linkUp = true → msgBad false 0x31 m = false → took1.h.backsOff = true →
      exec (.reqWr false m) s = .next (afterSplit s (goOn (back took1)))) ∧
    (h.rd Reg.BAR_STAT_UP ≠ 0 → s.f.linkUp = true → msgBad false 0x30 m = false → took.h.backsOff = false →
      let q := fieldReads m took
      exec (.reqRd false m) s = .next (afterSplit s (goOn (q.2.2.withH (q.2.2.h.toField (rspMsg (mTag m) q.1 (if q.1 = 0 then q.2.1 else []))))))) ∧
    (h.rd Reg.BAR_STAT_UP ≠ 0 → s.f.linkUp = true → msgBad false 0x31 m = false → took1.h.backsOff = false →
      let q := fieldWrites m took1
      q.2.h.boot.inReset = false → exec (.reqWr false m) s = .next (afterSplit s (goOn (q.2.withH (q.2.h.toField (rspMsg (mTag m) q.1 [])))))) ∧
    (s.f.linkUp = true → msgBad true 0x30 m = false → exec (.reqRd true m) s =
      .next (afterBoth s (fieldAct (fun (g : FDie) => g.serveReq false m) (fieldTook 0x30 m s.tellPlan)))) ∧
    (s.f.linkUp = true → msgBad true 0x31 m = false →
      let x := fieldTook 0x31 m s.tellPlan
      let y := fieldAct (fun (g : FDie) => g.serveReq true m) x
      let due := reqWin m = false ∧ x.f.sleepDue (reqOff m) (leNat (slice (reqData m) 0 4)) = true
      (due → exec (.reqWr true m) s = .next (afterBoth s (goToSleep y))) ∧ (¬due → exec (.reqWr true m) s = .next (afterBoth s y))) ∧
    (∀ g : FDie, let x := g.toRun.reqWrite m
      g.serveReq true m = { x.2 with bar.tx := x.2.bar.tx ++ [rspMsg (mTag m) x.1 []] })

/-- Responses at the origin (R212 to R215, R218 to R220, R225, R226): a response ends the request that it names, and is counted as late where there is none; a RETRY has the later requests wait too; a
deadline ends what has no answer; an error report fails its posted write, once, and a posted write that is not settled in time fails with TIMEOUT; an ACK's entries settle writes; ACKs are sent to every source; and a barrier part that has no answer ends with
TIMEOUT, and the field die sends again what was backed off. A deadline comes at its instant, to which the clock goes on (log 132); log 117 names what the model chose of failed posted writes. -/
def Obligations.ResponsesAtOrigin : Prop :=
  ∀ (s : State) (f : Frame) (hub : Fin 128) (master : Fin 256) (rnum : BitVec 16) (r : NpReq) (w : PostedW) (bw : BarWait) (fw : FWait) (tag : Fin 4096) (k : Nat),
    s.h.boot.inReset = false →
    let h := s.h
    let t := h.takeInbox f
    let op := pOp f
    let st := pStatus f
    let ans := fun (u : HDie) => Host.Outcome.next (φ := Fault) (ρ := Refusal) (afterSplit s (s.withH u))
    let mine := t.findNp (hSrc f.hdr) (pMaster f) (pRnum f)
    let pw := t.findPw (hSrc f.hdr) (pMaster f) (pRnum f)
    let late := t.bump Reg.BRG_LATERSP_COUNT
    let told := t.brg.reports.any fun x => x.hub == hSrc f.hdr && x.master == pMaster f && x.rnum == pRnum f
    let reported := { t with brg.reports := t.brg.reports ++ [({ hub := hSrc f.hdr, master := pMaster f, rnum := pRnum f } : PwReport)] }
    let due := (h.advance (w.time + ofUs (max 1 (h.rd Reg.BRG_RCFG_PW_US)))).bump Reg.BRG_TMO_COUNT
    let entries := (t.firstCopy (h.inboxOf f)).2
    (st ≠ 1 → op ≠ 2 → mine = none → exec (.responseReceived f) s = ans late) ∧
    (st ≠ 1 → op ≠ 2 → mine = some r → r.phase = 0 → r.op = op → exec (.responseReceived f) s = ans (t.endNp r st (pData f))) ∧
    (st ≠ 1 → op ≠ 2 → mine = some r → r.phase ≠ 0 → exec (.responseReceived f) s = ans late) ∧
    (st = 1 → mine = none → pw = none → exec (.retryReceived f) s = ans late) ∧
    (st = 1 → mine = some r → r.phase = 0 → r.resends < t.retries → exec (.retryReceived f) s = ans
      ((t.bump Reg.BRG_RETRYRX_COUNT).unsend (hSrc f.hdr) (pMaster f) (pRnum f))) ∧
    (st = 1 → mine = some r → r.phase = 0 → t.retries ≤ r.resends →
      let e := (((t.bump Reg.BRG_RETRYRX_COUNT).unsend (hSrc f.hdr) (pMaster f) (pRnum f)).endNp r 1 [])
      exec (.retryReceived f) s = ans (resendAll (hSrc f.hdr) (pMaster f) (e.waiting (hSrc f.hdr) (pMaster f)) e).settlePw) ∧
    (st = 1 → mine = some r → r.phase ≠ 0 →
      exec (.retryReceived f) s = ans ((t.bump Reg.BRG_RETRYRX_COUNT).unsend (hSrc f.hdr) (pMaster f) (pRnum f))) ∧
    (st ≠ 1 → exec (.retryReceived f) s = ans h) ∧
    exec (.retryWaitExpiry hub master) s = ans (resendAll hub master (h.waiting hub master) h).settlePw ∧
    (h.findNp hub master rnum.toNat = some r → exec (.completionDeadline hub master rnum) s = ans
      (((h.advance (r.sent + ofUs (h.deadlineUs r))).bump Reg.BRG_TMO_COUNT).endNp r 17 [])) ∧
    (h.findNp hub master rnum.toNat = none → exec (.completionDeadline hub master rnum) s = ans h) ∧
    (op = 2 → 2 ≤ st → pw = none ∨ told = true → exec (.errorReportReceived f) s = ans late) ∧
    (op = 2 → 2 ≤ st → pw = some w → told = false → exec (.errorReportReceived f) s = ans (reported.failPw w st).settlePw) ∧
    (op ≠ 2 → exec (.errorReportReceived f) s = ans h) ∧
    (h.findPw hub master rnum.toNat = some w → hub.val < 120 → w.fid = none → due.brg.reports.any (fun x => x.hub == hub.val && x.master == master.val && x.rnum == rnum.toNat) = true →
      exec (.postedWriteTimeout hub master rnum) s = ans (due.dropUnasked w).settlePw) ∧
    (h.findPw hub master rnum.toNat = some w → hub.val < 120 → w.fid = none → due.brg.reports.any (fun x => x.hub == hub.val && x.master == master.val && x.rnum == rnum.toNat) = false →
      due.pwAsked w = false → exec (.postedWriteTimeout hub master rnum) s = ans ((due.failPw w 17).dropUnasked w).settlePw) ∧
    (h.findPw hub master rnum.toNat = some w → hub.val < 120 → w.fid = none → due.pwAsked w = true → exec (.postedWriteTimeout hub master rnum) s = ans due.settlePw) ∧
    (h.findPw hub master rnum.toNat = none ∨ 120 ≤ hub.val → exec (.postedWriteTimeout hub master rnum) s = ans h) ∧
    (h.findPw hub master rnum.toNat = some w → w.fid = some k → exec (.postedWriteTimeout hub master rnum) s = ans h) ∧
    ((t.firstCopy (h.inboxOf f)).1 = true → hType f.hdr = 7 → exec (.ackReceived f) s = ans
      ({ entries with brg.ackIn := entries.brg.ackIn ++ ackEntries f }.settlePw)) ∧
    ((t.firstCopy (h.inboxOf f)).1 = false → exec (.ackReceived f) s = ans entries) ∧
    (h.numbered = false → exec .ackPeriod s = ans h) ∧
    (h.numbered = true → exec .ackPeriod s = ans ((keysOf (h.brg.acks.map fun (x : AckDue) => x.src)).foldl (fun (g : HDie) k => g.ackTo k) h)) ∧
    (h.brg.waits.find? (fun x => x.tag == tag.val) = some bw → exec (.barrierResponseTimeout tag) s =
      .next (afterSplit s (goOn (s.withH (({ h with brg.bar := h.brg.bar.answered tag }.bump Reg.BAR_TMO_COUNT).partEnds bw 8 []))))) ∧
    (h.brg.waits.find? (fun x => x.tag == tag.val) = none → exec (.barrierResponseTimeout tag) s = .next (afterSplit s (goOn s))) ∧
    (s.f.waits.find? (fun x => mTag x.msg == tag.val && x.back) = some fw → exec (.backoffResend tag) s = .next (carryF (s.withF
      ({ s.f with waits := s.f.waits.map fun (x : FWait) => if mTag x.msg == tag.val then { x with back := false } else x }.toHost fw.msg)))) ∧
    (s.f.waits.find? (fun x => mTag x.msg == tag.val && x.back) = none → exec (.backoffResend tag) s = .next (carryF s))

/-! ### Rules stated whole -/

/-- At reset every register of both dies reads its reset value, but the status of functions 9 (FWC) and 11 (LIF), which the hardware serves until the core runs (R33,
R401; DEDUCED, log 41); host memory and the barrier hold nothing, no command waits, and every list has its canonical form.
The invariants above hold of the hub at reset, and no function has a request on its way. -/
def Obligations.ResetStateAndInvariants : Prop :=
  (State.reset.pending = [] ∧ State.reset.link = { toF := [], toH := [] } ∧ State.reset.canonical = true ∧ State.reset.h.hostq.hostMem = [] ∧
     (∀ F : Fld, State.reset.f.rd F = F.reset) ∧
     (∀ F : Fld, F.key ∉ [(Reg.SPL_FSTAT_SERVED 9).key, (Reg.SPL_FSTAT_HWSERVE 9).key, (Reg.SPL_FSTAT_SERVED 11).key, (Reg.SPL_FSTAT_HWSERVE 11).key] →
       State.reset.h.rd F = F.reset) ∧
     (∀ f, f = 9 ∨ f = 11 → State.reset.h.rd (Reg.SPL_FSTAT_SERVED f) = 0 ∧ State.reset.h.rd (Reg.SPL_FSTAT_HWSERVE f) = 1)) ∧
  (State.reset.canonical = true ∧ State.reset.h.joinSound ∧ State.reset.unasked)

/-- R48: a BAR0 access to a reserved region reads 0, a write to it is ignored, and neither raises a fault: nothing but the read's completion and the serial of the access
is left behind, and accesses that wait for their turn go on (R24). -/
def Obligations.ReservedRegions : Prop :=
  ∀ (s : State) (a : BitVec 24) (len : Nat) (data : List Byte), s.h.boot.inReset = false → s.h.hostAttached = true → s.h.pcieUp = true → s.h.npFull = false →
    len = 4 ∨ len = 8 → a.toNat % len = 0 → (0xF0000 ≤ a.toNat ∧ a.toNat < 0x800000) ∨ 0x900000 ≤ a.toNat →
    let h := s.h
    let zero : HostRd := { bar := 0, addr := a.toNat, data := List.replicate len 0, ur := false }
    exec (.bar0Access false false a len data) s = .next (afterSplit s
      (goOn (s.withH { h with brg.nextAcc := h.brg.nextAcc + 1, brg.reads := h.brg.reads ++ [zero] }))) ∧
    exec (.bar0Access false true a len data) s = .next (afterSplit s (goOn (s.withH { h with brg.nextAcc := h.brg.nextAcc + 1 })))

/-- R391: what the dependency registers read at reset, and which domains their bits name: the Groom and the field die's domains, the ring bridge, and the update engine. -/
def Obligations.DependenciesAtReset : Prop :=
  let dep := fun (d : Nat) => State.reset.h.rd (Reg.FLT_DEP_DOM d)
  dep 12 = 0x000FFFFFFFFF2000 ∧ dep 2 = 0x100 ∧ dep 3 = 0x100 ∧ dep 9 = 0x400 ∧
    (∀ d, d < 64 → d ≠ 12 → d ≠ 2 → d ≠ 3 → d ≠ 9 → dep d = 0) ∧
    (∀ d, d < 64 → (bitOf (dep 12) d = true ↔ d = 13 ∨ (16 ≤ d ∧ d ≤ 51))) ∧
    (∀ d, d < 64 → (bitOf (dep 2) d = true ↔ d = 8) ∧ (bitOf (dep 9) d = true ↔ d = 10))

/-- R414: FWU_OWNER is written only from hub FWU_OWNER.HUB, a local access counting as the hub's own number and a ring access as its source; any other write to it is
ignored and sets REFUSED. -/
def Obligations.OwnerWrites : Prop :=
  ∀ (s : State) (hub : Option (Fin 128)) (v : Word), s.h.boot.inReset = false →
    let h := s.h
    let from_ : Nat := match hub with
      | some x => x.val
      | none => h.self
    (from_ = h.rd Reg.FWU_OWNER_HUB → exec (.ownerWrite hub v) s = .next (afterHost s
      (((h.wr Reg.FWU_OWNER_LOCK (v.toNat % 2)).wr Reg.FWU_OWNER_HUB (v.toNat / 256 % 128)).wr Reg.FWU_STAT_OWNER_LOCK (v.toNat % 2)))) ∧
    (from_ ≠ h.rd Reg.FWU_OWNER_HUB → exec (.ownerWrite hub v) s = .next (afterHost s (h.wr Reg.FWU_EVT_REFUSED 1)))

/-- R303: a new GET is applied only where it releases no more elements than the queue holds; NEW is cleared in each element released and every other word of the
controller's elements is kept; any other value is ignored. The write ends STANDBY, and a die in SLEEP has none (R321, R322); beside the queue's GET, FILL and FULL
and the elements it changes what their element memory records of the narrow writes (R362), and nothing else. -/
def Obligations.ReleasedElements : Prop :=
  ∀ (s : State) (n : Fin 16) (j : Fin 2) (v : Word), s.f.rd (Reg.CAN_RXQSTAT_GET n j) < 64 → s.f.rd (Reg.CAN_RXQSTAT_FILL n j) ≤ 64 →
    let f := s.f.toRun
    let get := f.rd (Reg.CAN_RXQSTAT_GET n j)
    let fill := f.rd (Reg.CAN_RXQSTAT_FILL n j)
    let d := (v.toNat % 64 + 64 - get) % 64
    let released := fun (i : Nat) => (i + 64 - get) % 64 < d
    let own := [(Reg.CAN_RXQSTAT_GET n j).key, (Reg.CAN_RXQSTAT_FILL n j).key, (Reg.CAN_RXQSTAT_FULL n j).key,
      Reg.FFL_SENT_COUNT.key, Reg.FFL_STAT_HELD.key, Reg.FFL_HOLDDROP_COUNT.key]
    (s.f.power ≤ 1 → f.lacksCan n = false → d ≤ fill → ∃ f', exec (.rxqGetWrite n j v) s = .next (afterField s f') ∧
      f'.rd (Reg.CAN_RXQSTAT_GET n j) = v.toNat % 64 ∧ f'.rd (Reg.CAN_RXQSTAT_FILL n j) = fill - d ∧
      f'.rd (Reg.CAN_RXQSTAT_FULL n j) = b2n (decide (fill - d = 64)) ∧
      (∀ i, i < 64 → released i → f'.elem (rxKey n j i) = (f.elem (rxKey n j i)).set 1 (wordAt (f.elem (rxKey n j i)) 1 % 2 ^ 31)) ∧
      (∀ i, i < 64 → ¬released i → f'.elem (rxKey n j i) = f.elem (rxKey n j i)) ∧
      (∀ k, (∀ i, i < 64 → k ≠ rxKey n j i) → f'.elem k = f.elem k) ∧
      f' = { f with regs := f'.regs, elems := f'.elems, mems := f'.mems, asks := f'.asks, bar := f'.bar, held := f'.held, free := f'.free } ∧
      (∀ F : Fld, F.key ∉ own → F.key < 8 * 0x90000 ∨ 8 * 0xA0000 ≤ F.key → f'.rd F = f.rd F)) ∧
    (s.f.power ≤ 1 → f.lacksCan n = false → fill < d → exec (.rxqGetWrite n j v) s = .next (afterField s f)) ∧
    (s.f.power ≤ 1 → f.lacksCan n = true → exec (.rxqGetWrite n j v) s = .next (afterField s f)) ∧
    (1 < s.f.power → exec (.rxqGetWrite n j v) s = .next (afterField s s.f))

/-- A boot record read from its 64 bytes is the one that was written, with every field at every value that Table 18.2 gives it room for (R405). -/
def Obligations.BootRecordRoundTrip : Prop :=
  ∀ r : BootRec, r.seq < 2 ^ 32 → r.actM < 2 → r.actF < 2 → r.actC < 2 → r.minrb < 2 ^ 32 → r.keyrev < 16 →
    BootRec.parse r.bytes = some r ∧ r.bytes.length = 64

/-! ### What every step keeps -/

/-- Whatever step is taken, host memory as the hub wrote it and the registers of both dies keep their canonical form: keys strictly rising, so that equal contents are
equal data. -/
def Obligations.CanonicalFormsKept : Prop :=
  ∀ s t : State, s.canonical = true → step s = .next t → t.canonical = true

/-- R1: the variant of a hub is fixed: no step, command or tick, reset or not, changes what GLB_IDENT.VARIANT reads, nor which units the field die has. -/
def Obligations.VariantNeverChanges : Prop :=
  ∀ s t : State, step s = .next t → t.h.variant = s.h.variant ∧ t.f.variant = s.f.variant

/-- A hub without a number, or claiming one, shows none; that is kept by every step, and a number, once shown, and GLB's lock, once set, stay until a chip reset (R38, R55, R442). -/
def Obligations.NumberAndLockStay : Prop :=
  ∀ s t : State, s.h.joinSound → step s = .next t → t.h.joinSound ∧
    (s.h.hubNum ≠ 0x7F → t.h.boot.inReset = true ∨ t.h.hubNum = s.h.hubNum) ∧
    (s.h.rd Reg.GLB_LOCK_SET = 1 → t.h.boot.inReset = true ∨ t.h.rd Reg.GLB_LOCK_SET = 1)

/-- The dies share only the barrier link (R14, R15): while no function of the split is in an HA mode, no command of the field die, and nothing that it leads to, changes host memory, the host queues,
the switch core, the ring ports, spurs, the bridge's records, the time base, the fault state, the flash, the hub number or a block lock of the host die; what may change there are counts, what
MEM's common registers tell of the field die's instances, requests of the field die's own functions that the command ends, and the host die's end of the barrier link, which sends what it held. -/
def Obligations.FieldCommandsKeepTheHost : Prop :=
  ∀ (c : Instr) (s t : State), fieldCommand c = true → s.unasked → exec c s = .next t →
    t.unasked ∧ t.pending = s.pending ∧ t.h.hubNum = s.h.hubNum ∧ t.h.variant = s.h.variant ∧
    t.h = { s.h with regs := t.h.regs, hostq.events := t.h.hostq.events, brg.bar := t.h.brg.bar, spl := t.h.spl } ∧
    (∀ b : Fin 15, let lk := (blocks.map fun y => y.2.2.1).getD b.val 0
      t.h.rd ⟨lk, 0, 1, 0⟩ = s.h.rd ⟨lk, 0, 1, 0⟩)

/-- Host memory (R64, R66, R72, R77, R78, R81, R85): the four writers, each with the address that it writes to: an entry of a completion or of the event queue at the queue's base and tail; the data
of a read at its descriptor's address; a receive record in its buffer; and an image with its header in its map's slot; every other byte is left as it was. Where a read or a record does not go to
host memory, its completion alone does. Commands of the host die that complete nothing, post nothing and write no record and no slot leave host memory as it was, as a chip reset does. -/
def Obligations.HostMemoryFrame : Prop :=
  (∀ (h : HDie) (a x : Nat) (bs : List Byte), let u := h.dma a bs
    (x < a ∨ a + bs.length ≤ x → cellGet u.hostq.hostMem x = cellGet h.hostq.hostMem x) ∧
    (∀ i < bs.length, cellGet u.hostq.hostMem (a + i) = bs[i]?) ∧ u = { h with hostq.hostMem := u.hostq.hostMem }) ∧
  (∀ (h : HDie) (q size : Nat) (e : List Byte), let r := cqRegs q
    (h.writeEntry q size e).hostq.hostMem =
      (h.dma (h.rd r.base + size * h.rd r.tail) (leBytes size (leNat e + h.rd r.phase * 2 ^ (8 * size - 1)))).hostq.hostMem) ∧
  (∀ (h : HDie) (q ser : Nat) (e : End) (bs : List Byte) (d : Started), (h.sq q).started.find? (fun x => x.ser == ser) = some d → dInline d.desc = false →
    let len := d.desc.d1.fld 0 9
    (d.dmaOk = true → h.readDone q ser e bs =
      (h.dma (two d.desc.d4 d.desc.d5) (if e = 0 then slice bs 0 len else allOnes len)).finish q ser (endStatus e) 0) ∧
    (d.dmaOk = false → h.readDone q ser e bs = h.finish q ser (if e = 0 then 3 else endStatus e) 0)) ∧
  (∀ (h : HDie) (b : RxBuf) (r : RxRec),
    let cut := r.trunc || decide (b.len < 32 + r.payload.length)
    let g := { h with hostq.bufs := h.hostq.bufs.filter fun x => x.ser != b.ser }
    let res := leNat ((recordHeader r cut).take 8)
    (b.dmaOk = true → h.fillBuffer b r = (g.dma b.haddr (recordHeader r cut ++ r.payload.take (b.len - 32))).finish b.q b.ser (if cut then 0x0C else 0) res) ∧
    (b.dmaOk = false → h.fillBuffer b r = g.finish b.q b.ser 3 res)) ∧
  (∀ (h : HDie) (m : CMap) (n : Nat) (d : List Byte) (stale : Bool), let slot := m.haddr + n % 2 * mapStride m
    (h.writeSlot m n (some d) stale).hostq.hostMem =
      ((h.dma (slot + 64) (slice d m.off m.len)).dma slot (slotHeader n stale false (h.cycleStart n))).hostq.hostMem ∧
    (m.seen = false → (h.writeSlot m n none stale).hostq.hostMem = (h.dma slot (slotHeader n stale true (h.cycleStart n))).hostq.hostMem)) ∧
  (∀ (c : Instr) (s t : State), quietCommand c = true → s.h.spl.peerOut = [] → exec c s = .next t → t.h.hostq.hostMem = s.h.hostq.hostMem ∧ t.pending = s.pending)
end

