-- ==== Sys2Proof/Laws/Dispatch.lean ====
section
/-! SUPPORT. Each arm of exec, as an equation: a command is performed by its meaning. -/
namespace Sys2Proof.Machine

@[simp] theorem exec_barrierLinkLost (s : State) (hEnd : Bool) (fEnd : Bool) : exec (.barrierLinkLost hEnd fEnd) s = execBarrierLinkLost hEnd fEnd s := rfl
@[simp] theorem exec_fieldSafeTimeExpiry (s : State) : exec .fieldSafeTimeExpiry s = execFieldSafeTimeExpiry s := rfl
@[simp] theorem exec_restRequest (s : State) : exec .restRequest s = execRestRequest s := rfl
@[simp] theorem exec_restExitRequest (s : State) : exec .restExitRequest s = execRestExitRequest s := rfl
@[simp] theorem exec_restExitComplete (s : State) : exec .restExitComplete s = execRestExitComplete s := rfl
@[simp] theorem exec_bar0Access (s : State) (msix : Bool) (wr : Bool) (a : BitVec 24) (len : Nat) (data : List Byte) : exec (.bar0Access msix wr a len data) s = execBar0Access msix wr a len data s := rfl
@[simp] theorem exec_bar4Access (s : State) (wr : Bool) (a : BitVec 30) (be : List Bool) (data : List Byte) : exec (.bar4Access wr a be data) s = execBar4Access wr a be data s := rfl
@[simp] theorem exec_sqTailDoorbell (s : State) (r : Bar2) : exec (.sqTailDoorbell r) s = execSqTailDoorbell r s := rfl
@[simp] theorem exec_cqHeadDoorbell (s : State) (r : Bar2) : exec (.cqHeadDoorbell r) s = execCqHeadDoorbell r s := rfl
@[simp] theorem exec_eqHeadDoorbell (s : State) (r : Bar2) : exec (.eqHeadDoorbell r) s = execEqHeadDoorbell r s := rfl
@[simp] theorem exec_brgWinWrite (s : State) (n : Fin 256) (v : Word) : exec (.brgWinWrite n v) s = execBrgWinWrite n v s := rfl
@[simp] theorem exec_brgVepWrite (s : State) (v : Fin 592) (w : Word) : exec (.brgVepWrite v w) s = execBrgVepWrite v w s := rfl
@[simp] theorem exec_blockLockSet (s : State) (b : Fin 23) : exec (.blockLockSet b) s = execBlockLockSet b s := rfl
@[simp] theorem exec_registerWrite (s : State) (a : BitVec 24) (v : Word) : exec (.registerWrite a v) s = execRegisterWrite a v s := rfl
@[simp] theorem exec_queueEnable (s : State) (kind : Fin 3) (q : Fin 64) (v : Word) : exec (.queueEnable kind q v) s = execQueueEnable kind q v s := rfl
@[simp] theorem exec_sqDisable (s : State) (q : Fin 64) : exec (.sqDisable q) s = execSqDisable q s := rfl
@[simp] theorem exec_descriptorFetch (s : State) (q : Fin 64) (ds : List Desc) : exec (.descriptorFetch q ds) s = execDescriptorFetch q ds s := rfl
@[simp] theorem exec_fetchDmaFailure (s : State) (q : Fin 64) : exec (.fetchDmaFailure q) s = execFetchDmaFailure q s := rfl
@[simp] theorem exec_sendFrame (s : State) (q : Fin 64) (read : Option (List Byte)) : exec (.sendFrame q read) s = execSendFrame q read s := rfl
@[simp] theorem exec_remoteWrite (s : State) (from_ : Sum (Fin 64) CoreAcc) (read : Option (List Byte)) : exec (.remoteWrite from_ read) s = execRemoteWrite from_ read s := rfl
@[simp] theorem exec_remoteRead (s : State) (from_ : Sum (Fin 64) CoreAcc) (ok : Bool) : exec (.remoteRead from_ ok) s = execRemoteRead from_ ok s := rfl
@[simp] theorem exec_remoteWriteAck (s : State) (from_ : Sum (Fin 64) CoreAcc) (read : Option (List Byte)) : exec (.remoteWriteAck from_ read) s = execRemoteWriteAck from_ read s := rfl
@[simp] theorem exec_fence (s : State) (q : Fin 64) : exec (.fence q) s = execFence q s := rfl
@[simp] theorem exec_launchAt (s : State) (q : Fin 64) (read : Option (List Byte)) : exec (.launchAt q read) s = execLaunchAt q read s := rfl
@[simp] theorem exec_launchTimeReached (s : State) : exec .launchTimeReached s = execLaunchTimeReached s := rfl
@[simp] theorem exec_cyclicMap (s : State) (q : Fin 64) : exec (.cyclicMap q) s = execCyclicMap q s := rfl
@[simp] theorem exec_rxBuffer (s : State) (q : Fin 64) (ok : Bool) : exec (.rxBuffer q ok) s = execRxBuffer q ok s := rfl
@[simp] theorem exec_haReply (s : State) (q : Fin 64) : exec (.haReply q) s = execHaReply q s := rfl
@[simp] theorem exec_nop (s : State) (q : Fin 64) : exec (.nop q) s = execNop q s := rfl
@[simp] theorem exec_inputMapMissing (s : State) (hub : Fin 128) (n : Word) : exec (.inputMapMissing hub n) s = execInputMapMissing hub n s := rfl
@[simp] theorem exec_outputMapFetch (s : State) (id : Fin 256) (n : Word) (r : Option (Nat × List Byte × Nat)) : exec (.outputMapFetch id n r) s = execOutputMapFetch id n r s := rfl
@[simp] theorem exec_rxRecordHoldTimeout (s : State) (t : Fin 8) : exec (.rxRecordHoldTimeout t) s = execRxRecordHoldTimeout t s := rfl
@[simp] theorem exec_completionWriteFailure (s : State) (q : Fin 65) : exec (.completionWriteFailure q) s = execCompletionWriteFailure q s := rfl
@[simp] theorem exec_interruptTimerExpiry (s : State) (q : Fin 65) : exec (.interruptTimerExpiry q) s = execInterruptTimerExpiry q s := rfl
@[simp] theorem exec_pcieReset (s : State) (kind : Fin 3) : exec (.pcieReset kind) s = execPcieReset kind s := rfl
@[simp] theorem exec_perstDeassert (s : State) : exec .perstDeassert s = execPerstDeassert s := rfl
@[simp] theorem exec_portEnableWrite (s : State) (p : Fin 2) (en : Bool) : exec (.portEnableWrite p en) s = execPortEnableWrite p en s := rfl
@[simp] theorem exec_portTestModeWrite (s : State) (p : Fin 2) (prbs : Bool) (lpbk : Fin 4) : exec (.portTestModeWrite p prbs lpbk) s = execPortTestModeWrite p prbs lpbk s := rfl
@[simp] theorem exec_retrain (s : State) (p : Fin 2) : exec (.retrain p) s = execRetrain p s := rfl
@[simp] theorem exec_restartPeriodEnd (s : State) (p : Fin 2) : exec (.restartPeriodEnd p) s = execRestartPeriodEnd p s := rfl
@[simp] theorem exec_portSignalDetected (s : State) (p : Fin 2) : exec (.portSignalDetected p) s = execPortSignalDetected p s := rfl
@[simp] theorem exec_portRateDetected (s : State) (p : Fin 2) (rate : Fin 2) : exec (.portRateDetected p rate) s = execPortRateDetected p rate s := rfl
@[simp] theorem exec_portBlockLock (s : State) (p : Fin 2) (inv0 : Bool) (inv1 : Bool) : exec (.portBlockLock p inv0 inv1) s = execPortBlockLock p inv0 inv1 s := rfl
@[simp] theorem exec_portAmLock (s : State) (p : Fin 2) (log0 : Fin 2) (log1 : Fin 2) (skew : Nat) : exec (.portAmLock p log0 log1 skew) s = execPortAmLock p log0 log1 skew s := rfl
@[simp] theorem exec_trainReqReceived (s : State) (p : Fin 2) (l : Fin 2) (c : BitVec 20) : exec (.trainReqReceived p l c) s = execTrainReqReceived p l c s := rfl
@[simp] theorem exec_trainStsReceived (s : State) (p : Fin 2) (l : Fin 2) (c : BitVec 20) : exec (.trainStsReceived p l c) s = execTrainStsReceived p l c s := rfl
@[simp] theorem exec_laneEyeReached (s : State) (p : Fin 2) (l : Fin 2) (eyeH : Nat) (eyeV : Nat) : exec (.laneEyeReached p l eyeH eyeV) s = execLaneEyeReached p l eyeH eyeV s := rfl
@[simp] theorem exec_trainDoneReceived (s : State) (p : Fin 2) (l : Fin 2) : exec (.trainDoneReceived p l) s = execTrainDoneReceived p l s := rfl
@[simp] theorem exec_configReceived (s : State) (p : Fin 2) (c : BitVec 20) : exec (.configReceived p c) s = execConfigReceived p c s := rfl
@[simp] theorem exec_configAckReceived (s : State) (p : Fin 2) : exec (.configAckReceived p) s = execConfigAckReceived p s := rfl
@[simp] theorem exec_fecLockTimeout (s : State) (p : Fin 2) : exec (.fecLockTimeout p) s = execFecLockTimeout p s := rfl
@[simp] theorem exec_trainTimeout (s : State) (p : Fin 2) : exec (.trainTimeout p) s = execTrainTimeout p s := rfl
@[simp] theorem exec_localFaultCondition (s : State) (p : Fin 2) (l : Fin 2) (c : Fin 6) : exec (.localFaultCondition p l c) s = execLocalFaultCondition p l c s := rfl
@[simp] theorem exec_remoteFaultDetected (s : State) (p : Fin 2) : exec (.remoteFaultDetected p) s = execRemoteFaultDetected p s := rfl
@[simp] theorem exec_peerRestartReceived (s : State) (p : Fin 2) : exec (.peerRestartReceived p) s = execPeerRestartReceived p s := rfl
@[simp] theorem exec_faultHoldExpiry (s : State) (p : Fin 2) : exec (.faultHoldExpiry p) s = execFaultHoldExpiry p s := rfl
@[simp] theorem exec_alignmentMarkerReceived (s : State) (p : Fin 2) (l : Fin 2) (bip : Byte) (computed : Byte) (corr : Nat) (unc : Nat) : exec (.alignmentMarkerReceived p l bip computed corr unc) s = execAlignmentMarkerReceived p l bip computed corr unc s := rfl
@[simp] theorem exec_ringFrameHeaderReceived (s : State) (p : Fin 2) (d : Hdr) (head : List Byte) (free : Nat) (mac : Nat) (cut : Bool) : exec (.ringFrameHeaderReceived p d head free mac cut) s = execRingFrameHeaderReceived p d head free mac cut s := rfl
@[simp] theorem exec_ringFrameTrailerReceived (s : State) (p : Fin 2) (payload : List Byte) (trailer : Word) (full : Bool) : exec (.ringFrameTrailerReceived p payload trailer full) s = execRingFrameTrailerReceived p payload trailer full s := rfl
@[simp] theorem exec_injectHcrc (s : State) (p : Fin 2) : exec (.injectHcrc p) s = execInjectHcrc p s := rfl
@[simp] theorem exec_injectCrc (s : State) (p : Fin 2) : exec (.injectCrc p) s = execInjectCrc p s := rfl
@[simp] theorem exec_injectSync (s : State) (p : Fin 2) : exec (.injectSync p) s = execInjectSync p s := rfl
@[simp] theorem exec_injectOne (s : State) (p : Fin 2) (l : Fin 2) : exec (.injectOne p l) s = execInjectOne p l s := rfl
@[simp] theorem exec_spurInjectOne (s : State) (sp : Fin 4) : exec (.spurInjectOne sp) s = execSpurInjectOne sp s := rfl
@[simp] theorem exec_spurInjectFcs (s : State) (sp : Fin 4) : exec (.spurInjectFcs sp) s = execSpurInjectFcs sp s := rfl
@[simp] theorem exec_spurFrameReceived (s : State) (sp : Fin 4) (payload : List Byte) (fcsOk : Bool) (free : Nat) (full : Bool) (mac : Nat) : exec (.spurFrameReceived sp payload fcsOk free full mac) s = execSpurFrameReceived sp payload fcsOk free full mac s := rfl
@[simp] theorem exec_spurLinkChange (s : State) (sp : Fin 4) (block : Bool) (hiber : Bool) (lf : Bool) (rf : Bool) (fec : Bool) (corr : Nat) (unc : Nat) : exec (.spurLinkChange sp block hiber lf rf fec corr unc) s = execSpurLinkChange sp block hiber lf rf fec corr unc s := rfl
@[simp] theorem exec_spurEnableWrite (s : State) (sp : Fin 4) (v : Word) : exec (.spurEnableWrite sp v) s = execSpurEnableWrite sp v s := rfl
@[simp] theorem exec_frameTransmitStart (s : State) (p : Fin 10) (mac : Nat) : exec (.frameTransmitStart p mac) s = execFrameTransmitStart p mac s := rfl
@[simp] theorem exec_streamEntryAged (s : State) (e : Fin 3072) : exec (.streamEntryAged e) s = execStreamEntryAged e s := rfl
@[simp] theorem exec_pathStatePeriodic (s : State) : exec .pathStatePeriodic s = execPathStatePeriodic s := rfl
@[simp] theorem exec_pathStateReceived (s : State) (f : Frame) : exec (.pathStateReceived f) s = execPathStateReceived f s := rfl
@[simp] theorem exec_memberAbsentTimeout (s : State) (hub : Fin 120) : exec (.memberAbsentTimeout hub) s = execMemberAbsentTimeout hub s := rfl
@[simp] theorem exec_syncReceived (s : State) (f : Frame) (stamp : Nat) : exec (.syncReceived f stamp) s = execSyncReceived f stamp s := rfl
@[simp] theorem exec_offsetWaitTimeout (s : State) : exec .offsetWaitTimeout s = execOffsetWaitTimeout s := rfl
@[simp] theorem exec_leadFollowTimeout (s : State) : exec .leadFollowTimeout s = execLeadFollowTimeout s := rfl
@[simp] theorem exec_leadLostTimeout (s : State) : exec .leadLostTimeout s = execLeadLostTimeout s := rfl
@[simp] theorem exec_healthReceived (s : State) (f : Frame) : exec (.healthReceived f) s = execHealthReceived f s := rfl
@[simp] theorem exec_healthEntryTimeout (s : State) (hub : Fin 120) : exec (.healthEntryTimeout hub) s = execHealthEntryTimeout hub s := rfl
@[simp] theorem exec_leadConfigWrite (s : State) (v : Word) : exec (.leadConfigWrite v) s = execLeadConfigWrite v s := rfl
@[simp] theorem exec_listenTimerExpiry (s : State) : exec .listenTimerExpiry s = execListenTimerExpiry s := rfl
@[simp] theorem exec_takeoverDeadline (s : State) : exec .takeoverDeadline s = execTakeoverDeadline s := rfl
@[simp] theorem exec_mstRequest (s : State) : exec .mstRequest s = execMstRequest s := rfl
@[simp] theorem exec_handover (s : State) (target : Fin 128) : exec (.handover target) s = execHandover target s := rfl
@[simp] theorem exec_streamLookup (s : State) (src : Fin 128) (stream : Fin 4096) : exec (.streamLookup src stream) s = execStreamLookup src stream s := rfl
@[simp] theorem exec_cellLostTimeout (s : State) (fid : Nat) (q : Fin 80) (cell : Nat) : exec (.cellLostTimeout fid q cell) s = execCellLostTimeout fid q cell s := rfl
@[simp] theorem exec_planeRetireDrained (s : State) (plane : Fin 4) : exec (.planeRetireDrained plane) s = execPlaneRetireDrained plane s := rfl
@[simp] theorem exec_planeEnableWrite (s : State) (v : Fin 16) : exec (.planeEnableWrite v) s = execPlaneEnableWrite v s := rfl
@[simp] theorem exec_rateMeasurement (s : State) (hs : Nat) : exec (.rateMeasurement hs) s = execRateMeasurement hs s := rfl
@[simp] theorem exec_rateLowTimeout (s : State) : exec .rateLowTimeout s = execRateLowTimeout s := rfl
@[simp] theorem exec_bufferConfigWrite (s : State) (q : Option (Fin 80)) (v : Word) : exec (.bufferConfigWrite q v) s = execBufferConfigWrite q v s := rfl
@[simp] theorem exec_residueTimeout (s : State) (fid : Nat) : exec (.residueTimeout fid) s = execResidueTimeout fid s := rfl
@[simp] theorem exec_holdTimerExpiry (s : State) (p : Fin 10) : exec (.holdTimerExpiry p) s = execHoldTimerExpiry p s := rfl
@[simp] theorem exec_holdTimeWrite (s : State) (p : Fin 10) (v : Word) : exec (.holdTimeWrite p v) s = execHoldTimeWrite p v s := rfl
@[simp] theorem exec_watermarkHoldoffExpiry (s : State) (q : Fin 81) : exec (.watermarkHoldoffExpiry q) s = execWatermarkHoldoffExpiry q s := rfl
@[simp] theorem exec_planAdmit (s : State) : exec .planAdmit s = execPlanAdmit s := rfl
@[simp] theorem exec_cyaCheckDone (s : State) : exec .cyaCheckDone s = execCyaCheckDone s := rfl
@[simp] theorem exec_cyclicLaunch (s : State) : exec .cyclicLaunch s = execCyclicLaunch s := rfl
@[simp] theorem exec_fifoPush (s : State) (q : Fin 292) (w : Word) (met : Bool) : exec (.fifoPush q w met) s = execFifoPush q w met s := rfl
@[simp] theorem exec_fifoPop (s : State) (q : Fin 292) (met : Bool) : exec (.fifoPop q met) s = execFifoPop q met s := rfl
@[simp] theorem exec_fifoCommit (s : State) (q : Fin 292) (met : Bool) : exec (.fifoCommit q met) s = execFifoCommit q met s := rfl
@[simp] theorem exec_fifoSoftwareRead (s : State) (q : Fin 292) (met : Bool) : exec (.fifoSoftwareRead q met) s = execFifoSoftwareRead q met s := rfl
@[simp] theorem exec_fifoSoftwareWrite (s : State) (q : Fin 292) (w : Word) (met : Bool) : exec (.fifoSoftwareWrite q w met) s = execFifoSoftwareWrite q w met s := rfl
@[simp] theorem exec_fifoEnableWrite (s : State) (q : Fin 292) (v : Word) : exec (.fifoEnableWrite q v) s = execFifoEnableWrite q v s := rfl
@[simp] theorem exec_requestReceived (s : State) (f : Frame) : exec (.requestReceived f) s = execRequestReceived f s := rfl
@[simp] theorem exec_responseReceived (s : State) (f : Frame) : exec (.responseReceived f) s = execResponseReceived f s := rfl
@[simp] theorem exec_retryReceived (s : State) (f : Frame) : exec (.retryReceived f) s = execRetryReceived f s := rfl
@[simp] theorem exec_retryWaitExpiry (s : State) (hub : Fin 128) (master : Fin 256) : exec (.retryWaitExpiry hub master) s = execRetryWaitExpiry hub master s := rfl
@[simp] theorem exec_completionDeadline (s : State) (hub : Fin 128) (master : Fin 256) (rnum : BitVec 16) : exec (.completionDeadline hub master rnum) s = execCompletionDeadline hub master rnum s := rfl
@[simp] theorem exec_orderRecordAged (s : State) (src : Fin 128) (master : Fin 256) : exec (.orderRecordAged src master) s = execOrderRecordAged src master s := rfl
@[simp] theorem exec_broadcastWriteReceived (s : State) (f : Frame) : exec (.broadcastWriteReceived f) s = execBroadcastWriteReceived f s := rfl
@[simp] theorem exec_ackPeriod (s : State) : exec .ackPeriod s = execAckPeriod s := rfl
@[simp] theorem exec_ackReceived (s : State) (f : Frame) : exec (.ackReceived f) s = execAckReceived f s := rfl
@[simp] theorem exec_errorReportReceived (s : State) (f : Frame) : exec (.errorReportReceived f) s = execErrorReportReceived f s := rfl
@[simp] theorem exec_postedWriteTimeout (s : State) (hub : Fin 128) (master : Fin 256) (rnum : BitVec 16) : exec (.postedWriteTimeout hub master rnum) s = execPostedWriteTimeout hub master rnum s := rfl
@[simp] theorem exec_credit (s : State) (toF : Bool) (m : BarMsg) : exec (.credit toF m) s = execCredit toF m s := rfl
@[simp] theorem exec_creditSend (s : State) (toF : Bool) : exec (.creditSend toF) s = execCreditSend toF s := rfl
@[simp] theorem exec_time (s : State) (m : BarMsg) : exec (.time m) s = execTime m s := rfl
@[simp] theorem exec_timeMessagePeriod (s : State) : exec .timeMessagePeriod s = execTimeMessagePeriod s := rfl
@[simp] theorem exec_wake (s : State) (toF : Bool) (m : BarMsg) : exec (.wake toF m) s = execWake toF m s := rfl
@[simp] theorem exec_fault (s : State) (m : BarMsg) : exec (.fault m) s = execFault m s := rfl
@[simp] theorem exec_rsp (s : State) (toF : Bool) (m : BarMsg) : exec (.rsp toF m) s = execRsp toF m s := rfl
@[simp] theorem exec_cycIn (s : State) (m : BarMsg) : exec (.cycIn m) s = execCycIn m s := rfl
@[simp] theorem exec_cycOut (s : State) (m : BarMsg) : exec (.cycOut m) s = execCycOut m s := rfl
@[simp] theorem exec_reqRd (s : State) (toF : Bool) (m : BarMsg) : exec (.reqRd toF m) s = execReqRd toF m s := rfl
@[simp] theorem exec_reqWr (s : State) (toF : Bool) (m : BarMsg) : exec (.reqWr toF m) s = execReqWr toF m s := rfl
@[simp] theorem exec_stream (s : State) (toF : Bool) (m : BarMsg) : exec (.stream toF m) s = execStream toF m s := rfl
@[simp] theorem exec_imgData (s : State) (m : BarMsg) : exec (.imgData m) s = execImgData m s := rfl
@[simp] theorem exec_imgStat (s : State) (m : BarMsg) : exec (.imgStat m) s = execImgStat m s := rfl
@[simp] theorem exec_barrierUndefined (s : State) (toF : Bool) (m : BarMsg) : exec (.barrierUndefined toF m) s = execBarrierUndefined toF m s := rfl
@[simp] theorem exec_barrierResponseTimeout (s : State) (tag : Fin 4096) : exec (.barrierResponseTimeout tag) s = execBarrierResponseTimeout tag s := rfl
@[simp] theorem exec_backoffResend (s : State) (tag : Fin 4096) : exec (.backoffResend tag) s = execBackoffResend tag s := rfl
@[simp] theorem exec_timIncfrWrite (s : State) (fr : Word) : exec (.timIncfrWrite fr) s = execTimIncfrWrite fr s := rfl
@[simp] theorem exec_timeStep (s : State) (force : Bool) : exec (.timeStep force) s = execTimeStep force s := rfl
@[simp] theorem exec_timeSet (s : State) (force : Bool) : exec (.timeSet force) s = execTimeSet force s := rfl
@[simp] theorem exec_timeCapture (s : State) : exec .timeCapture s = execTimeCapture s := rfl
@[simp] theorem exec_fieldTimeCapture (s : State) : exec .fieldTimeCapture s = execFieldTimeCapture s := rfl
@[simp] theorem exec_cycleConfigWrite (s : State) (v : Word) : exec (.cycleConfigWrite v) s = execCycleConfigWrite v s := rfl
@[simp] theorem exec_cycleStart (s : State) : exec .cycleStart s = execCycleStart s := rfl
@[simp] theorem exec_fieldCycleStart (s : State) : exec .fieldCycleStart s = execFieldCycleStart s := rfl
@[simp] theorem exec_fieldHoldover (s : State) : exec .fieldHoldover s = execFieldHoldover s := rfl
@[simp] theorem exec_ptpFifoReadId (s : State) (sp : Fin 4) (tx : Bool) : exec (.ptpFifoReadId sp tx) s = execPtpFifoReadId sp tx s := rfl
@[simp] theorem exec_ptpFifoReadSh (s : State) (sp : Fin 4) (tx : Bool) : exec (.ptpFifoReadSh sp tx) s = execPtpFifoReadSh sp tx s := rfl
@[simp] theorem exec_clusterEnableWrite (s : State) (c : Fin 16) (v : Word) : exec (.clusterEnableWrite c v) s = execClusterEnableWrite c v s := rfl
@[simp] theorem exec_pinWindowWrite (s : State) (n : Fin 128) (v : Word) : exec (.pinWindowWrite n v) s = execPinWindowWrite n v s := rfl
@[simp] theorem exec_fioCfgWrite (s : State) (n : Fin 256) (v : Word) : exec (.fioCfgWrite n v) s = execFioCfgWrite n v s := rfl
@[simp] theorem exec_safeClear (s : State) : exec .safeClear s = execSafeClear s := rfl
@[simp] theorem exec_fvioOutOfRange (s : State) (b : Fin 8) (mv : BitVec 13) : exec (.fvioOutOfRange b mv) s = execFvioOutOfRange b mv s := rfl
@[simp] theorem exec_inputLevelChange (s : State) (l : Fin 256) (v : Bool) : exec (.inputLevelChange l v) s = execInputLevelChange l v s := rfl
@[simp] theorem exec_stringSoftwareSet (s : State) (r : Fin 18) (v : Word) (met : Word) : exec (.stringSoftwareSet r v met) s = execStringSoftwareSet r v met s := rfl
@[simp] theorem exec_stringSoftwareClear (s : State) (r : Fin 18) (v : Word) (met : Word) : exec (.stringSoftwareClear r v met) s = execStringSoftwareClear r v met s := rfl
@[simp] theorem exec_captureInstant (s : State) (n : Word) : exec (.captureInstant n) s = execCaptureInstant n s := rfl
@[simp] theorem exec_imageSliceConfigWrite (s : State) (n : Fin 128) (out : Bool) (v : Word) : exec (.imageSliceConfigWrite n out v) s = execImageSliceConfigWrite n out v s := rfl
@[simp] theorem exec_bankImageApply (s : State) (n : Word) : exec (.bankImageApply n) s = execBankImageApply n s := rfl
@[simp] theorem exec_bankOutputSet (s : State) (b : Fin 8) (v : Word) : exec (.bankOutputSet b v) s = execBankOutputSet b v s := rfl
@[simp] theorem exec_bankOutputClear (s : State) (b : Fin 8) (v : Word) : exec (.bankOutputClear b v) s = execBankOutputClear b v s := rfl
@[simp] theorem exec_instructionMemoryWrite (s : State) (c : Fin 16) (k : Fin 2) (w : Fin 512) (v : Word) : exec (.instructionMemoryWrite c k w v) s = execInstructionMemoryWrite c k w v s := rfl
@[simp] theorem exec_jmp (s : State) (n : Fin 128) : exec (.jmp n) s = execJmp n s := rfl
@[simp] theorem exec_mov (s : State) (n : Fin 128) : exec (.mov n) s = execMov n s := rfl
@[simp] theorem exec_pull (s : State) (n : Fin 128) (met : Bool) : exec (.pull n met) s = execPull n met s := rfl
@[simp] theorem exec_push (s : State) (n : Fin 128) (met : Bool) : exec (.push n met) s = execPush n met s := rfl
@[simp] theorem exec_pushLen (s : State) (n : Fin 128) (met : Bool) : exec (.pushLen n met) s = execPushLen n met s := rfl
@[simp] theorem exec_shiftOut (s : State) (n : Fin 128) : exec (.shiftOut n) s = execShiftOut n s := rfl
@[simp] theorem exec_shiftIn (s : State) (n : Fin 128) (levels : List Word) : exec (.shiftIn n levels) s = execShiftIn n levels s := rfl
@[simp] theorem exec_shiftOutNb (s : State) (n : Fin 128) : exec (.shiftOutNb n) s = execShiftOutNb n s := rfl
@[simp] theorem exec_shiftInNb (s : State) (n : Fin 128) (levels : List Word) : exec (.shiftInNb n levels) s = execShiftInNb n levels s := rfl
@[simp] theorem exec_setPins (s : State) (n : Fin 128) : exec (.setPins n) s = execSetPins n s := rfl
@[simp] theorem exec_waitPin (s : State) (n : Fin 128) : exec (.waitPin n) s = execWaitPin n s := rfl
@[simp] theorem exec_waitPinUntilTimeout (s : State) (n : Fin 128) : exec (.waitPinUntilTimeout n) s = execWaitPinUntilTimeout n s := rfl
@[simp] theorem exec_setString (s : State) (n : Fin 128) (met : Bool) : exec (.setString n met) s = execSetString n met s := rfl
@[simp] theorem exec_clrString (s : State) (n : Fin 128) (met : Bool) : exec (.clrString n met) s = execClrString n met s := rfl
@[simp] theorem exec_waitString (s : State) (n : Fin 128) : exec (.waitString n) s = execWaitString n s := rfl
@[simp] theorem exec_engAt (s : State) (n : Fin 128) (met : Bool) : exec (.engAt n met) s = execEngAt n met s := rfl
@[simp] theorem exec_atAct (s : State) (n : Fin 128) (met : Bool) : exec (.atAct n met) s = execAtAct n met s := rfl
@[simp] theorem exec_stamp (s : State) (n : Fin 128) : exec (.stamp n) s = execStamp n s := rfl
@[simp] theorem exec_irq (s : State) (n : Fin 128) : exec (.irq n) s = execIrq n s := rfl
@[simp] theorem exec_sync (s : State) (n : Fin 128) : exec (.sync n) s = execSync n s := rfl
@[simp] theorem exec_swap (s : State) (c : Fin 16) : exec (.swap c) s = execSwap c s := rfl
@[simp] theorem exec_forceSwap (s : State) (c : Fin 16) : exec (.forceSwap c) s = execForceSwap c s := rfl
@[simp] theorem exec_forcedSwapEffect (s : State) (c : Fin 16) : exec (.forcedSwapEffect c) s = execForcedSwapEffect c s := rfl
@[simp] theorem exec_canModeWrite (s : State) (n : Fin 16) (v : Word) : exec (.canModeWrite n v) s = execCanModeWrite n v s := rfl
@[simp] theorem exec_canModeEffect (s : State) (n : Fin 16) : exec (.canModeEffect n) s = execCanModeEffect n s := rfl
@[simp] theorem exec_busIntegrationDone (s : State) (n : Fin 16) : exec (.busIntegrationDone n) s = execBusIntegrationDone n s := rfl
@[simp] theorem exec_canTimingWrite (s : State) (n : Fin 16) (which : Fin 3) (v : Word) : exec (.canTimingWrite n which v) s = execCanTimingWrite n which v s := rfl
@[simp] theorem exec_canFrameReceived (s : State) (n : Fin 16) (e0 : Word) (e1 : Word) (bytes : List Byte) (time : Nat) : exec (.canFrameReceived n e0 e1 bytes time) s = execCanFrameReceived n e0 e1 bytes time s := rfl
@[simp] theorem exec_canProtocolException (s : State) (n : Fin 16) : exec (.canProtocolException n) s = execCanProtocolException n s := rfl
@[simp] theorem exec_rxqGetWrite (s : State) (n : Fin 16) (j : Fin 2) (v : Word) : exec (.rxqGetWrite n j v) s = execRxqGetWrite n j v s := rfl
@[simp] theorem exec_txReq (s : State) (n : Fin 16) (k : Fin 32) : exec (.txReq n k) s = execTxReq n k s := rfl
@[simp] theorem exec_txCancel (s : State) (n : Fin 16) (k : Fin 32) : exec (.txCancel n k) s = execTxCancel n k s := rfl
@[simp] theorem exec_canCommitPoint (s : State) (n : Fin 16) (time : Nat) : exec (.canCommitPoint n time) s = execCanCommitPoint n time s := rfl
@[simp] theorem exec_canFrameSent (s : State) (n : Fin 16) (loop : Option Nat) : exec (.canFrameSent n loop) s = execCanFrameSent n loop s := rfl
@[simp] theorem exec_canArbitrationLost (s : State) (n : Fin 16) : exec (.canArbitrationLost n) s = execCanArbitrationLost n s := rfl
@[simp] theorem exec_canError (s : State) (n : Fin 16) (code : Fin 7) (dataPhase : Bool) (odd : Bool) (loop : Option Nat) : exec (.canError n code dataPhase odd loop) s = execCanError n code dataPhase odd loop s := rfl
@[simp] theorem exec_canLaunchTimeReached (s : State) (n : Fin 16) (k : Fin 32) : exec (.canLaunchTimeReached n k) s = execCanLaunchTimeReached n k s := rfl
@[simp] theorem exec_canLateTimeout (s : State) (n : Fin 16) (k : Fin 32) : exec (.canLateTimeout n k) s = execCanLateTimeout n k s := rfl
@[simp] theorem exec_streamPoolLoad (s : State) (n : Fin 16) : exec (.streamPoolLoad n) s = execStreamPoolLoad n s := rfl
@[simp] theorem exec_boRecover (s : State) (n : Fin 16) : exec (.boRecover n) s = execBoRecover n s := rfl
@[simp] theorem exec_busOffRecoveryDone (s : State) (n : Fin 16) : exec (.busOffRecoveryDone n) s = execBusOffRecoveryDone n s := rfl
@[simp] theorem exec_dominantTimeout (s : State) (n : Fin 16) : exec (.dominantTimeout n) s = execDominantTimeout n s := rfl
@[simp] theorem exec_powerRequestRun (s : State) : exec .powerRequestRun s = execPowerRequestRun s := rfl
@[simp] theorem exec_powerRequestStandby (s : State) : exec .powerRequestStandby s = execPowerRequestStandby s := rfl
@[simp] theorem exec_powerRequestSleep (s : State) : exec .powerRequestSleep s = execPowerRequestSleep s := rfl
@[simp] theorem exec_fieldClockLocked (s : State) : exec .fieldClockLocked s = execFieldClockLocked s := rfl
@[simp] theorem exec_fwake (s : State) : exec .fwake s = execFwake s := rfl
@[simp] theorem exec_transceiverModeWrite (s : State) (n : Fin 16) (m : Fin 4) : exec (.transceiverModeWrite n m) s = execTransceiverModeWrite n m s := rfl
@[simp] theorem exec_goSleepTimerExpiry (s : State) (n : Fin 4) : exec (.goSleepTimerExpiry n) s = execGoSleepTimerExpiry n s := rfl
@[simp] theorem exec_wupDetected (s : State) (n : Fin 4) : exec (.wupDetected n) s = execWupDetected n s := rfl
@[simp] theorem exec_fvcanUndervoltage (s : State) : exec .fvcanUndervoltage s = execFvcanUndervoltage s := rfl
@[simp] theorem exec_fvsupLost (s : State) : exec .fvsupLost s = execFvsupLost s := rfl
@[simp] theorem exec_nmEnableWrite (s : State) (n : Fin 16) (v : Word) : exec (.nmEnableWrite n v) s = execNmEnableWrite n v s := rfl
@[simp] theorem exec_nmNeedWrite (s : State) (n : Fin 16) (b : Bool) : exec (.nmNeedWrite n b) s = execNmNeedWrite n b s := rfl
@[simp] theorem exec_keepAliveTimer (s : State) (n : Fin 16) : exec (.keepAliveTimer n) s = execKeepAliveTimer n s := rfl
@[simp] theorem exec_readySleepTimerExpiry (s : State) (n : Fin 16) : exec (.readySleepTimerExpiry n) s = execReadySleepTimerExpiry n s := rfl
@[simp] theorem exec_prepareSleepTimerExpiry (s : State) (n : Fin 16) (ka : Bool) : exec (.prepareSleepTimerExpiry n ka) s = execPrepareSleepTimerExpiry n ka s := rfl
@[simp] theorem exec_groomSample (s : State) (samples : List (Fin 25 × Word)) : exec (.groomSample samples) s = execGroomSample samples s := rfl
@[simp] theorem exec_groomConfigWrite (s : State) (rule : Bool) (e : Fin 32) (v : Word) : exec (.groomConfigWrite rule e v) s = execGroomConfigWrite rule e v s := rfl
@[simp] theorem exec_feedMeasurement (s : State) (n : Fin 4) (vin : Fin 1024) (vout : Fin 1024) (uv : Nat) : exec (.feedMeasurement n vin vout uv) s = execFeedMeasurement n vin vout uv s := rfl
@[simp] theorem exec_diodeReading (s : State) (n : Fin 4) (t : Int) : exec (.diodeReading n t) s = execDiodeReading n t s := rfl
@[simp] theorem exec_limitingOnset (s : State) (n : Fin 4) : exec (.limitingOnset n) s = execLimitingOnset n s := rfl
@[simp] theorem exec_limitingEnd (s : State) (n : Fin 4) : exec (.limitingEnd n) s = execLimitingEnd n s := rfl
@[simp] theorem exec_faultTimerExpiry (s : State) (n : Fin 4) (ended : Bool) : exec (.faultTimerExpiry n ended) s = execFaultTimerExpiry n ended s := rfl
@[simp] theorem exec_feedEnableWrite (s : State) (n : Fin 4) (v : Word) : exec (.feedEnableWrite n v) s = execFeedEnableWrite n v s := rfl
@[simp] theorem exec_inputGood (s : State) (n : Fin 4) : exec (.inputGood n) s = execInputGood n s := rfl
@[simp] theorem exec_rampTimerExpiry (s : State) (n : Fin 4) : exec (.rampTimerExpiry n) s = execRampTimerExpiry n s := rfl
@[simp] theorem exec_fullyOn (s : State) (n : Fin 4) : exec (.fullyOn n) s = execFullyOn n s := rfl
@[simp] theorem exec_pgDelayExpiry (s : State) (n : Fin 4) (limits : Bool) : exec (.pgDelayExpiry n limits) s = execPgDelayExpiry n limits s := rfl
@[simp] theorem exec_faultFreePeriod (s : State) (n : Fin 4) : exec (.faultFreePeriod n) s = execFaultFreePeriod n s := rfl
@[simp] theorem exec_coolEnd (s : State) (n : Fin 4) (off : Bool) : exec (.coolEnd n off) s = execCoolEnd n off s := rfl
@[simp] theorem exec_vinOutOfRange (s : State) (n : Fin 4) : exec (.vinOutOfRange n) s = execVinOutOfRange n s := rfl
@[simp] theorem exec_reverseCurrent (s : State) (n : Fin 4) : exec (.reverseCurrent n) s = execReverseCurrent n s := rfl
@[simp] theorem exec_warnHoldExpiry (s : State) : exec .warnHoldExpiry s = execWarnHoldExpiry s := rfl
@[simp] theorem exec_memoryScrubRead (s : State) (e : Fin 256) (found : Fin 3) (again : Bool) (vote : Bool) : exec (.memoryScrubRead e found again vote) s = execMemoryScrubRead e found again vote s := rfl
@[simp] theorem exec_mergeWriteBack (s : State) (e : Fin 256) (found : Fin 3) : exec (.mergeWriteBack e found) s = execMergeWriteBack e found s := rfl
@[simp] theorem exec_memoryFlush (s : State) : exec .memoryFlush s = execMemoryFlush s := rfl
@[simp] theorem exec_remapWrite (s : State) (e : Fin 256) (k : Fin 8) (v : Word) : exec (.remapWrite e k v) s = execRemapWrite e k v s := rfl
@[simp] theorem exec_injectionArm (s : State) (e : Fin 256) (v : Word) : exec (.injectionArm e v) s = execInjectionArm e v s := rfl
@[simp] theorem exec_injectionRewrite (s : State) (e : Fin 256) (v : Word) : exec (.injectionRewrite e v) s = execInjectionRewrite e v s := rfl
@[simp] theorem exec_faultMessageReceived (s : State) : exec .faultMessageReceived s = execFaultMessageReceived s := rfl
@[simp] theorem exec_blockResetCommand (s : State) (v : Word) : exec (.blockResetCommand v) s = execBlockResetCommand v s := rfl
@[simp] theorem exec_blockResetDone (s : State) (d : Fin 64) : exec (.blockResetDone d) s = execBlockResetDone d s := rfl
@[simp] theorem exec_shadowClose (s : State) (d : Fin 64) : exec (.shadowClose d) s = execShadowClose d s := rfl
@[simp] theorem exec_ladderStepDecay (s : State) (src : Fin 768) : exec (.ladderStepDecay src) s = execLadderStepDecay src s := rfl
@[simp] theorem exec_pendClear (s : State) (src : Fin 768) : exec (.pendClear src) s = execPendClear src s := rfl
@[simp] theorem exec_fecClear (s : State) : exec .fecClear s = execFecClear s := rfl
@[simp] theorem exec_faultInject (s : State) (v : Word) : exec (.faultInject v) s = execFaultInject v s := rfl
@[simp] theorem exec_fieldFaultInject (s : State) (v : Word) : exec (.fieldFaultInject v) s = execFieldFaultInject v s := rfl
@[simp] theorem exec_supplyOutOfRange (s : State) (rail : Fin 8) (out : Bool) : exec (.supplyOutOfRange rail out) s = execSupplyOutOfRange rail out s := rfl
@[simp] theorem exec_junctionOvertemp (s : State) (field : Bool) (t : BitVec 16) : exec (.junctionOvertemp field t) s = execJunctionOvertemp field t s := rfl
@[simp] theorem exec_clockLoss (s : State) (n : Fin 13) (lost : Bool) : exec (.clockLoss n lost) s = execClockLoss n lost s := rfl
@[simp] theorem exec_watchdog (s : State) : exec .watchdog s = execWatchdog s := rfl
@[simp] theorem exec_functionConfigWrite (s : State) (f : Fin 16) (v : Word) : exec (.functionConfigWrite f v) s = execFunctionConfigWrite f v s := rfl
@[simp] theorem exec_functionStartDone (s : State) (f : Fin 16) : exec (.functionStartDone f) s = execFunctionStartDone f s := rfl
@[simp] theorem exec_functionDrainDone (s : State) (f : Fin 16) : exec (.functionDrainDone f) s = execFunctionDrainDone f s := rfl
@[simp] theorem exec_haRequestDeadline (s : State) (f : Fin 16) (cookie : Word) : exec (.haRequestDeadline f cookie) s = execHaRequestDeadline f cookie s := rfl
@[simp] theorem exec_coreHaReply (s : State) (hub : Fin 128) (f : Fin 16) (cookie : Word) (d : Byte) (arg : BitVec 64) : exec (.coreHaReply hub f cookie d arg) s = execCoreHaReply hub f cookie d arg s := rfl
@[simp] theorem exec_eventFrameReceived (s : State) (f : Frame) : exec (.eventFrameReceived f) s = execEventFrameReceived f s := rfl
@[simp] theorem exec_updateStart (s : State) (slot : Fin 16) (motionLow : Bool) (holdupLow : Bool) : exec (.updateStart slot motionLow holdupLow) s = execUpdateStart slot motionLow holdupLow s := rfl
@[simp] theorem exec_updateProgram (s : State) : exec .updateProgram s = execUpdateProgram s := rfl
@[simp] theorem exec_programDone (s : State) (good : Bool) : exec (.programDone good) s = execProgramDone good s := rfl
@[simp] theorem exec_updateCheck (s : State) : exec .updateCheck s = execUpdateCheck s := rfl
@[simp] theorem exec_checkDone (s : State) : exec .checkDone s = execCheckDone s := rfl
@[simp] theorem exec_updateActivate (s : State) (motionLow : Bool) (holdupLow : Bool) : exec (.updateActivate motionLow holdupLow) s = execUpdateActivate motionLow holdupLow s := rfl
@[simp] theorem exec_classMImageStarted (s : State) : exec .classMImageStarted s = execClassMImageStarted s := rfl
@[simp] theorem exec_updateConfirm (s : State) (core : Bool) (expired : Bool) : exec (.updateConfirm core expired) s = execUpdateConfirm core expired s := rfl
@[simp] theorem exec_updateAbort (s : State) : exec .updateAbort s = execUpdateAbort s := rfl
@[simp] theorem exec_confirmWindowExpiry (s : State) : exec .confirmWindowExpiry s = execConfirmWindowExpiry s := rfl
@[simp] theorem exec_classFHealthTimeout (s : State) : exec .classFHealthTimeout s = execClassFHealthTimeout s := rfl
@[simp] theorem exec_motionBroadcast (s : State) : exec .motionBroadcast s = execMotionBroadcast s := rfl
@[simp] theorem exec_motionTimeout (s : State) : exec .motionTimeout s = execMotionTimeout s := rfl
@[simp] theorem exec_ownerWrite (s : State) (hub : Option (Fin 128)) (v : Word) : exec (.ownerWrite hub v) s = execOwnerWrite hub v s := rfl
@[simp] theorem exec_monitorReading (s : State) (ts : List (BitVec 16)) (rs : List (Fin 30 × BitVec 16)) : exec (.monitorReading ts rs) s = execMonitorReading ts rs s := rfl
@[simp] theorem exec_cycleTotalUpdate (s : State) : exec .cycleTotalUpdate s = execCycleTotalUpdate s := rfl
@[simp] theorem exec_ageingRecordSave (s : State) (holdupLow : Bool) : exec (.ageingRecordSave holdupLow) s = execAgeingRecordSave holdupLow s := rfl
@[simp] theorem exec_ageSaveCommand (s : State) (v : Word) (holdupLow : Bool) : exec (.ageSaveCommand v holdupLow) s = execAgeSaveCommand v holdupLow s := rfl
@[simp] theorem exec_historyPoint (s : State) : exec .historyPoint s = execHistoryPoint s := rfl
@[simp] theorem exec_lifeEstimate (s : State) : exec .lifeEstimate s = execLifeEstimate s := rfl
@[simp] theorem exec_hostRailLoss (s : State) (rail : Fin 7) : exec (.hostRailLoss rail) s = execHostRailLoss rail s := rfl
@[simp] theorem exec_rstNAssert (s : State) : exec .rstNAssert s = execRstNAssert s := rfl
@[simp] theorem exec_softReset (s : State) (v : Word) : exec (.softReset v) s = execSoftReset v s := rfl
@[simp] theorem exec_fieldReset (s : State) : exec .fieldReset s = execFieldReset s := rfl
@[simp] theorem exec_jtagReset (s : State) : exec .jtagReset s = execJtagReset s := rfl
@[simp] theorem exec_chipResetRelease (s : State) (high : Option Bool) (hubId : Option (Fin 128)) : exec (.chipResetRelease high hubId) s = execChipResetRelease high hubId s := rfl
@[simp] theorem exec_bootImageLoaded (s : State) : exec .bootImageLoaded s = execBootImageLoaded s := rfl
@[simp] theorem exec_fieldPowerOn (s : State) : exec .fieldPowerOn s = execFieldPowerOn s := rfl
@[simp] theorem exec_barrierLinkUp (s : State) (lat : BitVec 16) : exec (.barrierLinkUp lat) s = execBarrierLinkUp lat s := rfl
@[simp] theorem exec_hubNumberRequest (s : State) (v : Word) : exec (.hubNumberRequest v) s = execHubNumberRequest v s := rfl
@[simp] theorem exec_claimResend (s : State) : exec .claimResend s = execClaimResend s := rfl
@[simp] theorem exec_claimTimeout (s : State) : exec .claimTimeout s = execClaimTimeout s := rfl
@[simp] theorem exec_claimReceived (s : State) (f : Frame) : exec (.claimReceived f) s = execClaimReceived f s := rfl
@[simp] theorem exec_objectReceived (s : State) (f : Frame) : exec (.objectReceived f) s = execObjectReceived f s := rfl
@[simp] theorem exec_joinedReceived (s : State) (f : Frame) : exec (.joinedReceived f) s = execJoinedReceived f s := rfl
@[simp] theorem exec_joinedPeriod (s : State) : exec .joinedPeriod s = execJoinedPeriod s := rfl
@[simp] theorem exec_readyWrite (s : State) (v : Word) : exec (.readyWrite v) s = execReadyWrite v s := rfl
@[simp] theorem exec_restEntryComplete (s : State) : exec .restEntryComplete s = execRestEntryComplete s := rfl
@[simp] theorem exec_fvioInRange (s : State) (b : Fin 8) (mv : BitVec 13) : exec (.fvioInRange b mv) s = execFvioInRange b mv s := rfl
@[simp] theorem exec_engineNop (s : State) (n : Fin 128) : exec (.engineNop n) s = execEngineNop n s := rfl
@[simp] theorem exec_illegalInstruction (s : State) (n : Fin 128) : exec (.illegalInstruction n) s = execIllegalInstruction n s := rfl
@[simp] theorem exec_bootRecordWritten (s : State) : exec .bootRecordWritten s = execBootRecordWritten s := rfl
@[simp] theorem exec_prbsLockChange (s : State) (u : Fin 8) (lock : Bool) (errors : Nat) : exec (.prbsLockChange u lock errors) s = execPrbsLockChange u lock errors s := rfl
@[simp] theorem exec_fecLockAcquired (s : State) (p : Fin 2) : exec (.fecLockAcquired p) s = execFecLockAcquired p s := rfl
@[simp] theorem exec_pcieLinkUp (s : State) (width : Fin 3) (speed : Fin 4) : exec (.pcieLinkUp width speed) s = execPcieLinkUp width speed s := rfl
@[simp] theorem exec_holdupNRise (s : State) : exec .holdupNRise s = execHoldupNRise s := rfl
@[simp] theorem exec_frameSent (s : State) (p : Fin 10) : exec (.frameSent p) s = execFrameSent p s := rfl

end Sys2Proof.Machine
end

