-- ==== Sys2Proof/Laws/RegFile.lean ====
section
/-! SUPPORT. What the register file does, said once: a read after a write, what a write leaves alone, and that every operation keeps the canonical form. -/
namespace Sys2Proof.Machine

/-! ### Finding -/

theorem regFind_regDrop_same (r : Regs) (k : Nat) : regFind (regDrop r k) k = none := by
  induction r with
  | nil => rfl
  | cons e r ih => obtain ⟨a, v⟩ := e; simp only [regDrop]; split <;> simp_all [regFind]

theorem regFind_regDrop_other (r : Regs) {j k : Nat} (h : k ≠ j) : regFind (regDrop r j) k = regFind r k := by
  induction r with
  | nil => rfl
  | cons e r ih =>
    obtain ⟨a, v⟩ := e; simp only [regDrop]; split
    · subst_vars; simp [regFind, ih, Ne.symm h]
    · simp [regFind, ih]

theorem regFind_regPlace_same (r : Regs) (k v : Nat) (h : regFind r k = none) : regFind (regPlace r k v) k = some v := by
  induction r with
  | nil => simp [regPlace, regFind]
  | cons e r ih =>
    obtain ⟨a, w⟩ := e
    have ha : a ≠ k := by intro c; simp [regFind, c] at h
    simp only [regPlace]; split
    · simp [regFind]
    · simp only [regFind, ha, if_false] at h ⊢; exact ih h

theorem regFind_regPlace_other (r : Regs) {j k : Nat} (v : Nat) (h : k ≠ j) : regFind (regPlace r j v) k = regFind r k := by
  induction r with
  | nil => simp [regPlace, regFind, Ne.symm h]
  | cons e r ih =>
    obtain ⟨a, w⟩ := e; simp only [regPlace]; split
    · simp [regFind, Ne.symm h]
    · simp [regFind, ih]

/-! ### A read after a write -/

/-- A field holds what was written, in its width. -/
@[simp] theorem regGet_regPut_same (r : Regs) (F : Fld) (v : Nat) : regGet (regPut r F v) F = v % 2 ^ F.width := by
  simp only [regGet, regPut]; split
  · rename_i h; rw [regFind_regDrop_same]; simp [h]
  · rw [regFind_regPlace_same _ _ _ (regFind_regDrop_same r F.key)]; rfl

/-- A write leaves every field at another key as it was. -/
theorem regGet_regPut_other (r : Regs) (F G : Fld) (v : Nat) (h : G.key ≠ F.key) : regGet (regPut r F v) G = regGet r G := by
  simp only [regGet, regPut]; split
  · rw [regFind_regDrop_other r h]
  · rw [regFind_regPlace_other _ _ h, regFind_regDrop_other r h]

@[simp] theorem HDie.rd_wr_same (h : HDie) (F : Fld) (v : Nat) : (h.wr F v).rd F = v % 2 ^ F.width := regGet_regPut_same _ _ _

theorem HDie.rd_wr_other (h : HDie) (F G : Fld) (v : Nat) (n : G.key ≠ F.key) : (h.wr F v).rd G = h.rd G := regGet_regPut_other _ _ _ _ n

@[simp] theorem FDie.rd_wr_same (f : FDie) (F : Fld) (v : Nat) : (f.wr F v).rd F = v % 2 ^ F.width := regGet_regPut_same _ _ _

theorem FDie.rd_wr_other (f : FDie) (F G : Fld) (v : Nat) (n : G.key ≠ F.key) : (f.wr F v).rd G = f.rd G := regGet_regPut_other _ _ _ _ n

/-! ### The canonical form -/

/-- Every key of the list lies above `k`. -/
def Regs.above (k : Nat) (r : Regs) : Prop := ∀ e ∈ r, k < e.1

theorem Regs.wf_cons (a v : Nat) (r : Regs) : Regs.wf ((a, v) :: r) = true ↔ Regs.above a r ∧ Regs.wf r = true := by
  induction r generalizing a v with
  | nil => simp [Regs.wf, Regs.above]
  | cons e r ih =>
    obtain ⟨b, w⟩ := e
    simp only [Regs.wf, Bool.and_eq_true, decide_eq_true_eq]
    constructor
    · rintro ⟨hab, hw⟩
      refine ⟨?_, hw⟩
      intro x hx
      rcases List.mem_cons.1 hx with rfl | hx
      · exact hab
      · exact Nat.lt_trans hab (((ih b w).1 hw).1 x hx)
    · rintro ⟨ha, hw⟩
      exact ⟨ha (b, w) (List.mem_cons_self ..), hw⟩

theorem Regs.mem_drop {r : Regs} {k : Nat} {e : Nat × Nat} (h : e ∈ regDrop r k) : e ∈ r := by
  induction r with
  | nil => exact h
  | cons x r ih =>
    obtain ⟨a, v⟩ := x; simp only [regDrop] at h
    split at h
    · exact List.mem_cons_of_mem _ (ih h)
    · rcases List.mem_cons.1 h with h | h
      · exact h ▸ List.mem_cons_self ..
      · exact List.mem_cons_of_mem _ (ih h)

theorem Regs.drop_ne {r : Regs} {k : Nat} {e : Nat × Nat} (h : e ∈ regDrop r k) : e.1 ≠ k := by
  induction r with
  | nil => cases h
  | cons x r ih =>
    obtain ⟨a, v⟩ := x; simp only [regDrop] at h
    split at h
    · exact ih h
    · rcases List.mem_cons.1 h with h | h
      · subst h; assumption
      · exact ih h

theorem Regs.mem_place {r : Regs} {k v : Nat} {e : Nat × Nat} (h : e ∈ regPlace r k v) : e = (k, v) ∨ e ∈ r := by
  induction r with
  | nil => simpa [regPlace] using h
  | cons x r ih =>
    obtain ⟨a, w⟩ := x; simp only [regPlace] at h
    split at h
    · simpa using h
    · rcases List.mem_cons.1 h with h | h
      · exact .inr (h ▸ List.mem_cons_self ..)
      · rcases ih h with h | h
        · exact .inl h
        · exact .inr (List.mem_cons_of_mem _ h)

theorem Regs.wf_drop {r : Regs} (k : Nat) (h : Regs.wf r = true) : Regs.wf (regDrop r k) = true := by
  induction r with
  | nil => rfl
  | cons x r ih =>
    obtain ⟨a, v⟩ := x
    have h' := (Regs.wf_cons a v r).1 h
    simp only [regDrop]; split
    · exact ih h'.2
    · exact (Regs.wf_cons _ _ _).2 ⟨fun e he => h'.1 e (Regs.mem_drop he), ih h'.2⟩

theorem Regs.wf_place {r : Regs} (k v : Nat) (h : Regs.wf r = true) (hk : ∀ e ∈ r, e.1 ≠ k) : Regs.wf (regPlace r k v) = true := by
  induction r with
  | nil => rfl
  | cons x r ih =>
    obtain ⟨a, w⟩ := x
    have h' := (Regs.wf_cons a w r).1 h
    have hka : a ≠ k := hk (a, w) (List.mem_cons_self ..)
    simp only [regPlace]; split
    · rename_i hlt
      refine (Regs.wf_cons _ _ _).2 ⟨?_, h⟩
      intro e he
      rcases List.mem_cons.1 he with rfl | he
      · exact hlt
      · exact Nat.lt_trans hlt (h'.1 e he)
    · rename_i hlt
      refine (Regs.wf_cons _ _ _).2 ⟨?_, ih h'.2 fun e he => hk e (List.mem_cons_of_mem _ he)⟩
      intro e he
      rcases Regs.mem_place he with rfl | he
      · show a < k; omega
      · exact h'.1 e he

/-- A write keeps the form. -/
theorem Regs.wf_regPut {r : Regs} (F : Fld) (v : Nat) (h : Regs.wf r = true) : Regs.wf (regPut r F v) = true := by
  simp only [regPut]; split
  · exact Regs.wf_drop _ h
  · exact Regs.wf_place _ _ (Regs.wf_drop _ h) fun e he => Regs.drop_ne he

theorem Regs.wf_regBump {r : Regs} (F : Fld) (n : Nat) (h : Regs.wf r = true) : Regs.wf (regBump r F n) = true := Regs.wf_regPut _ _ h

theorem Regs.wf_filter {r : Regs} (p : Nat × Nat → Bool) (h : Regs.wf r = true) : Regs.wf (r.filter p) = true := by
  induction r with
  | nil => rfl
  | cons x r ih =>
    obtain ⟨a, v⟩ := x
    have h' := (Regs.wf_cons a v r).1 h
    simp only [List.filter_cons]; split
    · exact (Regs.wf_cons _ _ _).2 ⟨fun e he => h'.1 e (List.mem_filter.1 he).1, ih h'.2⟩
    · exact ih h'.2

theorem Regs.wf_regReset {r : Regs} (lo hi : Nat) (h : Regs.wf r = true) : Regs.wf (regReset r lo hi) = true := Regs.wf_filter _ h

end Sys2Proof.Machine
end

