-- ==== Sys2Proof/Laws/State.lean ====
section
/-! SUPPORT. Every field of a die under each of its plain updates, one lemma each, so that no proof unfolds a record update. -/
namespace Sys2Proof.Machine

/-! ### A register of the host die is written -/

@[simp] theorem HDie.wr_hiHold (h : HDie) (F : Fld) (v : Nat) : (h.wr F v).hiHold = h.hiHold := rfl
@[simp] theorem HDie.wr_hiCap (h : HDie) (F : Fld) (v : Nat) : (h.wr F v).hiCap = h.hiCap := rfl
@[simp] theorem HDie.wr_hostq (h : HDie) (F : Fld) (v : Nat) : (h.wr F v).hostq = h.hostq := rfl
@[simp] theorem HDie.wr_sw (h : HDie) (F : Fld) (v : Nat) : (h.wr F v).sw = h.sw := rfl
@[simp] theorem HDie.wr_ports (h : HDie) (F : Fld) (v : Nat) : (h.wr F v).ports = h.ports := rfl
@[simp] theorem HDie.wr_spurs (h : HDie) (F : Fld) (v : Nat) : (h.wr F v).spurs = h.spurs := rfl
@[simp] theorem HDie.wr_red (h : HDie) (F : Fld) (v : Nat) : (h.wr F v).red = h.red := rfl
@[simp] theorem HDie.wr_brg (h : HDie) (F : Fld) (v : Nat) : (h.wr F v).brg = h.brg := rfl
@[simp] theorem HDie.wr_tb (h : HDie) (F : Fld) (v : Nat) : (h.wr F v).tb = h.tb := rfl
@[simp] theorem HDie.wr_flt (h : HDie) (F : Fld) (v : Nat) : (h.wr F v).flt = h.flt := rfl
@[simp] theorem HDie.wr_spl (h : HDie) (F : Fld) (v : Nat) : (h.wr F v).spl = h.spl := rfl
@[simp] theorem HDie.wr_boot (h : HDie) (F : Fld) (v : Nat) : (h.wr F v).boot = h.boot := rfl
@[simp] theorem HDie.wr_upd (h : HDie) (F : Fld) (v : Nat) : (h.wr F v).upd = h.upd := rfl
@[simp] theorem HDie.wr_age (h : HDie) (F : Fld) (v : Nat) : (h.wr F v).age = h.age := rfl
@[simp] theorem HDie.wr_mems (h : HDie) (F : Fld) (v : Nat) : (h.wr F v).mems = h.mems := rfl
@[simp] theorem HDie.wr_free (h : HDie) (F : Fld) (v : Nat) : (h.wr F v).free = h.free := rfl
@[simp] theorem HDie.wr_regs (h : HDie) (F : Fld) (v : Nat) : (h.wr F v).regs = regPut h.regs F v := rfl
@[simp] theorem HDie.raise_eq (h : HDie) (F : Fld) : h.raise F = h.wr F 1 := rfl
@[simp] theorem HDie.bump_eq (h : HDie) (F : Fld) (n : Nat) : h.bump F n = h.wr F (min (h.rd F + n) (2 ^ F.width - 1)) := rfl

/-! ### A register of the field die is written -/

@[simp] theorem FDie.wr_variant (f : FDie) (F : Fld) (v : Nat) : (f.wr F v).variant = f.variant := rfl
@[simp] theorem FDie.wr_linkUp (f : FDie) (F : Fld) (v : Nat) : (f.wr F v).linkUp = f.linkUp := rfl
@[simp] theorem FDie.wr_bar (f : FDie) (F : Fld) (v : Nat) : (f.wr F v).bar = f.bar := rfl
@[simp] theorem FDie.wr_held (f : FDie) (F : Fld) (v : Nat) : (f.wr F v).held = f.held := rfl
@[simp] theorem FDie.wr_hiHold (f : FDie) (F : Fld) (v : Nat) : (f.wr F v).hiHold = f.hiHold := rfl
@[simp] theorem FDie.wr_hiCap (f : FDie) (F : Fld) (v : Nat) : (f.wr F v).hiCap = f.hiCap := rfl
@[simp] theorem FDie.wr_tb (f : FDie) (F : Fld) (v : Nat) : (f.wr F v).tb = f.tb := rfl
@[simp] theorem FDie.wr_fifos (f : FDie) (F : Fld) (v : Nat) : (f.wr F v).fifos = f.fifos := rfl
@[simp] theorem FDie.wr_engs (f : FDie) (F : Fld) (v : Nat) : (f.wr F v).engs = f.engs := rfl
@[simp] theorem FDie.wr_forcing (f : FDie) (F : Fld) (v : Nat) : (f.wr F v).forcing = f.forcing := rfl
@[simp] theorem FDie.wr_plan (f : FDie) (F : Fld) (v : Nat) : (f.wr F v).plan = f.plan := rfl
@[simp] theorem FDie.wr_slices (f : FDie) (F : Fld) (v : Nat) : (f.wr F v).slices = f.slices := rfl
@[simp] theorem FDie.wr_imgRx (f : FDie) (F : Fld) (v : Nat) : (f.wr F v).imgRx = f.imgRx := rfl
@[simp] theorem FDie.wr_safeSnap (f : FDie) (F : Fld) (v : Nat) : (f.wr F v).safeSnap = f.safeSnap := rfl
@[simp] theorem FDie.wr_high (f : FDie) (F : Fld) (v : Nat) : (f.wr F v).high = f.high := rfl
@[simp] theorem FDie.wr_cans (f : FDie) (F : Fld) (v : Nat) : (f.wr F v).cans = f.cans := rfl
@[simp] theorem FDie.wr_elems (f : FDie) (F : Fld) (v : Nat) : (f.wr F v).elems = f.elems := rfl
@[simp] theorem FDie.wr_grmS (f : FDie) (F : Fld) (v : Nat) : (f.wr F v).grmS = f.grmS := rfl
@[simp] theorem FDie.wr_grmR (f : FDie) (F : Fld) (v : Nat) : (f.wr F v).grmR = f.grmR := rfl
@[simp] theorem FDie.wr_stage (f : FDie) (F : Fld) (v : Nat) : (f.wr F v).stage = f.stage := rfl
@[simp] theorem FDie.wr_upd (f : FDie) (F : Fld) (v : Nat) : (f.wr F v).upd = f.upd := rfl
@[simp] theorem FDie.wr_wakeSeq (f : FDie) (F : Fld) (v : Nat) : (f.wr F v).wakeSeq = f.wakeSeq := rfl
@[simp] theorem FDie.wr_wakeHeld (f : FDie) (F : Fld) (v : Nat) : (f.wr F v).wakeHeld = f.wakeHeld := rfl
@[simp] theorem FDie.wr_feeds (f : FDie) (F : Fld) (v : Nat) : (f.wr F v).feeds = f.feeds := rfl
@[simp] theorem FDie.wr_warnHold (f : FDie) (F : Fld) (v : Nat) : (f.wr F v).warnHold = f.warnHold := rfl
@[simp] theorem FDie.wr_asks (f : FDie) (F : Fld) (v : Nat) : (f.wr F v).asks = f.asks := rfl
@[simp] theorem FDie.wr_mems (f : FDie) (F : Fld) (v : Nat) : (f.wr F v).mems = f.mems := rfl
@[simp] theorem FDie.wr_outs (f : FDie) (F : Fld) (v : Nat) : (f.wr F v).outs = f.outs := rfl
@[simp] theorem FDie.wr_waits (f : FDie) (F : Fld) (v : Nat) : (f.wr F v).waits = f.waits := rfl
@[simp] theorem FDie.wr_rom (f : FDie) (F : Fld) (v : Nat) : (f.wr F v).rom = f.rom := rfl
@[simp] theorem FDie.wr_romSeq (f : FDie) (F : Fld) (v : Nat) : (f.wr F v).romSeq = f.romSeq := rfl
@[simp] theorem FDie.wr_version (f : FDie) (F : Fld) (v : Nat) : (f.wr F v).version = f.version := rfl
@[simp] theorem FDie.wr_dueImage (f : FDie) (F : Fld) (v : Nat) : (f.wr F v).dueImage = f.dueImage := rfl
@[simp] theorem FDie.wr_fvio (f : FDie) (F : Fld) (v : Nat) : (f.wr F v).fvio = f.fvio := rfl
@[simp] theorem FDie.wr_free (f : FDie) (F : Fld) (v : Nat) : (f.wr F v).free = f.free := rfl
@[simp] theorem FDie.wr_regs (f : FDie) (F : Fld) (v : Nat) : (f.wr F v).regs = regPut f.regs F v := rfl
@[simp] theorem FDie.raise_eq (f : FDie) (F : Fld) : f.raise F = f.wr F 1 := rfl
@[simp] theorem FDie.bump_eq (f : FDie) (F : Fld) (n : Nat) : f.bump F n = f.wr F (min (f.rd F + n) (2 ^ F.width - 1)) := rfl

/-! ### The hub writes host memory -/

@[simp] theorem HDie.dma_regs (h : HDie) (a : Nat) (bs : List Byte) : (h.dma a bs).regs = h.regs := rfl
@[simp] theorem HDie.dma_hiHold (h : HDie) (a : Nat) (bs : List Byte) : (h.dma a bs).hiHold = h.hiHold := rfl
@[simp] theorem HDie.dma_hiCap (h : HDie) (a : Nat) (bs : List Byte) : (h.dma a bs).hiCap = h.hiCap := rfl
@[simp] theorem HDie.dma_sw (h : HDie) (a : Nat) (bs : List Byte) : (h.dma a bs).sw = h.sw := rfl
@[simp] theorem HDie.dma_ports (h : HDie) (a : Nat) (bs : List Byte) : (h.dma a bs).ports = h.ports := rfl
@[simp] theorem HDie.dma_spurs (h : HDie) (a : Nat) (bs : List Byte) : (h.dma a bs).spurs = h.spurs := rfl
@[simp] theorem HDie.dma_red (h : HDie) (a : Nat) (bs : List Byte) : (h.dma a bs).red = h.red := rfl
@[simp] theorem HDie.dma_brg (h : HDie) (a : Nat) (bs : List Byte) : (h.dma a bs).brg = h.brg := rfl
@[simp] theorem HDie.dma_tb (h : HDie) (a : Nat) (bs : List Byte) : (h.dma a bs).tb = h.tb := rfl
@[simp] theorem HDie.dma_flt (h : HDie) (a : Nat) (bs : List Byte) : (h.dma a bs).flt = h.flt := rfl
@[simp] theorem HDie.dma_spl (h : HDie) (a : Nat) (bs : List Byte) : (h.dma a bs).spl = h.spl := rfl
@[simp] theorem HDie.dma_boot (h : HDie) (a : Nat) (bs : List Byte) : (h.dma a bs).boot = h.boot := rfl
@[simp] theorem HDie.dma_upd (h : HDie) (a : Nat) (bs : List Byte) : (h.dma a bs).upd = h.upd := rfl
@[simp] theorem HDie.dma_age (h : HDie) (a : Nat) (bs : List Byte) : (h.dma a bs).age = h.age := rfl
@[simp] theorem HDie.dma_mems (h : HDie) (a : Nat) (bs : List Byte) : (h.dma a bs).mems = h.mems := rfl
@[simp] theorem HDie.dma_free (h : HDie) (a : Nat) (bs : List Byte) : (h.dma a bs).free = h.free := rfl
@[simp] theorem HDie.dma_hostMem (h : HDie) (a : Nat) (bs : List Byte) : (h.dma a bs).hostq.hostMem = cellsPut h.hostq.hostMem a bs := rfl
@[simp] theorem HDie.dma_rd (h : HDie) (a : Nat) (bs : List Byte) (F : Fld) : (h.dma a bs).rd F = h.rd F := rfl

/-! ### A message waits for the barrier -/

@[simp] theorem HDie.toField_regs (h : HDie) (m : BarMsg) : (h.toField m).regs = h.regs := rfl
@[simp] theorem HDie.toField_hiHold (h : HDie) (m : BarMsg) : (h.toField m).hiHold = h.hiHold := rfl
@[simp] theorem HDie.toField_hiCap (h : HDie) (m : BarMsg) : (h.toField m).hiCap = h.hiCap := rfl
@[simp] theorem HDie.toField_hostq (h : HDie) (m : BarMsg) : (h.toField m).hostq = h.hostq := rfl
@[simp] theorem HDie.toField_sw (h : HDie) (m : BarMsg) : (h.toField m).sw = h.sw := rfl
@[simp] theorem HDie.toField_ports (h : HDie) (m : BarMsg) : (h.toField m).ports = h.ports := rfl
@[simp] theorem HDie.toField_spurs (h : HDie) (m : BarMsg) : (h.toField m).spurs = h.spurs := rfl
@[simp] theorem HDie.toField_red (h : HDie) (m : BarMsg) : (h.toField m).red = h.red := rfl
@[simp] theorem HDie.toField_tb (h : HDie) (m : BarMsg) : (h.toField m).tb = h.tb := rfl
@[simp] theorem HDie.toField_flt (h : HDie) (m : BarMsg) : (h.toField m).flt = h.flt := rfl
@[simp] theorem HDie.toField_spl (h : HDie) (m : BarMsg) : (h.toField m).spl = h.spl := rfl
@[simp] theorem HDie.toField_boot (h : HDie) (m : BarMsg) : (h.toField m).boot = h.boot := rfl
@[simp] theorem HDie.toField_upd (h : HDie) (m : BarMsg) : (h.toField m).upd = h.upd := rfl
@[simp] theorem HDie.toField_age (h : HDie) (m : BarMsg) : (h.toField m).age = h.age := rfl
@[simp] theorem HDie.toField_mems (h : HDie) (m : BarMsg) : (h.toField m).mems = h.mems := rfl
@[simp] theorem HDie.toField_free (h : HDie) (m : BarMsg) : (h.toField m).free = h.free := rfl
@[simp] theorem HDie.toField_tx (h : HDie) (m : BarMsg) : (h.toField m).brg.bar.tx = h.brg.bar.tx ++ [m] := rfl
@[simp] theorem HDie.toField_rd (h : HDie) (m : BarMsg) (F : Fld) : (h.toField m).rd F = h.rd F := rfl
@[simp] theorem FDie.toHost_variant (f : FDie) (m : BarMsg) : (f.toHost m).variant = f.variant := rfl
@[simp] theorem FDie.toHost_regs (f : FDie) (m : BarMsg) : (f.toHost m).regs = f.regs := rfl
@[simp] theorem FDie.toHost_linkUp (f : FDie) (m : BarMsg) : (f.toHost m).linkUp = f.linkUp := rfl
@[simp] theorem FDie.toHost_held (f : FDie) (m : BarMsg) : (f.toHost m).held = f.held := rfl
@[simp] theorem FDie.toHost_hiHold (f : FDie) (m : BarMsg) : (f.toHost m).hiHold = f.hiHold := rfl
@[simp] theorem FDie.toHost_hiCap (f : FDie) (m : BarMsg) : (f.toHost m).hiCap = f.hiCap := rfl
@[simp] theorem FDie.toHost_tb (f : FDie) (m : BarMsg) : (f.toHost m).tb = f.tb := rfl
@[simp] theorem FDie.toHost_fifos (f : FDie) (m : BarMsg) : (f.toHost m).fifos = f.fifos := rfl
@[simp] theorem FDie.toHost_engs (f : FDie) (m : BarMsg) : (f.toHost m).engs = f.engs := rfl
@[simp] theorem FDie.toHost_forcing (f : FDie) (m : BarMsg) : (f.toHost m).forcing = f.forcing := rfl
@[simp] theorem FDie.toHost_plan (f : FDie) (m : BarMsg) : (f.toHost m).plan = f.plan := rfl
@[simp] theorem FDie.toHost_slices (f : FDie) (m : BarMsg) : (f.toHost m).slices = f.slices := rfl
@[simp] theorem FDie.toHost_imgRx (f : FDie) (m : BarMsg) : (f.toHost m).imgRx = f.imgRx := rfl
@[simp] theorem FDie.toHost_safeSnap (f : FDie) (m : BarMsg) : (f.toHost m).safeSnap = f.safeSnap := rfl
@[simp] theorem FDie.toHost_high (f : FDie) (m : BarMsg) : (f.toHost m).high = f.high := rfl
@[simp] theorem FDie.toHost_cans (f : FDie) (m : BarMsg) : (f.toHost m).cans = f.cans := rfl
@[simp] theorem FDie.toHost_elems (f : FDie) (m : BarMsg) : (f.toHost m).elems = f.elems := rfl
@[simp] theorem FDie.toHost_grmS (f : FDie) (m : BarMsg) : (f.toHost m).grmS = f.grmS := rfl
@[simp] theorem FDie.toHost_grmR (f : FDie) (m : BarMsg) : (f.toHost m).grmR = f.grmR := rfl
@[simp] theorem FDie.toHost_stage (f : FDie) (m : BarMsg) : (f.toHost m).stage = f.stage := rfl
@[simp] theorem FDie.toHost_upd (f : FDie) (m : BarMsg) : (f.toHost m).upd = f.upd := rfl
@[simp] theorem FDie.toHost_wakeSeq (f : FDie) (m : BarMsg) : (f.toHost m).wakeSeq = f.wakeSeq := rfl
@[simp] theorem FDie.toHost_wakeHeld (f : FDie) (m : BarMsg) : (f.toHost m).wakeHeld = f.wakeHeld := rfl
@[simp] theorem FDie.toHost_feeds (f : FDie) (m : BarMsg) : (f.toHost m).feeds = f.feeds := rfl
@[simp] theorem FDie.toHost_warnHold (f : FDie) (m : BarMsg) : (f.toHost m).warnHold = f.warnHold := rfl
@[simp] theorem FDie.toHost_asks (f : FDie) (m : BarMsg) : (f.toHost m).asks = f.asks := rfl
@[simp] theorem FDie.toHost_mems (f : FDie) (m : BarMsg) : (f.toHost m).mems = f.mems := rfl
@[simp] theorem FDie.toHost_outs (f : FDie) (m : BarMsg) : (f.toHost m).outs = f.outs := rfl
@[simp] theorem FDie.toHost_waits (f : FDie) (m : BarMsg) : (f.toHost m).waits = f.waits := rfl
@[simp] theorem FDie.toHost_rom (f : FDie) (m : BarMsg) : (f.toHost m).rom = f.rom := rfl
@[simp] theorem FDie.toHost_romSeq (f : FDie) (m : BarMsg) : (f.toHost m).romSeq = f.romSeq := rfl
@[simp] theorem FDie.toHost_version (f : FDie) (m : BarMsg) : (f.toHost m).version = f.version := rfl
@[simp] theorem FDie.toHost_dueImage (f : FDie) (m : BarMsg) : (f.toHost m).dueImage = f.dueImage := rfl
@[simp] theorem FDie.toHost_fvio (f : FDie) (m : BarMsg) : (f.toHost m).fvio = f.fvio := rfl
@[simp] theorem FDie.toHost_free (f : FDie) (m : BarMsg) : (f.toHost m).free = f.free := rfl
@[simp] theorem FDie.toHost_tx (f : FDie) (m : BarMsg) : (f.toHost m).bar.tx = f.bar.tx ++ [m] := rfl
@[simp] theorem FDie.toHost_rd (f : FDie) (m : BarMsg) (F : Fld) : (f.toHost m).rd F = f.rd F := rfl

/-! ### A fault waits at the collector -/

@[simp] theorem HDie.report_regs (h : HDie) (m : FaultMsg) : (h.report m).regs = h.regs := rfl
@[simp] theorem HDie.report_hiHold (h : HDie) (m : FaultMsg) : (h.report m).hiHold = h.hiHold := rfl
@[simp] theorem HDie.report_hiCap (h : HDie) (m : FaultMsg) : (h.report m).hiCap = h.hiCap := rfl
@[simp] theorem HDie.report_hostq (h : HDie) (m : FaultMsg) : (h.report m).hostq = h.hostq := rfl
@[simp] theorem HDie.report_sw (h : HDie) (m : FaultMsg) : (h.report m).sw = h.sw := rfl
@[simp] theorem HDie.report_ports (h : HDie) (m : FaultMsg) : (h.report m).ports = h.ports := rfl
@[simp] theorem HDie.report_spurs (h : HDie) (m : FaultMsg) : (h.report m).spurs = h.spurs := rfl
@[simp] theorem HDie.report_red (h : HDie) (m : FaultMsg) : (h.report m).red = h.red := rfl
@[simp] theorem HDie.report_brg (h : HDie) (m : FaultMsg) : (h.report m).brg = h.brg := rfl
@[simp] theorem HDie.report_tb (h : HDie) (m : FaultMsg) : (h.report m).tb = h.tb := rfl
@[simp] theorem HDie.report_spl (h : HDie) (m : FaultMsg) : (h.report m).spl = h.spl := rfl
@[simp] theorem HDie.report_boot (h : HDie) (m : FaultMsg) : (h.report m).boot = h.boot := rfl
@[simp] theorem HDie.report_upd (h : HDie) (m : FaultMsg) : (h.report m).upd = h.upd := rfl
@[simp] theorem HDie.report_age (h : HDie) (m : FaultMsg) : (h.report m).age = h.age := rfl
@[simp] theorem HDie.report_mems (h : HDie) (m : FaultMsg) : (h.report m).mems = h.mems := rfl
@[simp] theorem HDie.report_free (h : HDie) (m : FaultMsg) : (h.report m).free = h.free := rfl
@[simp] theorem HDie.report_inbox (h : HDie) (m : FaultMsg) : (h.report m).flt.inbox = h.flt.inbox ++ [m] := rfl
@[simp] theorem HDie.report_rd (h : HDie) (m : FaultMsg) (F : Fld) : (h.report m).rd F = h.rd F := rfl

end Sys2Proof.Machine
end

