-- ==== Sys2Proof/Laws/Steps.lean ====
section
/-! SUPPORT. What the ways of performing a command answer, and what sending across the barrier leaves alone. -/
namespace Sys2Proof.Machine

/-! ### Sending across the barrier -/

@[simp] theorem carryH_pending (s : State) : (carryH s).pending = s.pending := by unfold carryH; split <;> rfl
@[simp] theorem carryH_f (s : State) : (carryH s).f = s.f := by unfold carryH; split <;> rfl
@[simp] theorem carryH_toH (s : State) : (carryH s).link.toH = s.link.toH := by unfold carryH; split <;> rfl
@[simp] theorem carryH_hostq (s : State) : (carryH s).h.hostq = s.h.hostq := by unfold carryH; split <;> rfl
@[simp] theorem carryF_pending (s : State) : (carryF s).pending = s.pending := by unfold carryF; split <;> rfl
@[simp] theorem carryF_h (s : State) : (carryF s).h = s.h := by unfold carryF; split <;> rfl
@[simp] theorem carryF_toF (s : State) : (carryF s).link.toF = s.link.toF := by unfold carryF; split <;> rfl

/-- With nothing to send nothing changes. -/
theorem carryH_idle (s : State) (h : s.h.brg.bar.tx = []) : carryH s = s := by simp [carryH, h]

/-- While the link is down nothing is sent. -/
theorem carryH_down (s : State) (h : s.h.rd Reg.BAR_STAT_UP = 0) : carryH s = s := by
  unfold carryH; split
  · rfl
  · rename_i n; simp [show regGet s.h.regs Reg.BAR_STAT_UP = 0 from h] at n

/-- Without requests to peers nothing leaves. -/
theorem HDie.settle_idle (h : HDie) (hp : h.spl.peerOut = []) : h.settle = h := by
  unfold HDie.settle; rw [hp]; simp only [sendPeers]
  obtain ⟨_, _, _, _, _, _, _, _, _, _, _, spl, _⟩ := h; cases spl; simp_all

/-! ### The ways of performing a command -/

theorem onH_eq {f : HDie → HDie} {s : State} {h : HDie} (hr : s.h.boot.inReset = false) (e : f s.h = h) : onH f s = .next (afterHost s h) := by
  subst e; simp [onH, hr, afterHost]

theorem onHost_eq {g : State → State} {s u : State} (hr : s.h.boot.inReset = false) (e : g s = u) : onHost g s = .next (afterSplit s u) := by
  subst e; simp [onHost, onEach, hr, afterSplit]

theorem onSplit_eq {g : State → State} {s u : State} (e : g s = u) : onSplit g s = .next (afterSplit s u) := by subst e; rfl

theorem onField_eq {g : FDie → FDie} {s : State} {f : FDie} (e : g s.f = f) : onField g s = .next (afterField s f) := by subst e; rfl

/-- An event of a unit that runs in RUN acts there, and nowhere else (Table 13.1). -/
theorem onE_eq {g : FDie → FDie} {s : State} {f : FDie} (p : s.f.power = 0) (e : g s.f = f) : onE g s = .next (afterField s f) :=
  onField_eq (by simp [p, e])

theorem onE_off {g : FDie → FDie} {s : State} (p : s.f.power ≠ 0) : onE g s = .next (afterField s s.f) := onField_eq (by simp [p])

/-- An event of a unit that runs in STANDBY too acts in both (Table 13.1). -/
theorem onStandby_eq {g : FDie → FDie} {s : State} {f : FDie} (p : s.f.power ≤ 1) (e : g s.f = f) : onStandby g s = .next (afterField s f) :=
  onField_eq (by simp [p, e])

theorem onStandby_off {g : FDie → FDie} {s : State} (p : 1 < s.f.power) : onStandby g s = .next (afterField s s.f) :=
  onField_eq (by simp [Nat.not_le.mpr p])

/-- An access of software ends STANDBY, and finds nothing in SLEEP (R321, R322). -/
theorem onWrite_eq {g : FDie → FDie} {s : State} {f : FDie} (p : s.f.power ≤ 1) (e : g s.f.toRun = f) : onWrite g s = .next (afterField s f) :=
  onField_eq (by simp [p, e])

theorem onWrite_off {g : FDie → FDie} {s : State} (p : 1 < s.f.power) : onWrite g s = .next (afterField s s.f) :=
  onField_eq (by simp [Nat.not_le.mpr p])

/-- A register of a unit that the variant has is written as its command says. -/
theorem onUnit_eq {absent : FDie → Bool} {g : FDie → FDie} {s : State} {f : FDie} (p : s.f.power ≤ 1) (ha : absent s.f.toRun = false)
    (e : g s.f.toRun = f) : onUnit absent g s = .next (afterField s f) := onWrite_eq p (by simp [ha, e])

/-- A register of a unit that the variant lacks ignores its command (R3). -/
theorem onUnit_absent {absent : FDie → Bool} {g : FDie → FDie} {s : State} (p : s.f.power ≤ 1) (ha : absent s.f.toRun = true) :
    onUnit absent g s = .next (afterField s s.f.toRun) := onWrite_eq p (by simp [ha])

theorem onF_eq {g : FDie → FDie} {s : State} {f : FDie} (e : g s.f = f) : onF g s = .next (carryF { s with f := f }) := by subst e; rfl

theorem onEach_eq {g : State → State} {s u : State} (e : g s = u) : onEach g s = .next (afterBoth s u) := by subst e; rfl

theorem onBoth_eq {g : State → State} {s u : State} (hr : s.h.boot.inReset = false) (e : g s = u) : onBoth g s = .next (afterBoth s u) := by
  subst e; simp [onBoth, onEach, hr, afterBoth]

/-- A good message at the host die. -/
theorem onTakeH_eq {g : HDie → HDie} {t : Nat} {m : BarMsg} {s : State} (hr : s.h.boot.inReset = false) (hu : s.h.rd Reg.BAR_STAT_UP ≠ 0)
    (hb : msgBad false t m = false) : onTakeH t m g s = .next (afterBoth s ((hostTook t m s).withH (g (hostTook t m s).h))) := by
  refine onBoth_eq hr ?_
  simp [takeH, HDie.on, hu, hb, hostTook]

/-- A good message at the field die. -/
theorem onTakeF_eq {g : FDie → FDie} {t : Nat} {m : BarMsg} {s : State} (hu : s.f.linkUp = true) (hb : msgBad true t m = false)
    (hc : (t == 0x40 && s.f.cyclicStream m) = false) :
    onTakeF t m g s = .next (afterField (fieldTook t m s) (g (fieldTook t m s).f)) := by
  have e : takeF t m g s = (fieldTook t m s).withF (g (fieldTook t m s).f) := by
    have hbad : (msgBad true t m || (t == 0x40 && ({ s.f with bar := s.f.bar.credits t m } : FDie).cyclicStream m)) = false := by
      rw [hb, Bool.false_or]; exact hc
    unfold takeF
    rw [if_neg (by simp [hu])]
    simp only [hbad, Bool.false_eq_true, if_false, fieldTook]
    split <;> rfl
  simp only [onTakeF, e]; rfl

/-- In chip reset a host-die command changes nothing (R433). -/
theorem onH_reset {f : HDie → HDie} {s : State} (hr : s.h.boot.inReset = true) : onH f s = .next s := by simp [onH, hr]

end Sys2Proof.Machine
end

