-- ==== Sys2Proof/Laws/Engine.lean ====
section
/-! SUPPORT. What issuing an engine instruction does: all that the commands of chapter 11 share. -/
namespace Sys2Proof.Machine

/-- An engine that issues performs the command's part on the field die that the fetch left (R276). -/
theorem FDie.issue_issued {f : FDie} {n op : Nat} {g : Nat → FDie → FDie} (h : f.issues n op) : f.issue n op g = g (f.fetch n) (f.issued n) := by
  obtain ⟨a, b, c, d, e, k, l⟩ := h
  unfold FDie.issue FDie.issued
  simp [a, b, c, d, e, k]
  intro h1 h2
  simp_all

/-- An engine that is not RUNNING issues nothing. -/
theorem FDie.issue_not_running {f : FDie} {n op : Nat} {g : Nat → FDie → FDie} (h : f.er Reg.MAR_ESTAT_STATE n ≠ 1) : f.issue n op g = f := by
  unfold FDie.issue; simp [h]

/-- An operation that meets no other at its FIFO leaves the outcome of the last meeting. -/
theorem FDie.meets_none (f : FDie) (q : Nat) (b : Bool) : f.meets q b false = f := by simp [FDie.meets]

end Sys2Proof.Machine
end

