-- ==== Sys2Proof/Laws/Field.lean ====
section
/-! SUPPORT. What a register write leaves of the field die's hidden contexts, and what replacing a context leaves of its registers. -/
namespace Sys2Proof.Machine

@[simp] theorem FDie.wr_can (f : FDie) (F : Fld) (v n : Nat) : (f.wr F v).can n = f.can n := rfl
@[simp] theorem FDie.wr_eng (f : FDie) (F : Fld) (v n : Nat) : (f.wr F v).eng n = f.eng n := rfl
@[simp] theorem FDie.wr_elem (f : FDie) (F : Fld) (v k : Nat) : (f.wr F v).elem k = f.elem k := rfl
@[simp] theorem FDie.wr_fifo (f : FDie) (F : Fld) (v q : Nat) : (f.wr F v).fifo q = f.fifo q := rfl
@[simp] theorem FDie.wr_rule (f : FDie) (F : Fld) (v r : Nat) : (f.wr F v).rule r = f.rule r := rfl
@[simp] theorem FDie.wr_src (f : FDie) (F : Fld) (v i : Nat) : (f.wr F v).src i = f.src i := rfl
@[simp] theorem FDie.setCan_rd (f : FDie) (n : Nat) (c : CanCtx) (F : Fld) : (f.setCan n c).rd F = f.rd F := rfl
@[simp] theorem FDie.setCan_elem (f : FDie) (n k : Nat) (c : CanCtx) : (f.setCan n c).elem k = f.elem k := rfl
@[simp] theorem FDie.setElem_rd (f : FDie) (k : Nat) (ws : List Nat) (F : Fld) : (f.setElem k ws).rd F = f.rd F := rfl
@[simp] theorem FDie.setElem_can (f : FDie) (k n : Nat) (ws : List Nat) : (f.setElem k ws).can n = f.can n := rfl
@[simp] theorem FDie.setFeed_rd (f : FDie) (n : Nat) (c : FeedCtx) (F : Fld) : (f.setFeed n c).rd F = f.rd F := rfl

end Sys2Proof.Machine
end

