-- ==== Sys2Proof/Laws/Memory.lean ====
section
/-! SUPPORT. Host memory as the hub wrote it: a byte reads as it was last written, other bytes stay, and every operation keeps the canonical form. -/
namespace Sys2Proof.Machine

/-- The byte placed is the byte found. -/
@[simp] theorem cellGet_cellPut_same (m : List Host.Cell) (a : Nat) (b : Byte) : cellGet (cellPut m a b) a = some b := by
  induction m with
  | nil => simp [cellPut, cellGet]
  | cons e m ih =>
    obtain ⟨x, c⟩ := e; simp only [cellPut]; split
    · simp [cellGet]
    · split
      · simp [cellGet]
      · rename_i h1 h2; simp [cellGet, Ne.symm h2, ih]

/-- Placing a byte leaves every other address as it was. -/
theorem cellGet_cellPut_other (m : List Host.Cell) (a x : Nat) (b : Byte) (h : x ≠ a) : cellGet (cellPut m a b) x = cellGet m x := by
  induction m with
  | nil => simp [cellPut, cellGet, Ne.symm h]
  | cons e m ih =>
    obtain ⟨y, c⟩ := e; simp only [cellPut]; split
    · simp [cellGet, Ne.symm h]
    · split
      · rename_i _ h2; subst h2; simp [cellGet, Ne.symm h]
      · simp [cellGet, ih]

/-- Placing bytes leaves every address outside them as it was. -/
theorem cellGet_cellsPut_outside (bs : List Byte) (m : List Host.Cell) (a x : Nat) (h : x < a ∨ a + bs.length ≤ x) :
    cellGet (cellsPut m a bs) x = cellGet m x := by
  induction bs generalizing m a with
  | nil => rfl
  | cons b bs ih =>
    simp only [List.length_cons] at h
    simp only [cellsPut]
    rw [ih (cellPut m a b) (a + 1) (by omega), cellGet_cellPut_other m a x b (by omega)]

/-- Each of the bytes placed is found at its address. -/
theorem cellGet_cellsPut_inside (bs : List Byte) (m : List Host.Cell) (a i : Nat) (h : i < bs.length) :
    cellGet (cellsPut m a bs) (a + i) = some bs[i] := by
  induction bs generalizing m a i with
  | nil => simp at h
  | cons b bs ih =>
    cases i with
    | zero =>
      simp only [cellsPut, Nat.add_zero]
      rw [cellGet_cellsPut_outside bs _ _ _ (by omega)]; simp
    | succ i =>
      simp only [cellsPut]
      have := ih (cellPut m a b) (a + 1) i (by simpa using h)
      rw [show a + (i + 1) = a + 1 + i by omega]; simpa using this

theorem Memory.wf_cons (a : Nat) (c : Byte) (m : List Host.Cell) :
    Memory.wf ((a, c) :: m) = true ↔ (∀ e ∈ m, a < e.1) ∧ Memory.wf m = true := by
  induction m generalizing a c with
  | nil => simp [Memory.wf]
  | cons e m ih =>
    obtain ⟨b, w⟩ := e
    simp only [Memory.wf, Bool.and_eq_true, decide_eq_true_eq]
    constructor
    · rintro ⟨hab, hw⟩
      refine ⟨?_, hw⟩
      intro x hx
      rcases List.mem_cons.1 hx with rfl | hx
      · exact hab
      · exact Nat.lt_trans hab (((ih b w).1 hw).1 x hx)
    · rintro ⟨ha, hw⟩
      exact ⟨ha (b, w) (List.mem_cons_self ..), hw⟩

theorem Memory.mem_cellPut {m : List Host.Cell} {a : Nat} {b : Byte} {e : Host.Cell} (h : e ∈ cellPut m a b) : e = (a, b) ∨ e ∈ m := by
  induction m with
  | nil => simpa [cellPut] using h
  | cons x m ih =>
    obtain ⟨y, c⟩ := x; simp only [cellPut] at h
    split at h
    · simpa using h
    · split at h
      · rcases List.mem_cons.1 h with h | h
        · exact .inl h
        · exact .inr (List.mem_cons_of_mem _ h)
      · rcases List.mem_cons.1 h with h | h
        · exact .inr (h ▸ List.mem_cons_self ..)
        · rcases ih h with h | h
          · exact .inl h
          · exact .inr (List.mem_cons_of_mem _ h)

/-- Placing a byte keeps the form. -/
theorem Memory.wf_cellPut {m : List Host.Cell} (a : Nat) (b : Byte) (h : Memory.wf m = true) : Memory.wf (cellPut m a b) = true := by
  induction m with
  | nil => rfl
  | cons x m ih =>
    obtain ⟨y, c⟩ := x
    have h' := (Memory.wf_cons y c m).1 h
    simp only [cellPut]; split
    · rename_i hlt
      refine (Memory.wf_cons _ _ _).2 ⟨?_, h⟩
      intro e he
      rcases List.mem_cons.1 he with rfl | he
      · exact hlt
      · exact Nat.lt_trans hlt (h'.1 e he)
    · split
      · rename_i _ heq; subst heq; exact (Memory.wf_cons _ _ _).2 h'
      · rename_i h1 h2
        refine (Memory.wf_cons _ _ _).2 ⟨?_, ih h'.2⟩
        intro e he
        rcases Memory.mem_cellPut he with rfl | he
        · show y < a; omega
        · exact h'.1 e he

/-- Placing bytes keeps the form. -/
theorem Memory.wf_cellsPut (bs : List Byte) {m : List Host.Cell} (a : Nat) (h : Memory.wf m = true) : Memory.wf (cellsPut m a bs) = true := by
  induction bs generalizing m a with
  | nil => exact h
  | cons b bs ih => exact ih (a + 1) (Memory.wf_cellPut a b h)

/-- A DMA write keeps the form. -/
theorem HDie.dma_wf (h : HDie) (a : Nat) (bs : List Byte) (w : Memory.wf h.hostq.hostMem = true) : Memory.wf (h.dma a bs).hostq.hostMem = true :=
  Memory.wf_cellsPut bs a w

/-- Memory lists nothing at reset, which is in the form. -/
theorem reset_memory_wf : Memory.wf State.reset.h.hostq.hostMem = true := rfl

end Sys2Proof.Machine
end

