-- ==== Sys2Proof/Machine/Lanes.lean ====
section
/-! DEFINITION. What the lanes of the ring ports and the spurs send, read off the state: link control words (R101, R102), the transmissions of Table 4.4, test
patterns (R124, R134) and loopback (R127). -/
namespace Sys2Proof.Machine

/-- A link control word (Table 4.2). -/
def lcw (typ content : Nat) : Nat := typ * 2 ^ 20 + content

/-- The content of the CONFIG and CONFIG_ACK words that port p sends (Table 4.2): the hub's number, 0x7F when unnumbered, the port, version 1, its FEC setting. -/
def HDie.configOut (h : HDie) (p : Nat) : Nat := h.self * 2 ^ 13 + p * 2 ^ 12 + 2 ^ 8 + h.rd (Reg.RNG_PCFG_FEC p) * 2 ^ 7

/-- The link control words that lane l of port p sends by turns (R102, R108): from ACQUIRE to the end of TRAIN the receiver's word, TRAIN_REQ or TRAIN_DONE once it is
satisfied, and the transmitter's, TRAIN_STS; in CONFIG, CONFIG or CONFIG_ACK once a compatible CONFIG came; RESTART for 10 µs after RETRAIN. -/
def HDie.lcws (h : HDie) (p l : Nat) : List Nat :=
  let c := h.port p
  match h.pst p with
  | 1 => if c.restart then [lcw 6 0] else []
  | 2 | 3 | 4 => [if c.doneTx.getD l false then lcw 3 0 else lcw 1 (c.reqOut.getD l 0), lcw 2 (c.stsOut.getD l 0)]
  | 5 => [lcw (if c.ackSent then 5 else 4) (h.configOut p)]
  | _ => []

/-- What a lane sends (Tables 4.1 and 4.4, R124, R127): electrical idle; the training pattern, or idle, with link control words; frames, idle and alignment markers;
RF in every block position but the markers'; a test pattern; or what its receiver gets, retimed. -/
inductive LaneOut where
  | electricalIdle
  | training (words : List Nat)
  | idle (words : List Nat)
  | traffic
  | remoteFault
  | pattern (n : Nat)
  | echo
  deriving DecidableEq, Repr

/-- A test pattern by its number (R124): 0 and 7 are electrical idle. -/
def patternOut (n : Nat) : LaneOut := if n = 0 || 7 ≤ n then .electricalIdle else .pattern n

/-- What lane l of port p sends (Table 4.4): in chip reset electrical idle (Table 20.1). In TEST, far loopback sends back what it receives, else the pattern of PRBS_MODE; near loopback alone sends the coded idle of
the port to its own receivers (log 163). -/
def HDie.laneOut (h : HDie) (p l : Nat) : LaneOut :=
  if h.boot.inReset then .electricalIdle
  else match h.pst p with
  | 1 | 2 | 3 | 4 => .training (h.lcws p l)
  | 5 => .idle (h.lcws p l)
  | 6 => .traffic
  | 7 => if (h.port p).sendsRf then .remoteFault else .idle []
  | 8 =>
    if h.rd (Reg.RNG_PCFG_LPBK p) = 2 then .echo
    else if h.on (Reg.RNG_PCFG_PRBS_MODE p) then patternOut (h.rd (Reg.RNG_LCFG_PRBS p l))
    else .idle []
  | _ => .electricalIdle

/-- Where the receiver of a lane of port p gets its data (R127): from its own transmitter in near loopback, else from the link. -/
def HDie.loopsBack (h : HDie) (p : Nat) : Bool := h.pst p == 8 && h.rd (Reg.RNG_PCFG_LPBK p) == 1

/-- What the lane of spur s sends (R124, R134). -/
def HDie.spurOut (h : HDie) (s : Nat) : LaneOut :=
  if h.boot.inReset || !h.on (Reg.SPU_CFG_EN s) || !((h.spurs.getD s { lane := false, injFcs := false, nowFcs := false, hit := false }).lane) then .electricalIdle
  else if h.on (Reg.SPU_CFG_PRBS_MODE s) then patternOut (h.rd (Reg.SPU_CFG_PRBS s))
  else .traffic

/-- Whether the PCIe transmitters are in electrical idle (R440): in chip reset, until PERST_N is high, and in the remote role always. -/
def HDie.pcieIdle (h : HDie) : Bool := h.boot.inReset || !h.hostAttached || !h.boot.perst

/-- Whether the QSPI chip select is held high (R440): in chip reset. -/
def HDie.qspiHeld (h : HDie) : Bool := h.boot.inReset

/-- The two taps of a pseudo-random pattern (R124): bit k is the sum of the bits that many places before it. -/
def prbsTaps (n : Nat) : Option (Nat × Nat) :=
  match n with
  | 1 => some (7, 6)
  | 2 => some (9, 5)
  | 3 => some (15, 14)
  | 4 => some (23, 18)
  | 5 => some (31, 28)
  | _ => none

/-- The next bit of pattern n after `sent`, the bits sent so far, the latest first (R124): the square wave has 8 ones and 8 zeros by turns.
ITU-T O.150 sends PRBS15, PRBS23 and PRBS31 inverted (log 185). -/
def nextBit (n : Nat) (sent : List Bool) : Bool :=
  match prbsTaps n with
  | some (a, b) => xor (3 ≤ n) (xor (sent.getD (a - 1) false) (sent.getD (b - 1) false))
  | none => n = 6 && sent.length / 8 % 2 = 0

/-- `k` more bits of pattern n, the latest first. -/
def patternBits (n : Nat) : Nat → List Bool → List Bool
  | 0, sent => sent
  | k + 1, sent => patternBits n k (nextBit n sent :: sent)

end Sys2Proof.Machine
end

