-- ==== Sys2Proof/WellFormed.lean ====
section
/-! DEFINITION. Which terms are commands that the outside can give: what their operands must satisfy beyond their types. -/
namespace Sys2Proof

/-- The payload of a frame is as long as its header's LEN says, and no longer than 9,728 bytes (R115, Table 4.9). -/
def Frame.ok (f : Frame) : Bool := f.payload.length == f.hdr.w2.fld 0 14 && f.payload.length ≤ 9728

/-- An access of the core has 1 to 256 bytes, and a write has them all (R72). -/
def coreOk (x : Sum (Fin 64) CoreAcc) (wr : Bool) : Bool :=
  match x with
  | .inl _ => true
  | .inr c => 1 ≤ c.len && c.len ≤ 256 && c.addr < 2 ^ 44 && c.data.length == (if wr then c.len else 0)

/-- What a read of host memory for a descriptor returned: at most the longest frame (R70). -/
def readOk (r : Option (List Byte)) : Bool :=
  match r with
  | none => true
  | some b => b.length ≤ 9728

/-- What a fetch of an output map's slot returned: at most an image (R76, R79). -/
def sliceOk (r : Option (Nat × List Byte × Nat)) : Bool :=
  match r with
  | none => true
  | some x => x.2.1.length ≤ 4096

/-- A PCIe request to BAR2 has 1 to 8 bytes. -/
def bar2Ok (r : Bar2) : Bool := 1 ≤ r.len && r.len ≤ 8

/-- No number stands twice. -/
def distinct : List Nat → Bool
  | [] => true
  | a :: r => !r.contains a && distinct r

/-- The command is one that the outside can give. -/
def WellFormed (i : Instr) : Bool :=
  match i with
  | .barrierLinkLost _ _ => true
  | .fieldSafeTimeExpiry => true
  | .restRequest => true
  | .restExitRequest => true
  | .restExitComplete => true
  | .bar0Access _ wr _ len data => data.length == (if wr then len else 0)
  | .bar4Access wr _ be data => !be.isEmpty && data.length == (if wr then be.length else 0)
  | .sqTailDoorbell r => r.a.toNat < 0x400 && bar2Ok r
  | .cqHeadDoorbell r => 0x400 ≤ r.a.toNat && r.a.toNat < 0x800 && bar2Ok r
  | .eqHeadDoorbell r => 0x800 ≤ r.a.toNat && bar2Ok r
  | .brgWinWrite _ _ => true
  | .brgVepWrite _ _ => true
  | .blockLockSet _ => true
  | .registerWrite _ _ => true
  | .queueEnable _ _ _ => true
  | .sqDisable _ => true
  | .descriptorFetch _ ds => ds.length ≤ 8
  | .fetchDmaFailure _ => true
  | .sendFrame _ read => readOk read
  | .remoteWrite from_ read => coreOk from_ true && readOk read
  | .remoteRead from_ _ => coreOk from_ false
  | .remoteWriteAck from_ read => coreOk from_ true && readOk read
  | .fence _ => true
  | .launchAt _ read => readOk read
  | .launchTimeReached => true
  | .cyclicMap _ => true
  | .rxBuffer _ _ => true
  | .haReply _ => true
  | .nop _ => true
  | .inputMapMissing _ _ => true
  | .outputMapFetch _ _ r => sliceOk r
  | .rxRecordHoldTimeout _ => true
  | .completionWriteFailure _ => true
  | .interruptTimerExpiry _ => true
  | .pcieReset _ => true
  | .perstDeassert => true
  | .portEnableWrite _ _ => true
  | .portTestModeWrite _ _ _ => true
  | .retrain _ => true
  | .restartPeriodEnd _ => true
  | .portSignalDetected _ => true
  | .portRateDetected _ _ => true
  | .portBlockLock _ _ _ => true
  | .portAmLock _ _ _ _ => true
  | .trainReqReceived _ _ _ => true
  | .trainStsReceived _ _ _ => true
  | .laneEyeReached _ _ _ _ => true
  | .trainDoneReceived _ _ => true
  | .configReceived _ _ => true
  | .configAckReceived _ => true
  | .fecLockTimeout _ => true
  | .trainTimeout _ => true
  | .localFaultCondition _ _ _ => true
  | .remoteFaultDetected _ => true
  | .peerRestartReceived _ => true
  | .faultHoldExpiry _ => true
  | .alignmentMarkerReceived _ _ _ _ _ _ => true
  | .ringFrameHeaderReceived _ _ head _ _ _ => head.length ≤ 104
  | .ringFrameTrailerReceived _ payload _ _ => payload.length ≤ 9728
  | .injectHcrc _ => true
  | .injectCrc _ => true
  | .injectSync _ => true
  | .injectOne _ _ => true
  | .spurInjectOne _ => true
  | .spurInjectFcs _ => true
  | .spurFrameReceived _ payload _ _ _ _ => payload.length ≤ 9728
  | .spurLinkChange _ _ _ _ _ _ _ _ => true
  | .spurEnableWrite _ _ => true
  | .frameTransmitStart _ _ => true
  | .streamEntryAged _ => true
  | .pathStatePeriodic => true
  | .pathStateReceived f => f.ok
  | .memberAbsentTimeout _ => true
  | .syncReceived f _ => f.ok
  | .offsetWaitTimeout => true
  | .leadFollowTimeout => true
  | .leadLostTimeout => true
  | .healthReceived f => f.ok
  | .healthEntryTimeout _ => true
  | .leadConfigWrite _ => true
  | .listenTimerExpiry => true
  | .takeoverDeadline => true
  | .mstRequest => true
  | .handover _ => true
  | .streamLookup _ _ => true
  | .cellLostTimeout _ _ _ => true
  | .planeRetireDrained _ => true
  | .planeEnableWrite _ => true
  | .rateMeasurement _ => true
  | .rateLowTimeout => true
  | .bufferConfigWrite _ _ => true
  | .residueTimeout _ => true
  | .holdTimerExpiry _ => true
  | .holdTimeWrite _ _ => true
  | .watermarkHoldoffExpiry _ => true
  | .planAdmit => true
  | .cyaCheckDone => true
  | .cyclicLaunch => true
  | .fifoPush _ _ _ => true
  | .fifoPop _ _ => true
  | .fifoCommit _ _ => true
  | .fifoSoftwareRead _ _ => true
  | .fifoSoftwareWrite _ _ _ => true
  | .fifoEnableWrite _ _ => true
  | .requestReceived f => f.ok
  | .responseReceived f => f.ok
  | .retryReceived f => f.ok
  | .retryWaitExpiry _ _ => true
  | .completionDeadline _ _ _ => true
  | .orderRecordAged _ _ => true
  | .broadcastWriteReceived f => f.ok
  | .ackPeriod => true
  | .ackReceived f => f.ok
  | .errorReportReceived f => f.ok
  | .postedWriteTimeout _ _ _ => true
  | .credit _ _ => true
  | .creditSend _ => true
  | .time _ => true
  | .timeMessagePeriod => true
  | .wake _ _ => true
  | .fault _ => true
  | .rsp _ _ => true
  | .cycIn _ => true
  | .cycOut _ => true
  | .reqRd _ _ => true
  | .reqWr _ _ => true
  | .stream _ _ => true
  | .imgData _ => true
  | .imgStat _ => true
  | .barrierUndefined _ _ => true
  | .barrierResponseTimeout _ => true
  | .backoffResend _ => true
  | .timIncfrWrite _ => true
  | .timeStep _ => true
  | .timeSet _ => true
  | .timeCapture => true
  | .fieldTimeCapture => true
  | .cycleConfigWrite _ => true
  | .cycleStart => true
  | .fieldCycleStart => true
  | .fieldHoldover => true
  | .ptpFifoReadId _ _ => true
  | .ptpFifoReadSh _ _ => true
  | .clusterEnableWrite _ _ => true
  | .pinWindowWrite _ _ => true
  | .fioCfgWrite _ _ => true
  | .safeClear => true
  | .fvioOutOfRange _ _ => true
  | .inputLevelChange _ _ => true
  | .stringSoftwareSet _ _ _ => true
  | .stringSoftwareClear _ _ _ => true
  | .captureInstant _ => true
  | .imageSliceConfigWrite _ _ _ => true
  | .bankImageApply _ => true
  | .bankOutputSet _ _ => true
  | .bankOutputClear _ _ => true
  | .instructionMemoryWrite _ _ _ _ => true
  | .jmp _ => true
  | .mov _ => true
  | .pull _ _ => true
  | .push _ _ => true
  | .pushLen _ _ => true
  | .shiftOut _ => true
  | .shiftIn _ levels => levels.length ≤ 32
  | .shiftOutNb _ => true
  | .shiftInNb _ levels => levels.length ≤ 32
  | .setPins _ => true
  | .waitPin _ => true
  | .waitPinUntilTimeout _ => true
  | .setString _ _ => true
  | .clrString _ _ => true
  | .waitString _ => true
  | .engAt _ _ => true
  | .atAct _ _ => true
  | .stamp _ => true
  | .irq _ => true
  | .sync _ => true
  | .swap _ => true
  | .forceSwap _ => true
  | .forcedSwapEffect _ => true
  | .canModeWrite _ _ => true
  | .canModeEffect _ => true
  | .busIntegrationDone _ => true
  | .canTimingWrite _ _ _ => true
  | .canFrameReceived _ _ _ bytes _ => bytes.length ≤ 64
  | .canProtocolException _ => true
  | .rxqGetWrite _ _ _ => true
  | .txReq _ _ => true
  | .txCancel _ _ => true
  | .canCommitPoint _ _ => true
  | .canFrameSent _ _ => true
  | .canArbitrationLost _ => true
  | .canError _ _ _ _ _ => true
  | .canLaunchTimeReached _ _ => true
  | .canLateTimeout _ _ => true
  | .streamPoolLoad _ => true
  | .boRecover _ => true
  | .busOffRecoveryDone _ => true
  | .dominantTimeout _ => true
  | .powerRequestRun => true
  | .powerRequestStandby => true
  | .powerRequestSleep => true
  | .fieldClockLocked => true
  | .fwake => true
  | .transceiverModeWrite _ _ => true
  | .goSleepTimerExpiry _ => true
  | .wupDetected _ => true
  | .fvcanUndervoltage => true
  | .fvsupLost => true
  | .nmEnableWrite _ _ => true
  | .nmNeedWrite _ _ => true
  | .keepAliveTimer _ => true
  | .readySleepTimerExpiry _ => true
  | .prepareSleepTimerExpiry _ _ => true
  | .groomSample samples => distinct (samples.map fun x => x.1.val)
  | .groomConfigWrite _ _ _ => true
  | .feedMeasurement _ _ _ _ => true
  | .diodeReading _ _ => true
  | .limitingOnset _ => true
  | .limitingEnd _ => true
  | .faultTimerExpiry _ _ => true
  | .feedEnableWrite _ _ => true
  | .inputGood _ => true
  | .rampTimerExpiry _ => true
  | .fullyOn _ => true
  | .pgDelayExpiry _ _ => true
  | .faultFreePeriod _ => true
  | .coolEnd _ _ => true
  | .vinOutOfRange _ => true
  | .reverseCurrent _ => true
  | .warnHoldExpiry => true
  | .memoryScrubRead _ _ _ _ => true
  | .mergeWriteBack _ _ => true
  | .memoryFlush => true
  | .remapWrite _ _ _ => true
  | .injectionArm _ _ => true
  | .injectionRewrite _ _ => true
  | .faultMessageReceived => true
  | .blockResetCommand _ => true
  | .blockResetDone _ => true
  | .shadowClose _ => true
  | .ladderStepDecay _ => true
  | .pendClear _ => true
  | .fecClear => true
  | .faultInject _ => true
  | .fieldFaultInject _ => true
  | .supplyOutOfRange _ _ => true
  | .junctionOvertemp _ _ => true
  | .clockLoss _ _ => true
  | .watchdog => true
  | .functionConfigWrite _ _ => true
  | .functionStartDone _ => true
  | .functionDrainDone _ => true
  | .haRequestDeadline _ _ => true
  | .coreHaReply _ _ _ _ _ => true
  | .eventFrameReceived f => f.ok
  | .updateStart _ _ _ => true
  | .updateProgram => true
  | .programDone _ => true
  | .updateCheck => true
  | .checkDone => true
  | .updateActivate _ _ => true
  | .classMImageStarted => true
  | .updateConfirm _ _ => true
  | .updateAbort => true
  | .confirmWindowExpiry => true
  | .classFHealthTimeout => true
  | .motionBroadcast => true
  | .motionTimeout => true
  | .ownerWrite _ _ => true
  | .monitorReading _ rs => distinct (rs.map fun x => x.1.val)
  | .cycleTotalUpdate => true
  | .ageingRecordSave _ => true
  | .ageSaveCommand _ _ => true
  | .historyPoint => true
  | .lifeEstimate => true
  | .hostRailLoss _ => true
  | .rstNAssert => true
  | .softReset _ => true
  | .fieldReset => true
  | .jtagReset => true
  | .chipResetRelease _ _ => true
  | .bootImageLoaded => true
  | .fieldPowerOn => true
  | .barrierLinkUp _ => true
  | .hubNumberRequest _ => true
  | .claimResend => true
  | .claimTimeout => true
  | .claimReceived f => f.ok
  | .objectReceived f => f.ok
  | .joinedReceived f => f.ok
  | .joinedPeriod => true
  | .readyWrite _ => true
  | .restEntryComplete => true
  | .fvioInRange _ _ => true
  | .engineNop _ => true
  | .illegalInstruction _ => true
  | .bootRecordWritten => true
  | .prbsLockChange _ _ _ => true
  | .fecLockAcquired _ => true
  | .pcieLinkUp _ _ => true
  | .holdupNRise => true
  | .frameSent _ => true

end Sys2Proof
end

