-- ==== Sys2Proof/Tests/Slice0.lean ====
section
/-! SUPPORT. Tests: ill-formed commands are refused by WellFormed, worked cases of the spec, and for every statement with hypotheses small states that meet them. -/
namespace Sys2Proof.Tests
open Sys2Proof Sys2Proof.Machine
set_option Elab.async false

/-- A host die after reset with some register fields written. -/
def hs (ws : List (Fld × Nat)) : HDie := ws.foldl (fun (h : HDie) w => h.wr w.1 w.2) HDie.clear

/-- A field die after reset with some register fields written. -/
def fs (ws : List (Fld × Nat)) : FDie := ws.foldl (fun (f : FDie) w => f.wr w.1 w.2) FDie.clear

/-- The state after reset with other dies. -/
def st (h : HDie) (f : FDie) : State := { State.reset with h := h, f := f }

/-- A descriptor whose word 1 is `d1`, the other words 0. -/
def desc (d0 d1 : Word) : Desc := { d0 := d0, d1 := d1, d2 := 0, d3 := 0, d4 := 0, d5 := 0, d6 := 0, d7 := 0 }

/-- A header from its first four words. -/
def hdr (w0 w1 w2 w3 : Word) : Hdr := { w0 := w0, w1 := w1, w2 := w2, w3 := w3, w4 := 0, w5 := 0 }

/-- A barrier message of type and tag in `m0`, and `m1`. -/
def msg (m0 m1 : Word) : BarMsg := { m0 := m0, m1 := m1, m2 := 0, m3 := 0, m4 := 0, m5 := 0, m6 := 0, m7 := 0 }

/-! ### The queue, reset, host queues -/

theorem witness_StepPerformsFrontCommand : ({ State.reset with pending := [Instr.rstNAssert] } : State).pending = Instr.rstNAssert :: [] := rfl

theorem witness_StepsAndTheQueue_tick : State.reset.pending = [] ∧ State.reset.h.boot.inReset = false := ⟨rfl, rfl⟩

theorem witness_StepsAndTheQueue_order : 1 ≤ ({ State.reset with pending := [Instr.rstNAssert] } : State).pending.length := by decide

theorem witness_ChipResetHoldsTheHostDie :
    let s := { st { HDie.clear with boot.inReset := true } FDie.clear with pending := [Instr.jtagReset, Instr.swap 0] }
    s.h.heldInReset ∧ (∀ c, ({ s with pending := [Instr.swap 0] } : State).pending.head? = some c → resetCommand c = false) := by
  refine ⟨⟨rfl, rfl, rfl, rfl, rfl, by decide +kernel⟩, ?_⟩
  intro c h; injection h with h; subst h; rfl

theorem witness_ResetTriggersHoldTheHostDie :
    State.reset.h.boot.inReset = false ∧ fieldOf 0xC4A50001 16 16 = 0xC4A5 ∧ bitOf 0xC4A50001 0 = true := by decide +kernel

/-- A host-attached host die with the PCIe link up, and further fields. -/
def up (ws : List (Fld × Nat)) : HDie := { hs ([(Reg.GLB_STATUS_ROLE, 0), (Reg.PCI_LINK_UP, 1)] ++ ws) with boot.inReset := false, hostq.linkUp := true }

theorem witness_Doorbells :
    let h := up [((cqRegs 0).en, 1), ((cqRegs 0).log2, 4), ((cqRegs 64).en, 1), ((cqRegs 64).log2, 4), ((cqRegs 0).tail, 15), (Reg.PCI_SQCFG_EN 63, 1),
      (Reg.PCI_SQCFG_LOG2SIZE 63, 4), (Reg.PCI_SQTAIL_TAIL 63, 2)]
    (h.boot.inReset = false ∧ h.reached 2 = true ∧ (0x1F8 : BitVec 16).toNat = 8 * 63 ∧ (h.brg.nps.filter fun x => x.kind == 1 && x.op == 1).length < 32) ∧
    (HDie.clear.rd (Reg.PCI_SQCFG_EN 63) = 0 ∧ h.sqSize 63 ≤ 16 ∧ 15 < h.sqSize 63 ∧
      (1 + h.sqSize 63 - h.rd (Reg.PCI_SQSTAT_HEAD 63)) % h.sqSize 63 < h.sqAvail 63 ∧ ¬(3 + h.sqSize 63 - h.rd (Reg.PCI_SQSTAT_HEAD 63)) % h.sqSize 63 < h.sqAvail 63) ∧
    (HDie.clear.reached 2 = false ∧ (4 : BitVec 16).toNat % 8 ≠ 0 ∧ 0x808 ≤ (0xFFF8 : BitVec 16).toNat) ∧
    ((0x400 : BitVec 16).toNat = 0x400 + 8 * 0 ∧ h.rd (cqRegs 0).en ≠ 0 ∧ 15 < h.cqSize 0 ∧
      (h.rd (cqRegs 0).tail + h.cqSize 0 - 15) % h.cqSize 0 ≤ (h.rd (cqRegs 0).tail + h.cqSize 0 - (h.cq 0).head) % h.cqSize 0) ∧
    (h.rd (cqRegs 64).en ≠ 0 ∧ 0 < h.cqSize 64 ∧
      (h.rd (cqRegs 64).tail + h.cqSize 64 - 0) % h.cqSize 64 ≤ (h.rd (cqRegs 64).tail + h.cqSize 64 - (h.cq 64).head) % h.cqSize 64) := by decide +kernel

/-- A receive record of class 3. -/
def rec3 : RxRec :=
  { cls := 3, len := 0, trunc := false, untracked := false, stale := false, inbox := false, src := 0, stream := 0, seq := 0, offset := 0, time := 0,
    payload := [], since := 0 }

/-- An output map with identifier 2. -/
def map2 : CMap :=
  { id := 2, dir := 1, notify := false, hub := 1, off := 0, len := 4, haddr := 0, from_ := 0, until_ := none, have_ := [], seen := false, last := [], stale := true, live := true }

theorem witness_QueueEnablesAndFailures :
    let h := up [(Reg.PCI_CQSTAT_ARMED 3, 1), (Reg.PCI_SQCFG_EN 5, 1), (Reg.PCI_SQCFG_LOG2SIZE 5, 4), (Reg.PCI_SQTAIL_TAIL 5, 3), ((cqRegs 0).en, 1),
      ((cqRegs 0).log2, 4), ((cqRegs 64).en, 1)]
    let g := { h.setCq { q := 3, head := 0, unsig := 1, since := 0 } with hostq.held := [rec3], hostq.maps := [map2] }
    let a := g.advance (g.fetchPoint 1)
    (h.hostAttached = true ∧ h.rd (Reg.PCI_SQCFG_EN 0) = 0 ∧ h.rd (Reg.PCI_CQCFG_EN 63) = 0 ∧ 0x1001 % 2 = 1) ∧
    (h.rd Reg.PWM_REST_STATE < 2 ∧ h.fetchable 5 = true) ∧ (h.rd (Reg.PCI_CQCFG_EN 0) ≠ 0 ∧ h.rd Reg.PCI_EQCFG_EN ≠ 0) ∧
    (g.rd (Reg.PCI_CQSTAT_ARMED 3) ≠ 0 ∧ (g.cq 3).unsig ≠ 0) ∧
    ((g.hostq.held.filterMap fun (x : RxRec) => if x.cls == 3 then some x.since else none).min? = some 0) ∧
    (a.hostq.maps.find? (fun m => m.id == 2 && m.dir == 1 && m.live && m.inForce (a.fullOf 1) && !m.have_.contains 1)).map (·.id) = some 2 := by decide +kernel

theorem witness_QueueEnables_events_and_disable :
    let h := up [((cqRegs 3).en, 1), ((cqRegs 9).en, 1), (Reg.PCI_SQCFG_EN 5, 1), (Reg.PCI_SQCFG_CQ 5, 3), (Reg.TIM_CYCLE_EN, 1)]
    (h.hostAttached = true ∧ h.rd (cqRegs 64).en = 0 ∧ h.rd (cqRegs 64).base % 4096 = 0 ∧ 4 ≤ fieldOf 0x0401 8 5 ∧ fieldOf 0x0401 8 5 ≤ 16) ∧
    (h.rd (cqRegs 3).en ≠ 0 ∧ h.rd (Reg.PCI_SQCFG_EN 5) ≠ 0 ∧ h.rd (Reg.PCI_SQCFG_CQ 5) = 3) ∧
    (h.rd (cqRegs 9).en ≠ 0 ∧ ∀ k : Fin 64, h.rd (Reg.PCI_SQCFG_EN k) ≠ 0 → h.rd (Reg.PCI_SQCFG_CQ k) ≠ 9) ∧
    (h.rd Reg.TIM_CYCLE_EN ≠ 0 ∧ h.tb.firstAct ≤ 1) := by decide +kernel

/-- The started descriptor of serial 1 with a given word 0 and 1. -/
def begun (d0 d1 : Word) : Started := { ser := 1, desc := desc d0 d1, slot := 0, phase := 0, status := 0, result := 0, dmaOk := true }

/-- A host die where submission queue 0 has one started descriptor. -/
def withDesc (d0 d1 : Word) : HDie := { HDie.clear with hostq.sqs := [{ q := 0, started := [begun d0 d1], stalled := false }] }

theorem witness_DescriptorFetch :
    let h := up [(Reg.PCI_SQCFG_EN 5, 1), (Reg.PCI_SQCFG_LOG2SIZE 5, 4), (Reg.PCI_SQTAIL_TAIL 5, 3), ((cqRegs 0).en, 1), ((cqRegs 0).log2, 4)]
    (h.boot.inReset = false ∧ h.rd Reg.PWM_REST_STATE < 2 ∧ h.served = some (5, 1, true)) ∧
    (h.rd (Reg.PCI_SQCFG_EN 5) ≠ 0 ∧ h.rd (Reg.PCI_SQSTAT_HALT 5) = 0 ∧ h.sqAvail 5 ≠ 0 ∧ (h.sq 5).started.length < 32 ∧ h.pcieUp = true ∧
      (∀ x ∈ (h.sq 5).started, dOp x.desc = 5 → x.phase = 2) ∧ h.rd (cqRegs 0).halt = 0 ∧ h.cqFull 0 = false ∧
      (∀ k : Fin 64, k.val ≠ 5 → h.fetchable k = false) ∧ h.rd (Reg.PCI_SQCFG_LOG2SIZE 5) ≤ 16 ∧ h.rd (Reg.PCI_SQSTAT_HEAD 5) < h.sqSize 5) := by decide +kernel

/-- LAUNCH_AT of 60 bytes to endpoint 420, at second `sec` modulo 2^32. -/
def launch (sec : Word) : Started :=
  { ser := 1, desc := { desc 6 0x0001A402 with d2 := 0x003C0001, d7 := sec }, slot := 0, phase := 0, status := 0, result := 0, dmaOk := true }

/-- CYCLIC_MAP of `len` bytes. -/
def cyclic (len : Word) : Started := { ser := 1, desc := { desc 7 0 with d2 := len <<< 16 }, slot := 0, phase := 0, status := 0, result := 0, dmaOk := true }

/-- A host die where a started descriptor waits in queue 0. -/
def withStarted (x : Started) : HDie := { HDie.clear with hostq.sqs := [{ q := 0, started := [x], stalled := false }] }

theorem witness_DescriptorsAndLaunches :
    ((withDesc 10 0).current 0 10 = some (begun 10 0) ∧ (withDesc 5 0).current 0 5 = some (begun 5 0) ∧ (withDesc 9 0).current 0 9 = some (begun 9 0)) ∧
    ((withStarted { launch 0 with desc := { (launch 0).desc with d0 := 1 } }).current 0 1 = some { launch 0 with desc := { (launch 0).desc with d0 := 1 } } ∧
      frameBad (launch 0).desc = false) ∧
    ((withStarted (launch 0)).current 0 6 = some (launch 0) ∧ launchTime HDie.clear.tb.now (launch 0).desc ≤ HDie.clear.tb.now ∧
      (launch 0).desc.d1.fld 23 1 = 0) ∧
    (HDie.clear.tb.now < launchTime HDie.clear.tb.now (launch 1).desc ∧ launchTime HDie.clear.tb.now (launch 1).desc ≤ HDie.clear.tb.now + secT ∧
      (match ({ withStarted (launch 1) with regs := (hs [(Reg.GLB_HUBNUM_NUM, 1), (Reg.RNG_PSTAT_STATE 0, 6)]).regs } : HDie).sendFrame (launch 1).desc []
          (some (launchTime 0 (launch 1).desc)) with | (_, b, o) => b = true ∧ o.isSome = true)) ∧
    ((withStarted (cyclic 4097)).current 0 7 = some (cyclic 4097) ∧ 4096 < (mapOf (cyclic 4097).desc).off + (mapOf (cyclic 4097).desc).len) ∧
    ((mapOf (cyclic 4096).desc).off + (mapOf (cyclic 4096).desc).len ≤ 4096 ∧ (mapOf (cyclic 4096).desc).haddr % 64 = 0) ∧
    ((withDesc 8 16384).current 0 8 = some (begun 8 16384) ∧ (desc 8 16384).d1.fld 0 15 % 64 = 0 ∧ 256 ≤ (desc 8 16384).d1.fld 0 15 ∧
      (desc 8 16384).d1.fld 0 15 ≤ 16384 ∧ two (desc 8 16384).d4 (desc 8 16384).d5 % 64 = 0 ∧ (withDesc 8 16384).hostq.held = []) ∧
    (([{ time := 9, fid := 0, q := 0, ser := 1, slot := 0 }] : List Launch).map (·.time)).min? = some 9 := by decide +kernel

/-! ### Rest, functions and places -/

/-- An EVENT frame to this hub: a request (SUB 1) or a reply (SUB 2) of 36 bytes. -/
def eventFrame (sub : Byte) : Frame :=
  { hdr := hdr 0x18000000 (2 <<< 25) 36 0, payload := sub :: List.replicate 35 0 }

/-- A request of function 1. -/
def req1 : HaReq := { func := 1, cookie := 7, detail0 := 0, detail1 := 0, ctx := 0, time := 0, place := 1, posted := true }

theorem witness_RestMovesAndReplies :
    HDie.clear.rd Reg.PWM_REST_STATE = 0 ∧ (hs [(Reg.PWM_REST_STATE, 1)]).rd Reg.PWM_REST_STATE = 1 ∧
    (hs [(Reg.PWM_REST_STATE, 2)]).rd Reg.PWM_REST_STATE = 2 ∧ (hs [(Reg.PWM_REST_STATE, 3)]).rd Reg.PWM_REST_STATE = 3 ∧
    ((hs [(Reg.GLB_STATUS_BOOT, 2)]).coreRuns = true ∧ (5, peerKey 0 7) ∈ [(5, peerKey 0 7)] ∧ replyOk 0 1 0 = true) ∧
    (hType (eventFrame 1).hdr = 8 ∧ (eventFrame 1).payload.length = 36 ∧ fieldOf (beWord (eventFrame 1).payload 0) 24 8 = 1) ∧
    (hType (eventFrame 2).hdr = 8 ∧ (eventFrame 2).payload.length = 36 ∧ fieldOf (beWord (eventFrame 2).payload 0) 24 8 = 2) ∧
    [req1].find? (fun y => y.func == 1 && y.cookie == 7) = some req1 := by decide +kernel

/-- A request of function 1 to the host. -/
def req2 : HaReq := { req1 with place := 2 }

theorem witness_RestMovesAndReplies_deadline :
    let s := st { HDie.clear with spl := { HDie.clear.spl with reqs := [req2] }, tb.now := 5 } FDie.clear
    HDie.clear.findReq 1 7 2 0 = none ∧ s.h.findReq 1 7 2 0 = some req2 ∧ (∃ t, req2.dueAt s = some t ∧ s.h.tb.now < t) ∧
    req2.dueAt (s.withH { s.h with tb.now := secT }) = some (ofUs 100) ∧ ofUs 100 ≤ secT ∧ replyOk 1 1 0 = true ∧ replyOk 1 0xFF 0 = false ∧ req2.ofField = false := by
  decide +kernel

theorem witness_FunctionMachine :
    let h := hs [(Reg.SPL_FSTAT_STATE 0, 0), (Reg.SPL_FSTAT_STATE 1, 2), (Reg.SPL_FCFG_MODE 1, 1), (Reg.SPL_FSTAT_STATE 2, 1), (Reg.SPL_FCFG_EN 2, 1),
      (Reg.SPL_FSTAT_STATE 3, 3)]
    (fieldOf 6 1 2 = 3 ∧ fieldOf 4 1 2 = 2 ∧ h.hostAttached = false ∧ fieldOf 3 1 2 < 2) ∧ h.rd (Reg.SPL_FSTAT_STATE 0) = 0 ∧
    (h.rd (Reg.SPL_FSTAT_STATE 1) = 2 ∧ h.rd (Reg.SPL_FCFG_MODE 1) = fieldOf 3 1 2) ∧
    (h.rd (Reg.SPL_FSTAT_STATE 2) = 1 ∧ h.rd (Reg.SPL_FCFG_EN 2) = 1 ∧ aget h.spl.starting 2 (h.rd (Reg.SPL_FCFG_MODE 2)) = h.rd (Reg.SPL_FCFG_MODE 2)) ∧
    (h.rd (Reg.SPL_FSTAT_STATE 3) = 3 ∧ ∀ r ∈ h.spl.owed, r.func ≠ 3) := by decide +kernel

/-- A member's report. -/
def path5 : PathSt := { hub := 5, eUp := true, wUp := true, fec := false, fb := false, eNeigh := 1, wNeigh := 2, time := 0, absent := false }

theorem witness_PlacesComeAndGo :
    let h := hs [(Reg.GLB_STATUS_ROLE, 0), (Reg.GLB_HUBNUM_NUM, 1), (Reg.GLB_STATUS_BOOT, 2)]
    (h.numbered = true ∧ hSrc (eventFrame 1).hdr < 120 ∧ hSrc (eventFrame 1).hdr ≠ h.hubNum) ∧ h.hostAttached = true ∧
    ({ h with boot.perst := true } : HDie).boot.perst = true ∧ h.coreRuns = true ∧ [path5].find? (fun x => x.hub == 5 && !x.absent) = some path5 := by
  decide +kernel

theorem witness_PlacesComeAndGo_silent :
    let h := hs [(Reg.GLB_HUBNUM_NUM, 1), (Reg.GLB_MEMBER_HUB 0, 32), (Reg.SPL_FSTAT_STATE 1, 2), (Reg.SPL_FCFG_MODE 1, 2)]
    (h.numbered = true ∧ h.member 5 = true ∧ 5 ≠ h.hubNum ∧ h.red.paths.find? (fun x => x.hub == 5) = none) ∧
    (h.rd (Reg.SPL_FSTAT_STATE 1) = 2 ∧ h.rd (Reg.SPL_FCFG_MODE 1) = 2) := by decide +kernel

/-! ### Ports and frames -/

/-- A host die with port E in state `k`. -/
def port (k : Nat) : HDie := hs [(Reg.RNG_PSTAT_STATE 0, k), (Reg.RNG_PCFG_FALLBACK_EN 0, 1), (Reg.RNG_PSTAT_RATE 0, 0)]

/-- Port E's context with everything it may wait for. -/
def busy : PortCtx :=
  { PortCtx.clear with lastSeq := [some 3, none], reqWait := [true, false], reqSeq := [3, 0], ackSent := true, fecWait := true, restart := true, noFollow := false }

theorem witness_PortsComeUpTrainAndFail :
    (∀ k : Fin 9, (port k).rd (Reg.RNG_PSTAT_STATE 0) = k) ∧ busy.restart = true ∧ PortCtx.clear.restart = false ∧
    ((port 1).rd (Reg.RNG_PCFG_FALLBACK_EN 0) ≠ 0 ∧ (port 1).rd (Reg.RNG_PSTAT_RATE 0) ≠ 1 ∧ busy.noFollow = false) ∧
    (PortCtx.clear.restart = false ∧ (port 1).rd (Reg.RNG_INJ_FORCE_LF 0) = 0 ∧ 0 < (port 1).ports.length) ∧ (3 < 8 ∧ (2 : Nat) < 3 ∧ (2 : Nat) ≠ 0) ∧ (16 ≤ 16 ∧ (0 : Nat) ≠ 1) ∧
    (busy.lastSeq.getD 0 none = some (fieldOf 0x300 8 4) ∧ busy.lastSeq.getD 1 none ≠ some (fieldOf 0x300 8 4)) ∧
    (busy.reqWait.getD 0 false = true ∧ busy.reqSeq.getD 0 0 = fieldOf 0x300 8 4) ∧ (0 < (port 5).ports.length ∧ busy.ackSent = true) ∧
    (fieldOf 0x1100 12 1 ≠ 0 ∧ fieldOf 0x1100 7 1 = (port 5).rd (Reg.RNG_PCFG_FEC 0) ∧ fieldOf 0x1100 8 4 = 1 ∧ PortCtx.clear.ackRcvd = false) ∧
    fieldOf 0x0100 12 1 = 0 ∧ (fieldOf 0x1180 12 1 ≠ 0 ∧ fieldOf 0x1180 7 1 ≠ (port 5).rd (Reg.RNG_PCFG_FEC 0)) ∧
    (fieldOf 0x1200 7 1 = (port 5).rd (Reg.RNG_PCFG_FEC 0) ∧ fieldOf 0x1200 8 4 ≠ 1) ∧ busy.fecWait = true := by decide +kernel

theorem witness_PortsComeUpTrainAndFail_faults :
    ((port 5).rd (Reg.RNG_PSTAT_STATE 0) = 5 ∧ busy.fecWait = true) ∧ (2 ≤ (port 2).rd (Reg.RNG_PSTAT_STATE 0) ∧ (port 6).rd (Reg.RNG_PSTAT_STATE 0) ≤ 6) ∧
    ((hs [(Reg.RNG_INJ_FORCE_LF 1, 1), (Reg.RNG_PSTAT_STATE 1, 6)]).rd (Reg.RNG_INJ_FORCE_LF 1) = 1 ∧ (3 ≤ (port 3).rd (Reg.RNG_PSTAT_STATE 0))) ∧
    (port 7).rd (Reg.RNG_PSTAT_STATE 0) = 7 ∧ (port 0).rd (Reg.RNG_LCFG_CHK 0 0) = 0 ∧
    (let h := hs [(Reg.RNG_LCFG_CHK 1 1, 1), (Reg.RNG_LSTAT_PRBSLOCK 1 1, 1)]
     h.rd (Reg.RNG_LCFG_CHK 1 1) ≠ 0 ∧ h.rd (Reg.RNG_LSTAT_PRBSLOCK 1 1) ≠ 0) := by decide +kernel

/-- A STREAM header from hub `src` to hub `dst` with HOPS `hops` and a right HCRC. -/
def ringHdr (src dst hops : Word) : Hdr := sealHdr (hdr 0x11000000 (src <<< 25) ((dst <<< 25) ||| 64) (hops <<< 24))

/-- Port E in ACTIVE on hub 1. -/
def active : HDie := hs [(Reg.RNG_PSTAT_STATE 0, 6), (Reg.RNG_PSTAT_STATE 1, 6), (Reg.GLB_HUBNUM_NUM, 1)]

/-- A reception on port E. -/
def rx0 (d : Hdr) : RxCtx := { port := 0, hdr := d, fid := none, fwd := true, local_ := false, stamp := 0 }

theorem witness_RingFrameHeader :
    let d := ringHdr 5 3 7
    let mirrored := fun (x : Hdr) => (active.advance 0).mirror 0 (hTc x) (hdrBytes x) (hLen x + 28) ((active.advance 0).ingress 0 0)
    ((port 0).advance 0).rd (Reg.RNG_PSTAT_STATE 0) ≠ 6 ∧ ((active.advance 0).rd (Reg.RNG_PSTAT_STATE 0) = 6 ∧ ∀ x ∈ (active.advance 0).sw.rx, x.port ≠ 0) ∧
    hHcrc { d with w5 := d.w5 + 1 } ≠ hcrcOf { d with w5 := d.w5 + 1 } ∧
    (hHcrc d = hcrcOf d ∧ hVer d = 1 ∧ typeTcOk (hType d) (hTc d) = true ∧ hLen d ≤ 9728) ∧ (hHcrc (sealHdr { d with w0 := 0 }) = hcrcOf (sealHdr { d with w0 := 0 }) ∧ hVer (sealHdr { d with w0 := 0 }) ≠ 1) ∧
    (0 < min (cellsOf (hLen d)) 32 ∧ min (cellsOf (hLen d)) 32 ≤ 1) ∧ (mirrored (ringHdr 1 3 7)).route (ringHdr 1 3 7) [] = (false, false) ∧
    ((mirrored d).route d [] = (false, true) ∧ hHops d ≠ 0) ∧ ((mirrored (ringHdr 5 3 0)).route (ringHdr 5 3 0) [] = (false, true) ∧ hHops (ringHdr 5 3 0) = 0) := by
  decide +kernel

theorem witness_RingFrameHeader_here :
    let d := ringHdr 5 1 7
    let away := ringHdr 5 127 7
    let ctl := sealHdr { ringHdr 5 127 0 with w2 := (127 <<< 25) ||| (500 <<< 15) ||| 64 }
    let g := fun (x : Hdr) => (active.advance 0).mirror 0 (hTc x) (hdrBytes x) (hLen x + 28) ((active.advance 0).ingress 0 0)
    (hHcrc d = hcrcOf d ∧ hVer d = 1 ∧ typeTcOk (hType d) (hTc d) = true ∧ (g d).route d [] = (true, false) ∧ (g d).localWants d ≠ []) ∧
    ((g away).route away [] = (true, true) ∧ (g away).localWants away ≠ [] ∧ hHcrc away = hcrcOf away) ∧
    ((g ctl).route ctl [] = (true, true) ∧ hHops ctl = 0 ∧ (g ctl).localWants ctl = [] ∧ hHcrc ctl = hcrcOf ctl ∧ typeTcOk (hType ctl) (hTc ctl) = true) := by
  decide +kernel

/-- A stream table entry. -/
def ent : StreamEnt := { idx := 3071, src := 127, stream := 4095, high := 65535, window := 1, path := 0, last := 0 }

theorem witness_FrameTrailersAndStreams :
    let r := rx0 (ringHdr 5 3 7)
    let f : Frame := { hdr := r.hdr, payload := List.replicate 64 0 }
    [r].find? (fun x => x.port == 0) = some r ∧ (List.replicate 64 (0 : Byte)).length = hLen r.hdr ∧
    (0xFFFFFFFF - trailerOf f ≠ trailerOf f ∧ (trailerOf f + 1) ≠ trailerOf f ∧ (trailerOf f + 1) ≠ 0xFFFFFFFF - trailerOf f ∧ trailerOf f + 1 < 2 ^ 32) ∧
    [ent].find? (fun x => x.src == 127 && x.stream == 4095) = some ent ∧ (∀ x ∈ [ent], ¬(x.src = 0 ∧ x.stream = 4095)) := by decide +kernel

theorem witness_NoNumberAcceptedTwice :
    (65535 < 65536 ∧ ent.high < 65536 ∧ ent.window < 2 ^ 64) ∧ (windowJudge ent 0 1 5).2 = 0 ∧ (windowJudge ent 65535 1 5).2 = 1 := by decide +kernel

/-- A frame that waits for port E's class 1, whole and good. -/
def waiting : HDie :=
  { active with
    sw.stored := [{ fid := 4, frame := { hdr := ringHdr 1 3 120, payload := List.replicate 64 0 }, cells := 1, pool := 1, rsv := 0, grp := 3, inPort := 8, own := true,
                    good := some true, stamp := 0, left := none, launch := none, whole := 0, planes := [0], due := none, place := [] }],
    sw.copies := [{ fid := 4, q := 1, cells := 1, ready := true, leaving := false, untrk := false, extra := 0, asked := false, stomp := false, seq := 0, lost := none }] }

/-- The same with the copy in the queue of class 7, and leaving. -/
def leaving (left : Bool) : HDie :=
  { waiting with sw.copies := [{ fid := 4, q := 7, cells := 1, ready := true, leaving := left, untrk := false, extra := 0, asked := false, stomp := false, seq := 0, lost := none }] }

theorem witness_FramesLeaveAndCarry :
    (∃ z ∈ (leaving true).sw.copies, z.leaving = true ∧ z.q / 8 = 0) ∧ (((leaving false).advance 0).head false 7).2.isSome = true ∧
    ((({ leaving false with sw.stored := (leaving false).sw.stored.map fun (x : Stored) => { x with launch := some 0 } } : HDie).advance 0).head true 7).2.isSome = true ∧
    (strict true 0 [7, 6, 5, 4, 3, 2, 1, 0] ((leaving false).advance 0)).2 = none ∧
    ((waiting.advance 0).portState 0 = 0 ∧ (∀ z ∈ (waiting.advance 0).sw.copies, ¬(z.leaving = true ∧ z.q / 8 = 0)) ∧
      (((waiting.advance 0).pick 0).2.map (·.1.fid)) = some 4) ∧
    ((active.advance 0).pick 0).2 = none ∧
    (((leaving true).sw.copies.find? (fun z => z.leaving && z.q / 8 == 0)).isSome = true ∧ ((leaving true).getStored 4).map (·.good) = some (some true)) := by
  decide +kernel

theorem witness_SchedulerTakesAWaitingCopy : ((waiting.pick 0).2.map (·.1.fid)) = some 4 := by decide +kernel

theorem witness_FramesLeaveAndCarry_sent :
    (waiting.port 0).injHcrc = false ∧ 0 < waiting.ports.length ∧ (waiting.sw.stored.map (·.good)) = [some true] ∧
    (waiting.sw.copies.map (·.stomp)) = [false] ∧ (waiting.sw.stored.map fun x => hHops x.frame.hdr) = [120] := by decide +kernel

/-- The copy that `waiting` holds has a cell that a plane discarded. -/
def stuck : HDie := { waiting with sw.copies := waiting.sw.copies.map fun (c : Copy) => { c with lost := some 0 } }

theorem witness_SchedulerTakesAWaitingCopy_stop :
    stuck.stalled 0 = true ∧ waiting.stalled 0 = false ∧ (∃ z ∈ ((leaving true).advance 0).sw.copies, z.leaving = true ∧ z.q / 8 = 0) := by decide +kernel

theorem witness_FramesLeaveAndCarry_next :
    ((waiting.advance 0).stalled 0 = false ∧ ((waiting.advance 0).serveOut 0).2.map (·.1.fid) = some 4 ∧
      ((waiting.advance 0).pick 0).2.map (fun y => (((waiting.advance 0).pick 0).1.carry y.1 y.2).2) = some true) ∧
    ((active.advance 0).serveOut 0).2 = none ∧ (waiting.port 0).nowHcrc = false := by decide +kernel

theorem witness_Spurs :
    let h := hs [(Reg.SPU_CFG_EN 3, 1), (Reg.SPU_STAT_UP 3, 1), (Reg.GLB_HUBNUM_NUM, 1), (Reg.SPU_CFG_MAXLEN 3, 1518)]
    let bytes : List Byte := List.replicate 60 0
    let ctl : List Byte := List.replicate 12 0 ++ [0x88, 0x08] ++ List.replicate 46 0
    let stamped := fun (b : List Byte) => (h.advance 0).ptpStamp 3 false b ((h.advance 0).ingress 5 0)
    ((h.advance 0).rd (Reg.SPU_STAT_UP 3) ≠ 0 ∧ (h.advance 0).rd (Reg.SPU_CFG_EN 3) ≠ 0 ∧ ¬HDie.clear.rd (Reg.SPU_STAT_UP 3) ≠ 0) ∧
    (0 < min (cellsOf bytes.length) 16 ∧ min (cellsOf bytes.length) 16 ≤ 1) ∧ (HDie.clear.rd (Reg.SPU_CFG_EN 3) = 0 ∧ (({ h with spurs := h.spurs.set 3 { h.spur 3 with lane := true } } : HDie).spur 3).lane = true ∧ (h.spur 0).lane = false ∧ lacksSpur h.variant 3 = false ∧ lacksSpur 2 3 = true) ∧ (List.replicate 59 (0 : Byte)).length < 60 ∧
    (stamped (List.replicate 1519 0)).rd (Reg.SPU_CFG_MAXLEN 3) < 1519 ∧
    ((stamped ctl).rd (Reg.SPU_CFG_MAXLEN 3) ≥ ctl.length ∧ 60 ≤ ctl.length ∧ be16 ctl 12 = 0x8808) ∧
    (bytes.length ≤ (stamped bytes).rd (Reg.SPU_CFG_MAXLEN 3) ∧ be16 bytes 12 ≠ 0x8808 ∧ (stamped bytes).tunnelBad 3 = false) ∧
    HDie.clear.rd (Reg.SPU_CFG_EN 3) = 0 := by decide +kernel

/-! ### The lead and the switch core -/

/-- A host die in a lead state, numbered 1, with cycles enabled. -/
def lead (k : Nat) : HDie :=
  hs [(Reg.RED_LEADSTAT_STATE, k), (Reg.GLB_HUBNUM_NUM, 1), (Reg.TIM_CYCLE_EN, 1), (Reg.RED_LEADSTAT_LEAD_HUB, 9), (Reg.RED_HEALTH_HUB 7, 5),
    (Reg.RED_HEALTH_VALID 7, 1), (Reg.RED_HEALTH_READY 7, 1), (Reg.RED_LEADSTAT_LEAD_PRIO, 8), (Reg.SPL_FCFG_MODE 4, 1)]

theorem witness_LeadReportsAndMachine :
    ((lead 3).rd Reg.RED_LEADSTAT_STATE = 3 ∧ (lead 4).rd Reg.RED_LEADSTAT_STATE = 4) ∧
    (¬((lead 2).rd Reg.RED_LEADSTAT_STATE = 3 ∨ (lead 2).rd Reg.RED_LEADSTAT_STATE = 4) ∧ (lead 2).rd Reg.TIM_CYCLE_EN ≠ 0 ∧
      (lead 2).rd Reg.RED_LEADSTAT_LEAD_HUB ≠ 0x7F) ∧
    ((lead 0).rd Reg.RED_LEADSTAT_STATE = 0 ∧ fieldOf 0x1FF 8 1 = 1 ∧ 0x1FF % 256 ≠ 0 ∧ (lead 0).numbered = true) ∧ ¬fieldOf 0xFF 8 1 = 1 ∧
    ((lead 1).rd Reg.RED_LEADSTAT_STATE = 1 ∧ (lead 2).rd Reg.RED_LEADSTAT_STATE = 2 ∧ (lead 2).modeOf 4 ≠ 0 ∧ (lead 2).red.mstStay = none ∧ ∀ r ∈ (lead 2).spl.reqs, r.func ≠ 4) ∧
    (∃ k < 8, (lead 3).rd (Reg.RED_HEALTH_HUB k) = 5 ∧ (lead 3).rd (Reg.RED_HEALTH_VALID k) ≠ 0 ∧ (lead 3).rd (Reg.RED_HEALTH_READY k) ≠ 0) ∧
    ¬(∃ k < 8, (lead 3).rd (Reg.RED_HEALTH_HUB k) = 6 ∧ (lead 3).rd (Reg.RED_HEALTH_VALID k) ≠ 0) := by decide +kernel

theorem witness_LeadReportsAndMachine_more :
    let asked : HaReq := { func := 4, cookie := 7, detail0 := 0, detail1 := 0, ctx := 0, time := 0, place := 2, posted := true }
    let h := { lead 2 with red.lastAcc := some 6, spl := { HDie.clear.spl with reqs := [asked] } }
    (h.rd Reg.RED_LEADSTAT_STATE = 2 ∧ h.red.lastAcc = some 6 ∧ ∃ r ∈ h.spl.reqs, r.func = 4) ∧
    (h.numbered = true ∧ h.rd (Reg.RNG_PSTAT_STATE 0) ≠ 6 ∧ h.rd (Reg.RNG_PSTAT_STATE 1) ≠ 6) ∧
    ((h.wr (Reg.RNG_PSTAT_STATE 1) 6).numbered = true ∧ (h.wr (Reg.RNG_PSTAT_STATE 1) 6).rd (Reg.RNG_PSTAT_STATE 1) = 6) ∧ HDie.clear.numbered = false := by
  decide +kernel

/-- A RING_CTL frame of a subtype. -/
def ctl (sub : Byte) : Frame := { hdr := hdr 0x19000000 (2 <<< 25) 0 0, payload := [sub] }

theorem witness_Subtypes : subtypeOf (ctl 1) = 1 ∧ subtypeOf (ctl 2) = 2 := by decide +kernel

/-- A SYNC of hub `src` with PRIO `p`. -/
def syncOf (src : Word) (p : Byte) : Frame := { hdr := hdr 0x15E00000 (src <<< 25) (0xFE000000 + 64) 0, payload := p :: List.replicate 63 0 }

theorem witness_SyncReceived :
    let h := fun (x : Frame) => (lead 2).takeInbox x
    HDie.clear.numbered = false ∧ ((h (syncOf 9 8)).numbered = true ∧ hSrc (syncOf 9 8).hdr ≠ (h (syncOf 9 8)).hubNum ∧
      (h (syncOf 9 8)).rd Reg.RED_LEADSTAT_STATE < 3 ∧ (h (syncOf 9 8)).rd Reg.RED_LEADSTAT_LEAD_HUB = hSrc (syncOf 9 8).hdr ∧
      ahas (h (syncOf 9 8)).red.syncSeen 9 = false ∧ bitOf (beWord (syncOf 9 8).payload 0) 22 = false) ∧
    ¬(ahas [(9, 0)] 9 = false ∨ newer 0 (aget [(9, 0)] 9 0) = true) ∧ ((h (syncOf 9 8)).sw.inbox.any fun b => decide (b.frame = syncOf 9 8) && b.dup) = false ∧
    ((h (syncOf 5 3)).rd Reg.RED_LEADSTAT_LEAD_HUB ≠ 0x7F ∧ (h (syncOf 5 3)).rd Reg.RED_LEADSTAT_LEAD_HUB ≠ hSrc (syncOf 5 3).hdr ∧
      higherLead 3 5 ((h (syncOf 5 3)).rd Reg.RED_LEADSTAT_LEAD_PRIO) 9 = false ∧ 3 ≠ (h (syncOf 5 3)).rd Reg.RED_LEADSTAT_LEAD_PRIO ∧
      (h (syncOf 5 3)).red.handTo ≠ some (hSrc (syncOf 5 3).hdr) ∧ (h (syncOf 5 3)).red.open_ = false) := by decide +kernel

theorem witness_SyncReceived_stepDown :
    let h := fun (k : Nat) => (lead k).takeInbox (syncOf 5 9)
    ((h 3).numbered = true ∧ hSrc (syncOf 5 9).hdr ≠ (h 3).hubNum ∧ (h 3).rd Reg.RED_LEADSTAT_STATE = 3 ∧ (h 3).rd Reg.RED_LEADSTAT_LEAD_HUB ≠ 0x7F ∧
      (h 3).rd Reg.RED_LEADSTAT_LEAD_HUB ≠ 5 ∧ ahas (h 3).red.syncSeen 5 = false ∧ bitOf (beWord (syncOf 5 9).payload 0) 22 = false ∧
      fieldOf (beWord (syncOf 5 9).payload 0) 24 8 = 9 ∧ higherLead 9 5 ((h 3).rd Reg.RED_LEADSTAT_LEAD_PRIO) 9 = true ∧ 9 ≠ (h 3).rd Reg.RED_LEADSTAT_LEAD_PRIO) ∧
    ((h 4).cancelMst.rd Reg.RED_LEADSTAT_STATE = 4 ∧ (h 3).cancelMst.rd Reg.RED_LEADSTAT_STATE = 3) := by decide +kernel

theorem witness_LeadOrder :
    (3 : Nat) ≠ 5 ∧ (higherLead 8 3 8 5 = true ∧ higherLead 8 5 7 1 = true) ∧ (0 < 2 ^ 32 ∧ 0xFFFFFFFF < 2 ^ 32 ∧ (0 + 2 ^ 32 - 0xFFFFFFFF) % 2 ^ 32 ≠ 2 ^ 31) := by
  decide +kernel

theorem witness_PlanesRateAndBuffers :
    let c : Copy := { fid := 4, q := 79, cells := 1, ready := true, leaving := true, untrk := false, extra := 0, asked := false, stomp := false, seq := 0, lost := none }
    let c0 := { c with leaving := false }
    let h := hs [(Reg.SWC_QSTAT_STATE 72, 1), (Reg.SWC_RATECFG_FLOOR, 100)]
    let x : Stored := { fid := 4, frame := { hdr := ringHdr 1 3 120, payload := [] }, cells := 1, pool := 1, rsv := 0, grp := 3, inPort := 8, own := true, good := some true,
                        stamp := 0, left := some 5, launch := none, whole := 0, planes := [0, 3], due := none, place := [] }
    [c].find? (fun y => y.fid == 4 && y.q == 79) = some c ∧ 3 ∈ [3] ∧ ((h.rd Reg.SWC_PLANE_EN).testBit 3 = true ∧ (15 : Nat) ≠ 0) ∧
    (h.rd Reg.SWC_RATECFG_FLOOR ≤ h.planes * 1000 * 256 / 1000 ∧ h.planes * 0 * 256 / 1000 < h.rd Reg.SWC_RATECFG_FLOOR) ∧
    (h.minSum + 0 + 3 * h.sw.rsv + 4096 ≤ 32768 ∧ 32768 < ({ h with sw.rsv := 9558 } : HDie).minSum + 4095 + 3 * 9558 + 4096) ∧
    (h.minSum - h.rd (Reg.SWC_QCFG_MIN 79) + 0 + h.rd Reg.SWC_BUFCFG_RSP_RSV + 3 * h.sw.rsv + 4096 ≤ 32768) ∧
    (({ h with sw.stored := [x] } : HDie).getStored 4 = some x ∧ x.left ≠ none ∧ ({ h with sw.stored := [x], sw.copies := [c0] } : HDie).residue x = [c0] ∧
      (({ h with sw.stored := [x], sw.copies := [c0] } : HDie).residueAt x).isSome = true ∧ h.modeOf 1 = 0 ∧ c0.extra = 0 ∧ ({ h with sw.stored := [x] } : HDie).planeOf 4 1 = some 3) ∧
    ((h.wr (Reg.SWC_HOLD_US 9) 5).portState 9 = 1 ∧ h.tb.now < aget h.sw.holds 9 0 + ofUs 5) ∧
    (h.portState 9 = 1 ∧ h.portState 8 ≠ 1) ∧ ((h.setWm { h.wm 80 with hold := some 5 }).wm 80).hold = some 5 := by decide +kernel


/-- A plan of two hubs with images of 64 bytes, with its CRC. -/
def plan2 : Plan :=
  { m := 2, k := 0, ofs := 0, crc := 3720504882, act := 10, fast := true, ins := [64, 64], outs := [(64, 0), (64, 1)] }

/-- A host die with cycles of 1 ms, numbered 1. -/
def cycling : HDie := hs [(Reg.TIM_CYCLE_EN, 1), (Reg.TIM_CYCLE_NS, 1000000), (Reg.GLB_HUBNUM_NUM, 1)]

set_option maxRecDepth 100000 in
theorem witness_AdmittedPlansKeepTheirBounds : (cycling.cyaCheck plan2).code = 0 := by decide +kernel

theorem witness_PlanAdmission :
    (HDie.clear.rd Reg.SWC_CYASTAT_STATE ≠ 1 ∧ (hs [(Reg.SWC_CYASTAT_STATE, 1)]).rd Reg.SWC_CYASTAT_STATE = 1) ∧
    ((∀ x ∈ cycling.spl.reqs, x.func ≠ 15) ∧ (HDie.clear.modeOf 15 = 0)) ∧
    (10 = plan2.act ∧ newer 11 plan2.act = true) ∧ plan2.m ≤ HDie.clear.hubNum ∧
    (cycling.numbered = true ∧ cycling.hubNum < plan2.m ∧ cycling.rd Reg.TIM_CYCLE_EN ≠ 0 ∧
      ({ plan2 with ins := [] } : Plan).ins.getD cycling.hubNum 0 = 0) := by decide +kernel

set_option maxRecDepth 100000 in
theorem witness_PlanAdmission_refused : (cycling.cyaCheck { plan2 with crc := 0 }).code ≠ 0 := by decide +kernel

/-! ### Time and cycles -/

theorem witness_TimeBasesOfBothDies :
    let e : PtpStamp := { id := 9, time := 5 }
    let near := fun (h : HDie) (t : Int) => ((t - (h.tb.now : Int)).natAbs : Int) ≤ ofNs (h.rd Reg.TIM_JUMP_NS)
    let far := hs [(Reg.TIM_JUMP_NS, 0)]
    (1998 * 2 ^ 32 ≤ 1000 * (2 ^ 32 * 2 + 0) ∧ 1000 * (2 ^ 32 * 2 + 0) ≤ 2002 * 2 ^ 32) ∧ ¬(1000 * (2 ^ 32 * 2 + 0xFFFFFFFF) ≤ 2002 * 2 ^ 32) ∧
    (near HDie.clear ((HDie.clear.tb.now : Int) + HDie.clear.stepSize) ∧ near HDie.clear HDie.clear.setTime) ∧
    ¬near { far with tb.now := 100 * 2 ^ 32 } ({ far with tb.now := 100 * 2 ^ 32 } : HDie).setTime ∧
    [(3, e)].find? (fun y => y.1 == 3) = some (3, e) ∧ HDie.clear.tb.ptpTx.find? (fun y => y.1 == 3) = none ∧
    (ahas [(7, e)] 7 = true ∧ ahas HDie.clear.tb.ptpHead 6 = false) := by decide +kernel

theorem witness_TimeBasesOfBothDies_step :
    let h := hs [(Reg.TIM_STEPNS_NS, 5), (Reg.TIM_JUMP_NS, 0)]
    ¬(((((h.tb.now : Int) + h.stepSize) - (h.tb.now : Int)).natAbs : Int) ≤ ofNs (h.rd Reg.TIM_JUMP_NS)) := by decide +kernel

theorem witness_TimeBasesOfBothDies_capture : HDie.clear.tb.now < 2 ^ 48 * secT := by decide +kernel

theorem witness_CyclesConfiguredAndStarted :
    (bitOf 0x80000000 31 = true ∧ cycling.rd Reg.TIM_CYCLE_EN ≠ 0 ∧ HDie.clear.rd Reg.TIM_CYCLE_EN = 0) ∧
    (31249 < 31250 ∧ bitOf (0x80000000 + 31249) 31 = true ∧ (0x80000000 + 31249) % 2 ^ 23 = 31249) ∧
    ((0x80000000 + 31250) % 2 ^ 23 = 31250 ∧ ((HDie.clear.wr Reg.TIM_CYCLE_NS 31250).wr Reg.TIM_CYCLE_EN 1).epoch ≤ HDie.clear.tb.now) ∧ bitOf 31250 31 = false ∧
    ((hs [(Reg.RED_LEADSTAT_STATE, 1)]).rd Reg.RED_LEADSTAT_STATE ≠ 0 ∧ (hs [(Reg.SWC_CYASTAT_STATE, 3)]).rd Reg.SWC_CYASTAT_STATE = 3) ∧
    (cycling.rd Reg.RED_LEADSTAT_STATE = 0 ∧ cycling.rd Reg.SWC_CYASTAT_STATE ≠ 3) ∧ (HDie.clear.sw.admitted = none ∧ cycling.sw.admitted = none) ∧
    (FDie.clear.rd Reg.FTM_CYCLE_EN = 0 ∧ (fs [(Reg.FTM_CYCLE_EN, 1)]).rd Reg.FTM_CYCLE_EN ≠ 0) := by decide +kernel

set_option maxRecDepth 100000 in
/-- An admitted plan whose cycle comes is in force from there, and the field die is told. -/
theorem witness_CyclesConfiguredAndStarted_plan :
    let h : HDie := { cycling with sw.admitted := some { plan2 with act := 1 }, regs := (cycling.wr Reg.BAR_STAT_UP 1).regs }
    let g := h.cycleActs 1
    h.sw.admitted ≠ none ∧ g.sw.admitted = none ∧ g.rd Reg.BAR_STAT_UP ≠ 0 := by decide +kernel

/-! ### FIFOs, lines and strings -/

/-- FIFO 0 with two words, and a word of an open packet. -/
def twoWords : Fifo := { q := 0, words := [7, 8], opn := some [9], err := false, waiting := [], popWait := 0, left := 0, mark := (false, false, false), pages := [], put := 0, got := 0 }

/-- A field die whose FIFO `q` is enabled and holds words. -/
def fifoDie (q pkt : Nat) : FDie :=
  { fs [((fifoRegs q).en, 1), ((fifoRegs q).pkt, pkt), ((fifoRegs q).mid, 4)] with fifos := [{ twoWords with q := q }] }

theorem witness_FifoKeepsOrderAndBound :
    twoWords.stored ≤ 32 ∧ ((twoWords.pushed 32 false 5).map (·.2)) = some false ∧ ((twoWords.pushed 32 true 5).map (·.2)) = some false ∧
    ((twoWords.committed 32).map (·.opn)) = some none := by decide +kernel

theorem witness_FifoCommandsAndPops :
    (fs [((fifoRegs 291).en, 0)]).fifoOn 291 = false ∧
    ((fifoDie 287 0).fifoOn 287 = true ∧ ¬¬(272 ≤ 287 ∧ 287 < 288) ∧ (((fifoDie 287 0).fifo 287).pushed ((fifoDie 287 0).fifoCap 287) false 5).isSome = true) ∧
    (((fifoDie 0 0).fifo 0).pushed 3 false 5 = none) ∧ ((fifoDie 0 0).fifoOn 0 = true ∧ (fifoDie 0 0).rd (fifoRegs 0).nb = 0) ∧
    (({ fifoDie 128 0 with linkUp := true } : FDie).barrierPops 128 = true ∧ ((fifoDie 128 0).pop 128).2 = some 7 ∧ ((fifoDie 128 0).fifo 289).waiting = []) ∧
    ((({ fifoDie 128 0 with linkUp := true } : FDie).setFifo { twoWords with q := 128, words := [] }).barrierPops 128 = true ∧
      ((({ fifoDie 128 0 with linkUp := true } : FDie).setFifo { twoWords with q := 128, words := [] }).fifo 128).words = []) ∧
    ((fifoDie 128 0).lacksFifo 128 = false ∧ softReads 128 = true ∧ softReads 0 = false ∧ softWrites 0 = true ∧ softWrites 128 = false ∧
      (((fifoDie 0 0).fifo 0).pushed ((fifoDie 0 0).fifoCap 0) false 5).map (·.2) = some false ∧ ({ FDie.clear with variant := 1 } : FDie).lacksFifo 127 = true) ∧ ((fifoDie 288 0).barrierPops 288 = false ∧ 288 ≤ 288) ∧
    ((fifoDie 287 1).rd (fifoRegs 287).pkt ≠ 0 ∧ (((fifoDie 287 1).fifo 287).committed ((fifoDie 287 1).fifoCap 287)).isSome = true) ∧
    (({ twoWords with opn := none } : Fifo).committed 2 = none) ∧ ((fifoDie 0 0).fifo 0).words ≠ [] ∧ (FDie.clear.fifo 0).words = [] ∧
    (FDie.clear.fifoOn 0 = false ∧ FDie.clear.rd (fifoRegs 0).pkt = 0 ∧ bitOf 0x401 0 = true) := by decide +kernel

theorem witness_FifoCommandsAndPops_oldest :
    (fifoDie 0 0).fifoOn 0 = true ∧ ((fifoDie 0 0).fifo 0).words = 7 :: [8] ∧ ((fifoDie 0 0).fifo 0).waiting = [] ∧ ((fifoDie 0 0).fifo 0).q = 0 := by decide +kernel

theorem witness_FieldConfigurationLinesAndStrings :
    let f := fs [(Reg.MAR_CEN_EN 15, 1), (Reg.FIO_BSTAT_PRESENT 7, 1), (Reg.FIO_CFG_DRV 254, 0)]
    (0xFF % 256 = 0xFF ∧ ¬(0x80 % 256 = 0xFF ∨ (0x80 % 256 < 128 ∧ 0x80 / 8 = 255 / 16))) ∧
    ((fieldOf 0x20202010 8 6 ≤ 32 ∧ fieldOf 0x20102010 24 6 ≤ 32 ∧ fieldOf 0x20102010 0 6 + fieldOf 0x20102010 8 6 ≤ 48) ∧ ¬fieldOf 0x2100 8 6 ≤ 32) ∧
    ((fieldOf 0x04000000 0 12 % 4 = 0 ∧ fieldOf 0x04000000 0 12 + 4 * fieldOf 0x04000000 16 11 ≤ 4096) ∧ ¬fieldOf 1 0 12 % 4 = 0) ∧
    ((f.rd (Reg.MAR_CCTL_ACTIVE 15) = 0 ∧ f.rd (Reg.MAR_CEN_EN 15) ≠ 0) ∧ ¬(FDie.clear.rd (Reg.MAR_CEN_EN 15) ≠ 0)) ∧
    (f.rd (Reg.FIO_CFG_DRV 255) = 0xFF ∧ f.rd (Reg.FIO_CFG_DRV 254) ≠ 0xFF) ∧ (({ f with linkUp := true } : FDie).linkUp = true ∧ f.linkUp = false) ∧
    ((f.rd (Reg.FIO_BSTAT_PRESENT (255 / 32)) ≠ 0 ∧ f.rd (Reg.FIO_BSTAT_MISMATCH (255 / 32)) = 0) ∧ f.level 255 = false ∧ f.rd (Reg.FIO_CFG_INV 255) = 0) ∧ (f.lacksCluster 15 = false ∧ ({ f with variant := 1 } : FDie).lacksCluster 15 = true) ∧
    ¬(FDie.clear.rd (Reg.FIO_BSTAT_PRESENT (0 / 32)) ≠ 0) := by decide +kernel

theorem witness_FieldConfigurationLinesAndStrings_strings : (71 : Nat) < 72 ∧ (0 : Nat) < 72 ∧ (0 : Nat) ≠ 71 := by decide

theorem witness_FieldConfigurationLinesAndStrings_supply :
    let f := FDie.clear
    let judged := fun (u : Nat) =>
      (((({ f with fvio := f.fvio.set 7 u } : FDie).wr (Reg.FIO_BSTAT_PRESENT 7) (if 1200 ≤ u then 1 else 0)).wr (Reg.FIO_BSTAT_MISMATCH 7)
        (if 1200 ≤ u ∧ ¬(2850 ≤ u ∧ u ≤ 3750) then 1 else 0)).bankInputs 7)
    (7 < f.fvio.length ∧ f.stage ≠ 4 ∧ f.power ≠ 2 ∧ f.rd (Reg.FIO_BCFG_VSEL 7) = 0) ∧
    ((judged 1199).rd (Reg.FIO_BSTAT_PRESENT 7) = 0 ∧ (269, 0) ∉ (judged 1199).outs) ∧
    ((judged 2849).rd (Reg.FIO_BSTAT_MISMATCH 7) = 1 ∧ (269, 0) ∈ ({ judged 2849 with outs := [(269, 0)] } : FDie).outs) ∧
    ((judged 2850).rd (Reg.FIO_BSTAT_PRESENT 7) = 1 ∧ (judged 2850).rd (Reg.FIO_BSTAT_MISMATCH 7) = 0) ∧ (f.level 3 = false ∧ f.power = 0) := by decide +kernel

theorem witness_FifoCommandsAndPops_waits :
    let f := { fifoDie 128 0 with linkUp := true }
    let p := fun (x : Fifo) => (f.setFifo { x with q := 128 })
    let full := { p twoWords with fifos := { twoWords with q := 289, waiting := [some 1] } :: (p twoWords).fifos }
    let pool := ((fifoDie 256 1).setFifo { twoWords with q := 256, words := [] }).wr (Reg.CAN_TXSQ_EN 0) 1
    (full.barrierPops 128 = true ∧ (full.fifo 289).waiting ≠ []) ∧
    ((pool.fifo 256).words = [] ∧ (pool.fifo 256).left = 0 ∧ pool.rd (fifoRegs 256).pkt ≠ 0 ∧ (upto 32).find? (fun k => pool.inPool 0 k && (pool.txState 0 k == 0 || pool.txState 0 k == 4)) = some 24) ∧
    (let f := (fifoDie 0 0).setFifo { twoWords with waiting := [some 5] }
     f.fifoOn 0 = true ∧ (f.fifo 0).words = 7 :: [8] ∧ (f.fifo 0).waiting = some 5 :: []) ∧
    ((fifoDie 128 0).power = 0 ∧ softReads 128 = true ∧ ((fifoDie 128 0).fifo 128).words ≠ []) := by decide +kernel

/-! ### Engines, the barrier link and the cyclic image -/

/-- A field die that runs, with engine 0 RUNNING at PC 0 and a word there. -/
def running (w : Nat) : FDie :=
  { fs [(Reg.MAR_ESTAT_STATE 0 0, 1), (Reg.MAR_IMEM_WORD 0 0, w), (Reg.MAR_EPIN_OUT_CNT 0 0, 32), (Reg.MAR_EPIN_IN_CNT 0 0, 32), ((fifoRegs 128).pkt, 1),
      ((fifoRegs 128).en, 1), ((fifoRegs 0).en, 1)] with stage := 0 }

/-- Every opcode is issued on some operands, at the limits of its fields. -/
theorem witness_EngineFaultsAndArithmetic_issues :
    (running 0x08000000).issues 0 1 ∧ (running 0x10000000).issues 0 2 ∧ (running 0x18000000).issues 0 3 ∧ (running 0x20000000).issues 0 4 ∧
    (running 0x28000000).issues 0 5 ∧ (running 0x30000000).issues 0 6 ∧ (running 0x38000000).issues 0 7 ∧ (running 0x40000000).issues 0 8 ∧
    (running 0x48000000).issues 0 9 ∧ (running 0x50000000).issues 0 10 ∧ (running 0x58000000).issues 0 0x0B ∧ (running 0x60000000).issues 0 0x0C ∧
    (running 0x68000000).issues 0 0x0D ∧ (running 0x74700000).issues 0 0x0E ∧ (running 0x78000000).issues 0 0x0F ∧ (running 0x80000000).issues 0 0x10 ∧
    (running 0x88000000).issues 0 0x11 ∧ (running 0x90000000).issues 0 0x12 ∧ (running 0x98000000).issues 0 0x13 := by
  refine ⟨?_, ?_, ?_, ?_, ?_, ?_, ?_, ?_, ?_, ?_, ?_, ?_, ?_, ?_, ?_, ?_, ?_, ?_, ?_⟩ <;> (dsimp only [FDie.issues]; decide +kernel)

theorem witness_EngineFaultsAndArithmetic :
    let f := running 0
    (f.er Reg.MAR_ESTAT_STATE 0 = 1 ∧ (f.eng 0).held = false ∧ f.stage = 0) ∧ (f.fetchCheck 0xFF 0xB 0 (f.rd (Reg.MAR_CCTL_ACTIVE 0)) 0).2 = false ∧
    (fieldOf (f.fetch 0) 27 5 = 0 ∧ 0x14 ≤ fieldOf ((running 0xA0000000).fetch 0) 27 5) ∧
    (fieldOf ((running 0x1FFFFFFF).fetch 0) 27 5 = 3 ∧ ((running 0x1FFFFFFF).engFault 0 0x1FFFFFFF).isSome = true) ∧
    ((running 0x17FFFFFF).engFault 0 0x17FFFFFF).isSome = true ∧
    (let bad := { running 0 with mems := [{ inst := 64, valid := [(imemWord 0 0, imemWord 0 0 + 1)], merge := [], bad := [(imemWord 0 0, 3)], stuck := [], ces := [], asked := [], period := none }] }
     (bad.fetchCheck 0xFF 0xB 0 0 0).2 = true) ∧
    (fieldOf 0x18000000 23 4 = 0 ∧ fieldOf 0x18800000 23 4 = 1 ∧ fieldOf 0x1A800000 23 4 = 5) ∧
    FDie.clear.er Reg.MAR_ESTAT_STATE 0 ≠ 1 := by
  decide +kernel

theorem witness_EngineFaultsAndArithmetic_held :
    let h := fun (w : Nat) => { running w with forcing := [0] }
    let ok := fun (w op : Nat) => ((h w).fetchCheck 0xFF 0xB 0 0 0).2 = false ∧ fieldOf ((h w).fetch 0) 27 5 = op ∧
      ((h w).fetchCheck 0xFF 0xB 0 0 0).1.forcing.contains 0 = true ∧ twoClock ((h w).fetch 0) = true
    ok 0x1A800000 3 ∧ ok 0x30000000 6 ∧ ok 0x88000000 0x11 ∧ twoClock 0x18000000 = false := by decide +kernel

theorem witness_EngineMovesData :
    let g := (running 0x20000000).issued 0
    let full := { running 0x28000000 with fifos := [{ twoWords with q := 0, opn := none }] }
    ((full.issued 0).pop 0).2 = some 7 ∧ (g.pop 0).2 = none ∧ (((running 0x28000000).issued 0).push 128 (((running 0x28000000).issued 0).pushSrc 0 0)).2 = true ∧
    (((running 0x30000000).issued 0).commit 128).2 = true ∧ g.rd (fifoRegs 128).nb = 0 ∧
    (shWidth 0x38000000 ≤ g.outLeft 0 ∧ shWidth 0x40000000 ≤ g.inLeft 0) := by decide +kernel

/-- Receive FIFO 128 with no room left: 8 words. -/
def crammed (w : Nat) : FDie :=
  { running w with regs := ((running w).wr (fifoRegs 128).mid 0).regs,
                   fifos := [{ twoWords with q := 128, words := List.replicate 8 0, opn := none }] }

theorem witness_EngineMovesData_full :
    (((crammed 0x28000000).issued 0).push 128 0).2 = false ∧ (((crammed 0x30000000).issued 0).commit 128).2 = false := by decide +kernel

theorem witness_EngineWaits :
    let w := 0x60000000
    let g := (running w).issued 0
    ((fieldOf w 20 2 = 0 ∧ g.inPin 0 (fieldOf w 22 5) = false) ∧ ¬(fieldOf 0x60100000 20 2 = 0) ∧ ((running 0x60100000).issued 0).inPin 0 0 = false ∧
      ¬(fieldOf 0x60100000 20 2 = 1 ∧ ((running 0x60100000).issued 0).inPin 0 0 = true)) ∧
    (bitOf 0x60180000 19 = true ∧ bitOf 0x60100000 19 = false) ∧
    (((running 0x80000000).wr (Reg.MAR_ETCMP_TCMP 0 0) 0).issued 0).er Reg.MAR_ETCMP_TCMP 0 = stampOf 0 ∧
    (stampOf 0 < (((running 0x80000000).wr (Reg.MAR_ETCMP_TCMP 0 0) 5).issued 0).er Reg.MAR_ETCMP_TCMP 0 ∧ 4 < stampOf (5 * 2 ^ 32)) ∧
    (({ fs [(Reg.MAR_ESTAT_STATE 0 0, 2), (Reg.MAR_ESTAT_STALL 0 0, 5)] with stage := 0 } : FDie).stalledAt 0 5 = true ∧
      ({ fs [(Reg.MAR_ESTAT_STATE 0 0, 2), (Reg.MAR_ESTAT_STALL 0 0, 7)] with stage := 0 } : FDie).stalledAt 0 7 = true) ∧
    (((running 0x98000000).issued 0).rd (Reg.MAR_CCTL_SWAP_PEND 0) = 0 ∧ (((running 0x98000000).wr (Reg.MAR_CCTL_SWAP_PEND 0) 1).issued 0).rd (Reg.MAR_CCTL_SWAP_PEND 0) ≠ 0) ∧
    ([0].contains 0 = true ∧ FDie.clear.forcing.contains 15 = false) ∧ (FDie.clear.lacksCluster 15 = false ∧ ({ FDie.clear with variant := 1 } : FDie).lacksCluster 15 = true) := by decide +kernel

theorem witness_BarrierWordsAndMessages :
    HDie.clear.rd Reg.BAR_STAT_UP = 0 ∧ FDie.clear.linkUp = false ∧ (hs [(Reg.BAR_STAT_UP, 1)]).rd Reg.BAR_STAT_UP ≠ 0 ∧ (msgBad false 0x03 (msg 0xC003 0) = true ∧
      msgBad true 0x01 (msg 1 0xFFFFFFFF) = true) ∧ (typeKnown true 0xFF = false ∧ typeKnown false 0xFF = false) ∧
    (msgBad true 0x00 (msg 0 0) = false ∧ msgBad false 0x00 (msg 0 0) = false ∧ msgBad true 0x01 (msg 1 999999999) = false ∧ msgBad true 0x02 (msg 2 5) = false ∧
      msgBad false 0x02 (msg 2 4) = false ∧ (msg 2 4).m1.fld 0 8 ≠ 3 ∧ msgBad false 0x02 (msg 2 3) = false ∧ (msg 2 3).m1.fld 0 8 = 3 ∧ msgBad false 0x03 (msg 3 0) = false) ∧
    (msgBad true 0x10 (msg 0x10 0) = false ∧ rspStatus (msg 0x10 0) ≠ 9 ∧ msgBad true 0x10 (msg 0x10 9) = false ∧ rspStatus (msg 0x10 9) = 9) ∧
    (msgBad true 0x40 (msg 0x40 0) = false ∧ isLast (msg 0x40 0) = false ∧ msgBad false 0x40 (msg 0x40 0x80000000) = false ∧ isLast (msg 0x40 0x80000000) = true) ∧
    (msgBad false 0x20 (msg 0x20 0) = false ∧ msgBad true 0x21 (msg 0x21 0) = false) := by decide +kernel

/-- The last piece of an image of 4 bytes makes it whole. -/
theorem witness_BarrierWordsAndMessages_image :
    let m := msg 0x20 0
    (imgWhole [] 0 4).isNone = true ∧ (imgWhole [{ tag := 0, pieces := [(0, [1, 2, 3, 4])], last := true }] (mTag m) 4).isSome = true := by decide +kernel

/-- A stream for FIFO 0 in the barrier queue of streams, which is enabled. -/
def streamQueued : FDie :=
  { fs [((fifoRegs 0).en, 1), (Reg.MAR_EIMGI_CYC 0 1, 1)] with
    linkUp := true, fifos := [{ twoWords with q := 291, words := msgSplit (msg 0x40 0), opn := none }] }

theorem witness_BarrierWordsAndMessages_streams :
    (streamQueued.cyclicStream (msg 0x40 1) = true ∧ streamQueued.cyclicStream (msg 0x40 0) = false) ∧
    ((fieldTook 0x40 (msg 0x40 0) (st HDie.clear streamQueued)).f.fifoOn 291 = true ∧
      (fieldTook 0x40 (msg 0x40 0) (st HDie.clear { fs [((fifoRegs 291).en, 0)] with linkUp := true })).f.fifoOn 291 = false) ∧
    (streamQueued.distBusy = false ∧ streamQueued.bqHead 291 = some (msg 0x40 0) ∧ mType (msg 0x40 0) = 0x40 ∧ strNo (msg 0x40 0) < 0x90) ∧
    (streamQueued.setFifo { twoWords with waiting := [some 1] }).distBusy = true := by decide +kernel

theorem witness_ImagesOfACycle :
    let f := fs [(Reg.FIO_BIMG_OUT_EN 7, 1)]
    FDie.clear.plan = none ∧ f.rd (Reg.FIO_BIMG_OUT_EN 7) ≠ 0 ∧ f.rd (Reg.FIO_BIMG_OUT_EN 0) = 0 ∧
    f.rd (Reg.FIO_BIMG_OUT_OFF 7) + 4 ≤ (List.replicate 4 (0 : Byte)).length ∧ f.rd (fifoRegs 255).pkt = 0 := by decide +kernel

theorem witness_ImagesOfACycle_acts :
    let f := { fs [(Reg.FTM_CYCLE_EN, 1), ((fifoRegs 255).pkt, 1)] with stage := 0, plan := some { launch := 0, outLen := 4, inLen := 4 } }
    (f.power = 0 ∧ f.stage = 0 ∧ f.rd Reg.FTM_CYCLE_EN ≠ 0 ∧ f.tb.firstAct ≤ (0xFFFFFFFF : Word).toNat ∧ f.plan ≠ none) ∧ FDie.clear.rd Reg.FTM_CYCLE_EN = 0 ∧
    (f.rd (fifoRegs (128 + 127)).pkt ≠ 0 ∧ packets 2 [lenWord 1 false, 9] = [(false, [9])]) := by decide +kernel

/-! ### CAN, power, feeds and memories -/

/-- A field die whose controller 15 is in a mode and has joined its bus. -/
def canDie (mode : Nat) : FDie := fs [(Reg.CAN_STAT_MODE 15, mode), (Reg.CAN_STAT_INTEG 15, 1), (Reg.CAN_CTL_MODE 15, 1), (Reg.CAN_ECNT_STATE 14, 2)]

/-- A controller's context with a written mode that waits, recovery, a committed frame and a late buffer. -/
def canBusy : CanCtx :=
  { order := [31], active := some (31, 5), hits := [], seen := [], modeWait := true, recov := true, armed := false, latch := false, kaWait := false, lateAt := [(31, 0)], errTx := false, wups := 0 }

theorem witness_CanControllersAndFramesHeard :
    (fieldOf 4 0 3 < 5 ∧ 5 ≤ fieldOf 5 0 3) ∧ canBusy.modeWait = true ∧ (FDie.clear.rd (Reg.CAN_CTL_MODE 0) = 0 ∧ (canDie 0).rd (Reg.CAN_CTL_MODE 15) ≠ 0) ∧
    ((canDie 0).rd (Reg.CAN_STAT_MODE 15) = 0 ∧ (canDie 1).rd (Reg.CAN_STAT_MODE 15) ≠ 0) ∧ canBusy.kaWait = false ∧
    timingBad ((FDie.clear.timing 0).1) ((FDie.clear.timing 0).2.1) ((FDie.clear.timing 0).2.2) = false ∧ timingBad 0 ((FDie.clear.timing 0).2.1) ((FDie.clear.timing 0).2.2) = true ∧
    ((canDie 1).rd (Reg.CAN_ECNT_STATE 14) = 2 ∧ canBusy.recov = true) ∧
    ((FDie.clear.rd (Reg.CAN_STAT_ACT 0) ≠ 1 ∧ FDie.clear.rd (Reg.CAN_STAT_ACT 0) ≠ 2) ∧
      ¬((fs [(Reg.CAN_STAT_ACT 0, 1)]).rd (Reg.CAN_STAT_ACT 0) ≠ 1 ∧ (fs [(Reg.CAN_STAT_ACT 0, 1)]).rd (Reg.CAN_STAT_ACT 0) ≠ 2)) ∧
    ((canDie 1).lacksCan 15 = false ∧ (FDie.clearOf 1).lacksCan 15 = true ∧ (canDie 1).rd (Reg.CAN_STAT_MODE 15) ≠ 0) := by decide +kernel

theorem witness_CanFrames :
    let f := canDie 1
    let tx := fun (k st : Nat) => f.wr (Reg.CAN_TXB_STATE 15 k) st
    (4 ≤ 15 ∧ f.canJoined 15 = true ∧ f.rec_ 15 = 0 ∧ (f.offer 15 0 0 0 []).2 = none ∧ (canDie 0).canJoined 15 = false) ∧ f.rd (Reg.CAN_CTL_XL_AS_ERROR 15) = 0 ∧
    ((63 + 64 - 0) % 64 ≤ (f.wr (Reg.CAN_RXQSTAT_FILL 15 1) 64).rd (Reg.CAN_RXQSTAT_FILL 15 1) ∧ f.rd (Reg.CAN_RXQSTAT_FILL 15 1) < (1 + 64 - 0) % 64) ∧
    (f.inPool 15 31 = false ∧ f.txState 15 31 = 0 ∧ f.txInvalid 15 31 = false ∧ bitOf (wordAt (f.elem (txKey 15 31)) 1) 6 = false) ∧
    (bitOf (wordAt ((f.setElem (txKey 15 31) [0, 64]).elem (txKey 15 31)) 1) 6 = true ∧ (f.setElem (txKey 15 31) [0, 64]).txInvalid 15 31 = false ∧
      (f.setElem (txKey 15 31) [0x80000000, 0]).txInvalid 15 31 = true) ∧
    ((f.wr (Reg.CAN_TXSQ_EN 15) 1).wr (Reg.CAN_TXSQ_BASE 15) 31).inPool 15 31 = true ∧
    ((tx 31 1).txState 15 31 = 1 ∧ (tx 31 2).txState 15 31 = 2 ∧ (tx 31 3).txState 15 31 = 3 ∧ (tx 31 4).txState 15 31 = 4 ∧ f.rd (Reg.CAN_ECNT_STATE 15) ≠ 2) ∧
    ((f.can 15).active = none ∧ (f.setCan 15 { canBusy with active := none }).chooseTx 15 = some 31) ∧
    (((f.setCan 15 canBusy).can 15).active = some (31, 5) ∧ f.rd (Reg.CAN_ECNT_TEC 15) = 0) ∧ ahas canBusy.lateAt 31 = true ∧
    ((f.canEvt 15 (Reg.CAN_EVT_LATE 15)).rd (Reg.CAN_LCFG_LATEMODE 15) = 0 ∧
      ((f.wr (Reg.CAN_LCFG_LATEMODE 15) 1).canEvt 15 (Reg.CAN_EVT_LATE 15)).rd (Reg.CAN_LCFG_LATEMODE 15) ≠ 0) ∧
    (upto 32).find? (fun i => f.inPool 15 i && (f.txState 15 i == 0 || f.txState 15 i == 4)) = none := by decide +kernel

/-- Transceivers and modes of CAN that hinder or repeat a frame: controller 2 is in STANDBY and 3 is in SLEEP, 15 in LOOPBACK. -/
def canOdd : FDie := (canDie 4).wr (Reg.CAN_XCV_STATE 2) 2 |>.wr (Reg.CAN_XCV_STATE 3) 3

/-- A stream pool of one buffer, number 31, with a packet of `n` words in the stream queue, whose words are 0 and whose length word is `lw`. -/
def pooled (lw n : Nat) : FDie :=
  let f := ((canDie 1).wr (Reg.CAN_TXSQ_EN 15) 1).wr (Reg.CAN_TXSQ_BASE 15) 31
  (f.wr (fifoRegs 271).pkt 1).wr (fifoRegs 271).en 1 |>.setFifo
    { q := 271, words := lw :: List.replicate n 0, opn := none, err := false, waiting := [], popWait := 0, left := 0, mark := (false, false, false), pages := [], put := 0, got := 0 }

theorem witness_CanFrames_more :
    let f := canOdd.wr (Reg.CAN_XCV_STATE 1) 1
    let ready := (canDie 1).setCan 15 { canBusy with active := none }
    let e := elemWord (txKey 15 31)
    let torn := { ready with mems := [{ inst := e.1, valid := [(0, e.2 + 10)], merge := [], bad := [(e.2, 3)], stuck := [], ces := [], asked := [], period := none }] }
    let off := ((canDie 1).wr (Reg.CAN_ECNT_STATE 15) 2).wr (Reg.CAN_TXB_STATE 15 31) 2
    (2 < 4 ∧ f.rd (Reg.CAN_XCV_STATE 2) = 2 ∧ 2 < f.rd (Reg.CAN_XCV_STATE 3) ∧ f.rd (Reg.CAN_XCV_STATE 1) ≤ 1) ∧
    (f.rd (Reg.CAN_STAT_MODE 15) = 4 ∧ ((f.setCan 15 canBusy).can 15).active = some (31, 5) ∧ 31 < 32 ∧ (6 : Fin 7).val = 6) ∧
    (ready.canJoined 15 = true ∧ (ready.can 15).active = none ∧ ready.chooseTx 15 = some 31 ∧ (canDie 1).chooseTx 15 = none ∧ (canDie 1).canJoined 15 = true ∧
      (ready.readWords 0xFF 0xE e.1 e.2 10).2 = false ∧ (torn.readWords 0xFF 0xE e.1 e.2 10).2 = true) ∧
    (((off.setCan 15 canBusy).can 15).lateAt = [(31, 0)] ∧ off.txState 15 31 = 2 ∧ off.rd (Reg.CAN_ECNT_STATE 15) = 2 ∧ ready.rd (Reg.CAN_ECNT_STATE 15) ≠ 2) ∧
    (FDie.clearOf 1).lacksCan 15 = true := by decide +kernel

/-- A packet of four words without data is good; one of five words, or one that is flagged, is bad (R309). -/
theorem witness_CanFrames_packets :
    let bad := fun (lw n : Nat) => let f := pooled lw n
      let p := popMany 271 (lw % 2 ^ 16) (f.pop 271).1
      (bitOf lw 31 || p.2.length != 4 + ceilDiv (codeBytes (wordAt p.2 1)) 4, f.fifoOn 271, f.rd (fifoRegs 271).pkt, (f.fifo 271).left,
        (upto 32).find? fun i => f.inPool 15 i && (f.txState 15 i == 0 || f.txState 15 i == 4))
    bad 4 4 = (false, true, 1, 0, some 31) ∧ bad 5 5 = (true, true, 1, 0, some 31) ∧ bad 0x80000004 4 = (true, true, 1, 0, some 31) := by decide +kernel

theorem witness_FieldPowerAndNetworkManagement :
    let f := fs [(Reg.FGL_PWRSTAT_STATE, 1), (Reg.CAN_NMCFG_EN 3, 1), (Reg.CAN_XCV_STATE 2, 4), (Reg.CAN_XCV_STATE 1, 2), (Reg.CAN_XCV_STATE 0, 3),
      (Reg.CAN_NMSTAT_STATE 0, 1), (Reg.CAN_NMSTAT_STATE 1, 2), (Reg.CAN_NMSTAT_STATE 2, 3), (Reg.CAN_NMSTAT_STATE 3, 2), (Reg.CAN_TXB_STATE 4 31, 2),
      (Reg.CAN_NMCFG_TXB 4, 31)]
    (f.rd Reg.FGL_PWRSTAT_STATE = 1 ∧ FDie.clear.rd Reg.FGL_PWRSTAT_STATE ≠ 1) ∧
    (f.pwrRefuse 1 = 0 ∧ f.pwrRefuse 2 = 0 ∧ (fs [(Reg.MAR_CEN_EN 15, 1)]).pwrRefuse 1 ≠ 0 ∧ (fs [(Reg.FED_STAT_STATE 3, 1)]).pwrRefuse 2 ≠ 0) ∧
    ((hs [(Reg.BAR_FSTAT_ASLEEP, 1)]).rd Reg.BAR_FSTAT_ASLEEP ≠ 0 ∧ (fs [(Reg.FGL_PWRSTAT_STATE, 2)]).rd Reg.FGL_PWRSTAT_STATE = 2 ∧ FDie.clear.stage ≠ 4) ∧
    (f.rd (Reg.CAN_NMCFG_EN 3) ≠ 0 ∧ f.rd (Reg.CAN_NMCFG_EN 0) = 0 ∧ f.rd (Reg.CAN_XCV_STATE 1) ≤ 2 ∧ f.rd (Reg.CAN_XCV_STATE 2) = 4 ∧ (f.can 2).latch = false) ∧
    (f.linkUp = false ∧ ∀ i : Fin 4, f.feedState i ≠ 4) ∧
    ((bitOf 1 0 = true ∧ (f.wr (Reg.CAN_NMCFG_FILT 0) 0).nmBad 0 0 0 = true) ∧
      ((fs [(Reg.CAN_FID_EN 15 127, 1), (Reg.CAN_STAT_MODE 15, 1)]).nmBad 15 31 127 = false ∧ bitOf 1 1 = false ∧ bitOf (f.rd Reg.GRM_LWK_PEND) 15 = false)) ∧
    (f.rd (Reg.CAN_NMCFG_NEED 3) = 0 ∧ (f.wr (Reg.CAN_NMCFG_NEED 3) 1).rd (Reg.CAN_NMSTAT_STATE 3) = 2) ∧
    (f.rd (Reg.CAN_NMSTAT_STATE 0) = 1 ∧ f.rd (Reg.CAN_NMSTAT_STATE 1) = 2 ∧ f.rd (Reg.CAN_NMSTAT_STATE 2) = 3) ∧ f.txState 4 (f.rd (Reg.CAN_NMCFG_TXB 4)) = 2 ∧
    (25 ≤ fieldOf 0x32 1 5 ∧ 20 ≤ fieldOf 0x68 1 5 ∧ fieldOf 0x68 6 2 % 2 = 1 ∧ fieldOf 0x26 1 5 < 20) ∧ (fieldOf 0xC 2 2 = 3 ∧ fieldOf 0x8 2 2 ≠ 3) ∧
    (∀ p ∈ [((23 : Fin 25).val, 1023)], p.1 ≠ 24) := by decide +kernel

theorem witness_FeedChannelsAndFaults :
    let f := fs [(Reg.FED_STAT_STATE 0, 1), (Reg.FED_STAT_STATE 1, 2), (Reg.FED_STAT_STATE 2, 3), (Reg.FED_STAT_STATE 3, 4), (Reg.FED_LIM_MV10 3, 500), (Reg.FED_LIM_SHUNT_UOHM 3, 1250),
      (Reg.FED_RAMP_RATE 3, 100), (Reg.FED_TMR_FT_US 3, 100000), (Reg.FED_VIN_UV 3, 10), (Reg.FED_WARNCFG_WARN_IN 3, 11), (Reg.FED_VIN_OV 3, 0x3C0), (Reg.FED_FETT_RTH 3, 1),
      (Reg.FED_FETT_TAU 3, 1)]
    (FDie.clear.rd (Reg.FED_STAT_STATE 3) = 0 ∧ bitOf 1 0 = true ∧ FDie.clear.rd (Reg.FED_CFG_EN 3) = 0 ∧ (fs [(Reg.FED_RAMP_RATE 3, 0)]).feedValid 3 = false ∧ f.feedValid 3 = true) ∧
    (f.rd (Reg.FED_STAT_STATE 0) = 1 ∧ f.shares 0 = false ∧ f.rd (Reg.FED_STAT_STATE 1) = 2 ∧ f.rd (Reg.FED_STAT_STATE 2) = 3 ∧ f.rd (Reg.FED_STAT_STATE 3) = 4) ∧
    (f.rd (Reg.FED_STAT_LIMIT 2) = 0 ∧ f.rd (Reg.FED_STAT_PG 2) = 0) ∧
    (({ f with stage := 0 } : FDie).stage = 0 ∧ (f.feed 3).decision = none ∧ (f.feed 3).asked = false) ∧ (9 < f.rd (Reg.FED_VIN_UV 3) ∧ f.rd (Reg.FED_VIN_OV 3) < 1023) := by decide +kernel

theorem witness_FeedChannelsAndFaults_faults :
    let f := fs [(Reg.FED_STAT_STATE 0, 2), (Reg.FED_STAT_STATE 1, 3), (Reg.FED_STAT_LIMIT 0, 1), (Reg.FED_CFG_TSRC 0, 1), (Reg.FED_CFG_SHARE 0, 1), (Reg.FED_CFG_RETRIES 3, 3),
      (Reg.FED_STAT_ATTEMPTS 3, 3), (Reg.FED_CFG_RETRIES 2, 1)]
    (f.rd (Reg.FED_STAT_STATE 0) = 2 ∧ f.rd (Reg.FED_STAT_STATE 1) = 3 ∧ f.rd (Reg.FED_STAT_STATE 3) ≠ 2 ∧ f.rd (Reg.FED_STAT_STATE 3) ≠ 3) ∧ f.rd (Reg.FED_STAT_LIMIT 0) ≠ 0 ∧
    ((-801 : Int) < -800 ∧ (3200 : Int) < 3201 ∧ f.rd (Reg.FED_CFG_TSRC 0) = 1 ∧ f.rd (Reg.FED_CFG_TSRC 3) ≠ 1) ∧ (f.shares 1 = true) ∧
    (f.rd (Reg.FED_STAT_ATTEMPTS 3) = f.rd (Reg.FED_CFG_RETRIES 3) ∧ ¬(f.rd (Reg.FED_STAT_ATTEMPTS 2) = f.rd (Reg.FED_CFG_RETRIES 2))) := by decide +kernel

theorem witness_MemoryIntegrity :
    let e : MergeEnt := { addr := 5, mask := 1, since := 0 }
    let c : MemCtx := { inst := 255, valid := [(4, 6)], merge := [e], bad := [], stuck := [], ces := [], asked := [], period := none }
    let h := hs [(Reg.MEM_CFG_SCRUB_MS, 100)]
    let m := (fs [(Reg.MEM_IRMP_EN 255 7, 1), (Reg.MEM_IRMP_ADDR 255 7, 9)]).mem
    ((({ h with mems := [] } : HDie).mem.ctx 0).period.getD (h.rd Reg.MEM_CFG_SCRUB_MS) ≠ 0 ∧ FDie.clear.rd Reg.FGL_PWRSTAT_STATE ≠ 2) ∧
    ((none : Option Nat).getD 0 = 0) ∧ (({ FDie.clear with mems := [c] } : FDie).mem.ctx 255).merge = e :: [] ∧
    (m.rd (Reg.MEM_IRMP_EN 255 7) = 1 ∧ fieldOf 8 0 17 ≠ m.rd (Reg.MEM_IRMP_ADDR 255 7) ∧ fieldOf 9 0 17 = m.rd (Reg.MEM_IRMP_ADDR 255 7) ∧ bitOf 9 31 = false) ∧
    aget (m.ctx 255).bad 5 0 = 0 := by decide +kernel

/-- Errors of controller 15: of a frame of its own, after one, of another's, and in MONITOR; its receive counter at 128; and a loop delay that counts. -/
theorem witness_CanControllersAndFramesHeard_errors :
    let own := (canDie 1).setCan 15 canBusy
    let after := (canDie 1).setCan 15 { canBusy with active := none, errTx := true }
    let fast := ((canDie 1).setCan 15 canBusy).setElem (txKey 15 31) [0, 0x30]
    let worn := ((canDie 1).wr (Reg.CAN_ECNT_REC 15) 127).wr (Reg.CAN_ECNT_RX_PASSIVE 15) 1
    (own.canJoined 15 = true ∧ (own.can 15).active = some (31, 5) ∧ (own.loopDelay 15 none).rd (Reg.CAN_STAT_MODE 15) = 1 ∧ own.rd (Reg.CAN_ECNT_STATE 15) = 0) ∧
    ((after.can 15).active = none ∧ (after.can 15).errTx = true ∧ after.canJoined 15 = true) ∧
    ((canDie 3).canJoined 15 = true ∧ ((canDie 3).can 15).active = none ∧ (canDie 3).rd (Reg.CAN_STAT_MODE 15) = 3) ∧
    (((canDie 1).can 15).active.isSome = false ∧ ((canDie 1).can 15).errTx = false) ∧
    (128 ≤ worn.rec_ 15 ∧ ((canDie 1).wr (Reg.CAN_ECNT_REC 15) 127).rec_ 15 = 127) ∧
    (bitOf (wordAt (fast.elem (txKey 15 31)) 1) 4 = true ∧ bitOf (wordAt (fast.elem (txKey 15 31)) 1) 5 = true ∧ (fast.wr (Reg.CAN_SSP_SSP_EN 15) 1).rd (Reg.CAN_SSP_SSP_EN 15) ≠ 0) := by
  decide +kernel

theorem witness_MemoryIntegrity_words :
    let c : MemCtx := { inst := 9, valid := [(4, 6)], merge := [], bad := [(5, 1)], stuck := [], ces := [], asked := [], period := none }
    let h := { hs [(Reg.MEM_ISTAT_PRESENT 9, 1)] with mems := [c] }
    let m := h.mem
    (m.isValid 9 5 = true ∧ m.isValid 9 3 = false ∧ m.isValid 9 6 = false ∧ aget (m.ctx 9).bad (m.word 9 4) 0 = 0 ∧ (m.ctx 9).stuck.contains (m.word 9 4) = false ∧
      m.merging 9 4 = false) ∧
    (m.rd (Reg.MEM_ICFG_SCRUB_EN 9) ≠ 0 ∧ m.rd (Reg.MEM_ISTAT_PRESENT 9) ≠ 0 ∧ rangeNext (m.ctx 9).valid (m.rd (Reg.MEM_ISCRUB_POS 9)) = some 4) ∧
    (m.rd (Reg.MEM_ILAST_VALID 9) = 0 ∧ m.rd (Reg.MEM_IINJ_ARM 9) = 0 ∧ (m.wr (Reg.MEM_IINJ_ARM 9) 1).rd (Reg.MEM_IINJ_ARM 9) = 1) ∧
    (m.rd (Reg.MEM_IRMP_EN 9 3) = 0 ∧ bitOf 0x80000009 31 = true ∧
      ((m.wr (Reg.MEM_IRMP_EN 9 2) 1).wr (Reg.MEM_IRMP_ADDR 9 2) 9).rd (Reg.MEM_IRMP_ADDR 9 2) = fieldOf 0x80000009 0 17) ∧
    (∀ j < 8, ∀ l < 8, m.rd (Reg.MEM_IRMP_EN 9 j) = 1 → m.rd (Reg.MEM_IRMP_EN 9 l) = 1 → m.rd (Reg.MEM_IRMP_ADDR 9 j) = m.rd (Reg.MEM_IRMP_ADDR 9 l) → j = l) := by
  decide +kernel

theorem witness_FieldPowerAndNetworkManagement_more :
    let asleep := { fs [(Reg.FGL_PWRSTAT_STATE, 2)] with stage := 0 }
    let s := st HDie.clear { FDie.clear with dueImage := true }
    (s.tellPlan.f.power ≤ 1 ∧ FDie.clear.pwrRefuse 1 = 0) ∧ (asleep.power = 2 ∧ (fs [(Reg.FGL_PWRSTAT_STATE, 2)]).rd Reg.FGL_PWRSTAT_STATE = 2) ∧
    (({ FDie.clear with stage := 1 } : FDie).stage = 1 ∧ FDie.clear.stage ≠ 1) ∧
    ((∀ i < 16, s.f.rd (Reg.MAR_CEN_EN i) = 0 ∧ s.f.rd (Reg.CAN_STAT_MODE i) = 0) ∧ s.f.dueImage = true) ∧
    ((fs [(Reg.CAN_NMCFG_EN 3, 1), (Reg.CAN_NMSTAT_STATE 3, 4)]).wr (Reg.CAN_NMCFG_NEED 3) 1).rd (Reg.CAN_NMSTAT_STATE 3) = 4 ∧
    ((fs [(Reg.CAN_NMCFG_EN 3, 1), (Reg.CAN_NMCFG_NEED 3, 1), (Reg.CAN_NMSTAT_STATE 3, 1)]).wr (Reg.CAN_NMCFG_NEED 3) 0).rd (Reg.CAN_NMSTAT_STATE 3) = 1 ∧
    (let f := (fs [(Reg.GRM_RCOND_SRC 5, 19)])
     f.rd (Reg.GRM_RCOND_SRC 5) = 19 ∧ f.rd (Reg.GRM_RCOND_COND 5) = 0 ∧ (f.rule 5).holds = false) ∧ (fs [(Reg.GRM_RCOND_SRC 5, 15)]).rd (Reg.GRM_RCOND_SRC 5) < 16 := by
  decide +kernel

theorem witness_FeedChannelsAndFaults_ends :
    let f := { fs [(Reg.FED_STAT_STATE 3, 3), (Reg.FED_STAT_LIMIT 3, 1), (Reg.FED_STAT_STATE 2, 4), (Reg.FED_COOL_RETRY_C 2, 100)] with stage := 0 }
    let hot := f.setFeed 3 { f.feed 3 with temp := 150 }
    (f.power = 0 ∧ f.rd (Reg.FED_STAT_LIMIT 3) ≠ 0 ∧ f.rd (Reg.FED_STAT_STATE 3) = 3) ∧
    (f.rd (Reg.FED_STAT_STATE 2) = 4 ∧ f.stage = 0 ∧ f.feedT 2 < ((f.rd (Reg.FED_COOL_RETRY_C 2) : Nat) : Rat) ∧ (f.feed 2).decision = none) ∧
    (150 ≤ hot.feedT 3 ∧ f.feedT 3 < 150) ∧ (f.setFeed 2 { f.feed 2 with decision := some false }).feed 2 ≠ f.feed 2 := by decide +kernel

/-! ### Faults, updates, ageing, booting and joining -/

/-- A fault message of source `n`. -/
def faultMsg (n : Nat) : FaultMsg :=
  { source := n, kind := 0x10, master := 0, access := 0, conseq := false, injected := false, react := false, addrValid := false, addr := 0, time := 0, detail := 0 }

theorem witness_FaultsAndReactions :
    let h := hs [(Reg.FLT_SSTAT_GRAVE 767, 1)]
    let sh : Shadow := { dom := 63, open_ := 0, close := 9 }
    let s := st { h with flt.outs := [(766, 0), (1, 5)] } { FDie.clear with stage := 3 }
    h.flt.inbox = [] ∧ (nextFault [faultMsg 1] = some (faultMsg 1) ∧ h.rd (Reg.FLT_SCFG_PRESENT (faultMsg 1).source) ≠ 0 ∧ h.rd (Reg.FLT_SCFG_EN (faultMsg 1).source) ≠ 0 ∧
      h.consequential (faultMsg 1) = false) ∧
    ((hs [(Reg.FLT_SCFG_PRESENT 1, 0)]).rd (Reg.FLT_SCFG_PRESENT 1) = 0 ∧ (hs [(Reg.FLT_SCFG_EN 1, 0)]).rd (Reg.FLT_SCFG_EN 1) = 0) ∧
    (bitOf 0x80000000 31 = true ∧ resetUs (fieldOf 0x80000000 0 6) = 0 ∧ fieldOf 0x80000001 0 6 = 1 ∧ bitOf 0x7FFFFFFF 31 = false) ∧
    (51 ∈ [51] ∧ 9 ∈ [9]) ∧ [sh].reverse.find? (fun y => y.dom == 63) = some sh ∧ [(5, 7)].find? (fun e => e.1 == 5) = some (5, 7) ∧
    (faultActive s 766 = true ∧ faultActive s 767 = false ∧ h.rd (Reg.FLT_SSTAT_GRAVE 767) ≠ 0 ∧ faultActive s 0 = false ∧ h.rd (Reg.FLT_SSTAT_GRAVE 0) = 0) ∧
    (256 ≤ fieldOf 0x80000100 0 10 ∧ fieldOf 0x800001FF 0 10 ≤ 511) ∧ (h.flt.outs.contains (1, 5) = false ∧ s.h.flt.outs.contains (1, 5) = true) ∧ FDie.clear.stage ≠ 4 ∧
    (h.flt.outs.contains (3, 12) = false ∧ ({ h with flt.outs := [(3, 12)] } : HDie).flt.outs.contains (3, 12) = true ∧ FDie.clear.outs.contains (270, 11) = false ∧
      ({ FDie.clear with stage := 4 } : FDie).stage = 4) := by
  decide +kernel

/-- Update engine in a state, for a slot. -/
def fwu (state slot : Nat) : HDie := hs [(Reg.FWU_STAT_STATE, state), (Reg.FWU_STAT_SLOT, slot), (Reg.FWU_CHOFF_OFFSET, 0x100), (Reg.FWU_CHLEN_LEN, 4), (Reg.FWU_RINGMOT_VAL, 0),
  (Reg.FWU_STAT_HOLDUP_LOW, 0)]

theorem witness_UpdateSessionsAndSwitching :
    let g := fun (state slot : Nat) (mot low : Bool) => (fwu state slot).fwuPins mot (low || (fwu state slot).on Reg.FWU_STAT_HOLDUP_LOW)
    ((g 1 0 false false).rd Reg.FWU_STAT_STATE ≠ 0 ∧ (g 0 0 false false).rd Reg.FWU_STAT_STATE = 0 ∧ (g 0 0 false false).bootRec.active (slotClass 4) = 4 ∧
      (g 0 0 false false).bootRec.active (slotClass 5) ≠ 5 ∧ (g 0 0 true false).fwuBar ≠ 0 ∧ (g 0 0 false true).fwuBar ≠ 0) ∧
    ((g 0 0 false false).fwuBar = 0 ∧ (g 3 5 false false).fwuBar = 0 ∧ slotClass ((g 3 5 false false).fwuSlot) = 3 ∧ slotClass ((g 3 3 false false).fwuSlot) = 2 ∧
      (g 3 5 false false).rd Reg.FWU_STAT_STATE = 3) ∧
    ((fwu 1 5).rd Reg.FWU_STAT_STATE = 1 ∧ (fwu 1 5).upd.chunk = none ∧ (0x100 % 256 = 0 ∧ 4 % 4 = 0 ∧ 0x100 + 4 ≤ slotSize 5) ∧ ¬(0x100 % 256 = 0 ∧ 6 % 4 = 0) ∧
      [(0, 0x101)].any (fun w : Nat × Nat => w.1 < 0x100 + 4 && 0x100 < w.1 + w.2) = true ∧
      [(0, 0x100)].any (fun w : Nat × Nat => w.1 < 0x100 + 4 && 0x100 < w.1 + w.2) = false) ∧
    ((fwu 2 5).rd Reg.FWU_STAT_STATE = 2 ∧ (fwu 2 5).upd.header = false ∧ (fwu 2 5).modeOf 9 = 0) ∧
    ((fwu 4 5).finishRec.rd Reg.FWU_STAT_STATE = 4 ∧ slotClass (fwu 4 5).finishRec.fwuSlot = 3 ∧ (fwu 4 1).rd Reg.FWU_STAT_STATE = 4 ∧ slotClass 1 = 1) ∧
    ((fwu 0 0).bootRec.trial = false ∧ (fwu 0 0).coreRuns = false ∧ (hs [(Reg.GLB_STATUS_BOOT, 2)]).coreRuns = true) ∧
    ((fwu 5 2).upd.load = none ∧ ({ fwu 5 2 with upd.switch := some 2 } : HDie).updatesF = true ∧ (fwu 5 0).updatesF = false) ∧
    (msgBad true 0x50 (msg 0x50 0x00180000) = false ∧ (msg 0x50 0x00180000).m1.fld 30 2 = 0 ∧ FDie.clear.stage = 3 ∧ (msg 0x50 0x00180000).m1.fld 0 16 = FDie.clear.romSeq) ∧
    (msgBad true 0x50 (msg 0x50 0x40000000) = false ∧ (msg 0x50 0x40000000).m1.fld 30 2 = 1) ∧
    (msgBad false 0x51 (msg 0x51 1) = false ∧ (msg 0x51 1).m1.fld 0 8 = 1 ∧ msgBad false 0x51 (msg 0x51 5) = false ∧ (msg 0x51 5).m1.fld 0 8 = 5) ∧
    (HDie.clear.leads = false ∧ HDie.clear.rd Reg.RED_LEADSTAT_LEAD_HUB = 0x7F ∧ (hs [(Reg.RED_LEADSTAT_STATE, 3), (Reg.GLB_HUBNUM_NUM, 1)]).leads = true ∧
      (hs [(Reg.RED_LEADSTAT_STATE, 3), (Reg.GLB_HUBNUM_NUM, 1)]).numbered = true ∧ (hs [(Reg.RED_LEADSTAT_LEAD_HUB, 5)]).rd Reg.RED_LEADSTAT_LEAD_HUB ≠ 0x7F) := by
  decide +kernel

/-- The record of a trial makes the trial the record in force. -/
theorem witness_TrialsImageStreamAndMotion_trial :
    let h := { HDie.clear with upd.flash := flashWrite [] 0 (BootRec.bytes { BootRec.blank with trial := true }) }
    h.bootRec.trial = true := by decide +kernel

theorem witness_UpdateSessionsAndSwitching_header : (fwu 2 5).checkHeader 5 ≠ 0 := by decide +kernel

theorem witness_Ageing :
    let h := HDie.clear
    ((st h { FDie.clear with linkUp := true }).linked = false ∧ (st (hs [(Reg.BAR_STAT_UP, 1)]) { FDie.clear with linkUp := true }).linked = true) ∧
    (bitOf 1 0 = true ∧ bitOf 2 0 = false) ∧ (h.fwuPins false true).rd Reg.FWU_STAT_HOLDUP_LOW ≠ 0 ∧ (29 < 30 ∧ (h.hist 29).length < 16) ∧
    ((List.replicate 16 ((0, 0) : Nat × Nat)).length = 16) ∧ 23 / 24 < (hs [(Reg.AGE_POH_HOURS, 24)]).rd Reg.AGE_POH_HOURS / 24 := by decide +kernel

/-- A join frame of SUBTYPE `sub` for number `num` from UID `uid` to UID `tuid`. -/
def joinOf (sub num uid tuid : Byte) : Frame :=
  { hdr := hdr 0x19000000 0 0 0, payload := [sub, num, 0, 1, 0, 0, 0, 0, 0, 0, 0, uid, 0, 0, 0, 0, 0, 0, 0, tuid] }

theorem witness_BootLinkAndJoining :
    let h := HDie.clear
    let quiet := fun (asleep : Nat) => ((hs [(Reg.BAR_STAT_UP, 0), (Reg.BAR_FSTAT_ASLEEP, asleep)]).wr Reg.BAR_STAT_CH_LOCK 0).barrierGone
    ((({ h with boot.inReset := true } : HDie).boot.inReset = true ∧ h.boot.inReset = false) ∧ (119 < 120 ∧ 120 ≤ (126 : Fin 128).val ∧ (126 : Fin 128).val ≤ 126)) ∧
    (h.romReads.rd Reg.GLB_STATUS_BOOT = 1 ∧ h.romReads.finishRec.boot.tryOther = false ∧ h.bootBad 1 = some 0) ∧
    (({ FDie.clear with stage := 4 } : FDie).stage = 4 ∧ FDie.clear.canTrain = true ∧ ({ FDie.clear with stage := 4 } : FDie).canTrain = false) ∧
    (h.rd Reg.BAR_STAT_UP = 0 ∧ (hs [(Reg.BAR_STAT_UP, 1)]).rd Reg.BAR_STAT_UP ≠ 0 ∧ (quiet 0).rd Reg.BAR_FSTAT_ASLEEP = 0 ∧ (quiet 1).rd Reg.BAR_FSTAT_ASLEEP ≠ 0) := by
  decide +kernel

/-- A ROM that has tried the other slot too finds the image there bad as well, and one whose boot is over does not look again. -/
theorem witness_BootLinkAndJoining_other :
    let h := { HDie.clear with boot.tryOther := true }
    (h.romReads.rd Reg.GLB_STATUS_BOOT = 1 ∧ h.romReads.finishRec.boot.tryOther = true ∧
      (h.romReads.finishRec.bootBad (1 - h.romReads.finishRec.bootRec.actM)).isSome = true) ∧
    (hs [(Reg.GLB_STATUS_BOOT, 2)]).rd Reg.GLB_STATUS_BOOT = 2 := by decide +kernel

/-- A hub of UID 5 that claims number 3 and has sent two CLAIMs. -/
def claimer : HDie :=
  { hs [(Reg.GLB_UID_UID, 5), (Reg.GLB_JOIN_STATE, 1), (Reg.GLB_HUBREQ_NUM, 3), (Reg.GLB_HUBNUM_STRAP, 127)] with boot.claimNum := 3, boot.claims := 2 }

/-- A hub of UID 5 that is number 3. -/
def holder3 : HDie := hs [(Reg.GLB_UID_UID, 5), (Reg.GLB_HUBNUM_NUM, 3), (Reg.GLB_JOIN_STATE, 2)]

/-- A join frame that a hub has not seen, from another UID. -/
def freshJoin (k : HDie) (f : Frame) : Bool :=
  f.payload.length = 20 && jUid f != (k.takeInbox f).rd Reg.GLB_UID_UID && !(k.takeInbox f).boot.seenJoin.contains (jUid f, jSeq f)

theorem witness_BootLinkAndJoining_register :
    (120 ≤ claimer.rd Reg.GLB_HUBNUM_STRAP ∧ claimer.hubNum = 0x7F ∧ claimer.rd Reg.GLB_JOIN_STATE = 1 ∧ HDie.clear.rd Reg.GLB_JOIN_STATE = 0 ∧ holder3.hubNum ≠ 0x7F) ∧
    (1 ≤ claimer.boot.claims ∧ claimer.boot.claims ≤ 2 ∧ ¬2 < claimer.boot.claims ∧ 2 < ({ claimer with boot.claims := 3 } : HDie).boot.claims) ∧
    ((claimer.wr Reg.GLB_JOIN_STATE 3).rd Reg.GLB_JOIN_STATE = 3 ∧ (claimer.wr Reg.GLB_HUBREQ_NUM (119 % 128)).rd Reg.GLB_HUBREQ_NUM < 120) := by decide +kernel

theorem witness_BootLinkAndJoining_frame :
    (freshJoin holder3 (joinOf 0x10 3 9 0) = true ∧ holder3.numbered = true ∧ jNum (joinOf 0x10 3 9 0) = holder3.hubNum) ∧
    (freshJoin claimer (joinOf 0x10 3 4 0) = true ∧ claimer.numbered = false ∧ jNum (joinOf 0x10 3 4 0) = claimer.wantNum ∧
      jUid (joinOf 0x10 3 4 0) < claimer.rd Reg.GLB_UID_UID) ∧
    (freshJoin claimer (joinOf 0x11 3 9 5) = true ∧ jTuid (joinOf 0x11 3 9 5) = claimer.rd Reg.GLB_UID_UID ∧ jTuid (joinOf 0x11 3 9 6) ≠ claimer.rd Reg.GLB_UID_UID) ∧
    (freshJoin holder3 (joinOf 0x12 120 9 0) = true ∧ 120 ≤ jNum (joinOf 0x12 120 9 0)) ∧
    (freshJoin holder3 (joinOf 0x12 3 4 0) = true ∧ jNum (joinOf 0x12 3 4 0) < 120 ∧ jNum (joinOf 0x12 3 4 0) = holder3.hubNum ∧
      jUid (joinOf 0x12 3 4 0) < holder3.rd Reg.GLB_UID_UID ∧ (holder3.wr Reg.GLB_EVT_DUP_NUM 1).numbered = true) ∧
    (freshJoin holder3 (joinOf 0x12 119 9 0) = true ∧ jNum (joinOf 0x12 119 9 0) ≠ holder3.hubNum ∧ ahas ((holder3.addMember 119).ringUpdate).boot.uids 119 = false) ∧
    freshJoin holder3 (joinOf 0x12 3 5 0) = false := by decide +kernel

/-! ### Accesses -/

theorem witness_RegisterWritesAndLocks :
    let h := hs [(Reg.BAR_STAT_UP, 1)]
    0x800000 % 4 = 0 ∧ (crosses 0x800000 = true ∧ crosses 0x7FFFFC = false) ∧ (h.fieldGone = false ∧ HDie.clear.fieldGone = true) ∧
    (h.brg.accs = [] ∧ h.brg.jobs = []) ∧ (lacksReg (HDie.clearOf 2).variant 0x20000 = true ∧ lacksReg (FDie.clearOf 1).variant 0x848000 = true) ∧
    (h.vepRefused 0x80000001 = true ∧ h.vepRefused 0x00000001 = false ∧ h.vepRefused (0x80000000 + 423 * 2 ^ 14) = false) ∧
    (lacksReg h.variant ((blocks.map fun y => y.2.2.1).getD 14 0) = false) ∧
    (pairAt 0x81000 = none ∧ pairAt (0x81000 - 4) = none ∧ ∀ f ∈ fieldsAt 0x81000, f.1.key ≠ (Reg.BRG_WIN_EN 1).key) := by decide +kernel

/-- A lockable field of a locked block: the fault collector's mode. -/
theorem witness_RegisterWritesAndLocks_field :
    let F := Reg.FLT_CFG_MODE
    let r := (hs [(Reg.FLT_LOCK_SET, 1)]).regs
    pairAt F.addr = none ∧ pairAt (F.addr - 4) = none ∧ (F, Acc.rwl) ∈ fieldsAt F.addr ∧
    (∀ f ∈ fieldsAt F.addr, f.1.key = F.key → f = (F, Acc.rwl)) ∧ regGet r (lockAt F.addr) = 1 := by decide +kernel

/-- REMOTE_READ of `n` bytes, or with `op` another remote descriptor. -/
def remote (op : Word) (n : Word) : Started := { ser := 1, desc := desc op n, slot := 0, phase := 0, status := 0, result := 0, dmaOk := true }

/-- A non-posted request to hub 5 that waits. -/
def np5 : NpReq :=
  { ser := 1, kind := 0, q := 0, master := 3, hub := 5, rnum := 9, op := 1, raddr := 0, data := [], len := 4, sent := 0, resends := 0, phase := 0, swap := false, ur := false }

theorem witness_HubAccesses :
    let h := { hs [(Reg.GLB_STATUS_ROLE, 0), (Reg.PCI_LINK_UP, 1), (Reg.BRG_WIN_EN 0, 1), (Reg.BRG_WIN_RD_EN 0, 1), (Reg.BRG_WIN_WR_EN 0, 1), (Reg.GLB_HUBNUM_NUM, 1)]
      with hostq.linkUp := true }
    let q := fun (x : Started) => ({ h with hostq.sqs := [{ q := 63, started := [x], stalled := false }] } : HDie)
    (HDie.clear.hostAttached = false ∨ HDie.clear.pcieUp = false) ∧ (h.hostAttached = true ∧ h.pcieUp = true ∧ h.npFull = false ∧ 0xFFFFF8 % 8 = 0) ∧
    (252 % 256 ≤ 252 ∧ h.rd (Reg.BRG_WIN_SWAP 0) = 0 ∧ h.winAllows 0 false = true ∧ h.winAllows 0 true = true ∧ h.winAllows 255 false = false ∧
      h.rd (Reg.BRG_WIN_WACK 0) = 0 ∧ h.pwFull = false) ∧
    (HDie.clear.current 63 3 = none ∧ (q (remote 3 257)).current 63 3 = some (remote 3 257) ∧ 256 < (remote 3 257).desc.d1.fld 0 9 ∧
      ¬((remote 3 256).desc.d1.fld 0 9 = 0 ∨ 256 < (remote 3 256).desc.d1.fld 0 9 ∨ dInline (remote 3 256).desc = true)) ∧
    ((q (remote 2 256)).current 63 2 = some (remote 2 256) ∧ dInline (remote 2 256).desc = false ∧ (q (remote 0x202 8)).current 63 2 = some (remote 0x202 8) ∧
      (remoteData (remote 0x202 8).desc none).isSome = true ∧ (q (remote 4 8)).current 63 4 = some (remote 4 8) ∧ h.goes (raHub (dRaddr (remote 4 8).desc)) true ≠ .broadcast) ∧
    (regParts h.fieldGone 0 (2 ^ 24) 0x100 8).all (fun p => match p.place with | .field _ | .window _ _ => false | _ => true) = true ∧
    ((regParts false 0 (2 ^ 24) 0x800000 4).any fun p => match p.place with | .field _ | .window _ _ => true | _ => false) = true ∧
    ({ h with brg.nps := List.replicate 32 { np5 with kind := 1 } } : HDie).npFull = true ∧ ([false, false].all fun b => !b) = true ∧
    (h.coreRuns = false ∧ h.goes (raHub 0) true = .unreachable ∧ h.self ≠ 0 ∧ h.canSend = false ∧ h.self < 120) := by decide +kernel

/-- A posted write reaches this hub and ends. -/
theorem witness_HubAccesses_posted :
    let s := st (hs [(Reg.GLB_HUBNUM_NUM, 1), (Reg.RNG_PSTAT_STATE 0, 6)]) FDie.clear
    (startPw 1 63 0 [1] State.reset).1 = some 3 ∧ (startPw 1 63 0 [1] State.reset).2.h.boot.inReset = false ∧ (startPw 1 63 (5 * 2 ^ 37) [1] s).1 = none := by
  decide +kernel

/-- A REQUEST of OP `op` and RNUM `rnum` from hub 5 to hub `dst`, without data. -/
def request (op rnum : Byte) (dst : Word) : Frame :=
  { hdr := hdr 0x16000000 (5 <<< 25) ((dst <<< 25) ||| 16) 0, payload := [op <<< 4, 0, 0, 0, 0, 0, 0, 0, 0, 0, 0, rnum, 0, 0, 0, 0] }

/-- An order record of hub 5's master 0. -/
def ord (next : Nat) : OrdRec := { src := 5, master := 0, next := next, last := 0, held := [], retry := none, slot := 0 }

theorem witness_RequestsAtTarget :
    let h := hs [(Reg.GLB_HUBNUM_NUM, 1), (Reg.BAR_STAT_UP, 1)]
    let o := fun (n : Nat) => ({ h with brg.orders := [ord n] } : HDie)
    (HDie.clear.numbered = false ∧ h.numbered = true ∧ reqFormed (request 1 40 1) = true ∧ reqFormed (request 0 40 1) = false) ∧
    ((hs [(Reg.PWM_REST_STATE, 2)]).rd Reg.PWM_REST_STATE = 2 ∧ h.rd Reg.PWM_REST_STATE < 2 ∧ hDst (request 1 40 1).hdr ≠ 127 ∧ ¬hDst (request 2 40 127).hdr ≠ 127) ∧
    (((o 41).takeInbox (request 1 40 1)).orderFor 5 0 40 = some (ord 41) ∧ 32768 ≤ (40 + 65536 - 41) % 65536) ∧
    (((o 7).takeInbox (request 1 40 1)).slotTaken 5 = false ∧ (ord 7).held.any (fun x => qRnum x.frame == 40) = false ∧ (ord 7).retry = none ∧ 32 < (40 + 65536 - 7) % 65536) ∧
    ((40 + 65536 - 8) % 65536 = 32 ∧ (40 + 65536 - 40) % 65536 = 0) ∧
    (pOp (request 2 40 127) = 2 ∧ ((h.takeInbox (request 2 40 127)).firstCopy (h.inboxOf (request 2 40 127))).1 = true) ∧ (o 7).order 5 0 = some (ord 7) ∧
    (let m := msg 0x30 0x04000000
     let s := st h { FDie.clear with linkUp := true }
     msgBad false 0x30 m = false ∧ msgBad false 0x31 m = false ∧ (hostTook 0x30 m (s.withF (s.f.keepReq m))).h.backsOff = false ∧
       ({ h with brg.bar := { h.brg.bar with tx := [msg 0x30 0] } } : HDie).backsOff = true ∧ msgBad true 0x30 m = false ∧
       msgBad true 0x31 (msg 0x31 0x14000000) = false ∧ reqWin (msg 0x31 0x14000000) = true) := by decide +kernel

/-- A posted write to hub 5 that is not settled. -/
def pw5 : PostedW :=
  { ser := 1, master := 3, hub := 5, rnum := 9, raddr := 0, data := [], time := 0, orig := 0, resent := false, wait := false, resends := 0, slot := 0, fid := none }

theorem witness_ResponsesAtOrigin :
    let h : HDie := { HDie.clear with brg.nps := [np5], brg.posted := [pw5] }
    let w : BarWait := { tag := 4095, acc := 0, at_ := 0, len := 4, write := false }
    let fw : FWait := { msg := msg 0x0FFF0030 0, back := true }
    (h.findNp 5 3 9 = some np5 ∧ np5.phase = 0 ∧ np5.resends < h.retries ∧ HDie.clear.findNp 5 3 9 = none) ∧ (h.findPw 5 3 9 = some pw5 ∧ HDie.clear.findPw 5 3 9 = none) ∧
    ((HDie.clear.firstCopy { port := 0, stamp := 0, untrk := true, dup := false, frame := request 2 40 1 }).1 = true ∧
      (({ HDie.clear with brg.seen := [(5 * 4096, 0)] } : HDie).firstCopy { port := 0, stamp := 0, untrk := true, dup := false, frame := request 2 40 1 }).1 = false) ∧
    (let d := fun (asked : List HaReq) (reports : List PwReport) =>
       ((({ h with brg.reports := reports, spl.reqs := asked } : HDie).advance (pw5.time + ofUs (max 1 (h.rd Reg.BRG_RCFG_PW_US)))).bump Reg.BRG_TMO_COUNT)
     let told := fun (g : HDie) => g.brg.reports.any fun x => x.hub == 5 && x.master == 3 && x.rnum == 9
     let ask : HaReq := { func := 13, cookie := 0, detail0 := 0, detail1 := 0, ctx := pwKey 5 3 9 0, time := 0, place := 0, posted := true }
     told (d [] [{ hub := 5, master := 3, rnum := 9 }]) = true ∧ told (d [] []) = false ∧ (d [] []).pwAsked pw5 = false ∧ (d [ask] []).pwAsked pw5 = true ∧ 5 < 120) ∧
    HDie.clear.numbered = false ∧ [w].find? (fun x => x.tag == 4095) = some w ∧ [fw].find? (fun x => mTag x.msg == mTag fw.msg && x.back) = some fw := by decide +kernel

/-! ### Rules stated whole -/

theorem witness_ReservedRegions :
    let h := { hs [(Reg.GLB_STATUS_ROLE, 0), (Reg.PCI_LINK_UP, 1)] with hostq.linkUp := true }
    h.hostAttached = true ∧ h.pcieUp = true ∧ h.npFull = false ∧ (0xF0000 % 4 = 0 ∧ 0x7FFFFC < 0x800000 ∧ 0x900000 % 4 = 0 ∧ 0xFFFFFC < 2 ^ 24) := by decide +kernel

theorem witness_OwnerWrites : HDie.clear.self = HDie.clear.rd Reg.FWU_OWNER_HUB ∧ 5 ≠ HDie.clear.rd Reg.FWU_OWNER_HUB := by decide +kernel

theorem witness_ReleasedElements :
    let f := (fs [(Reg.CAN_RXQSTAT_GET 15 1, 63), (Reg.CAN_RXQSTAT_FILL 15 1, 64)])
    f.rd (Reg.CAN_RXQSTAT_GET 15 1) < 64 ∧ (62 % 64 + 64 - 63) % 64 ≤ f.rd (Reg.CAN_RXQSTAT_FILL 15 1) ∧ FDie.clear.rd (Reg.CAN_RXQSTAT_FILL 0 0) < (1 % 64 + 64 - 0) % 64 := by
  decide +kernel

theorem witness_BootRecordRoundTrip :
    let r : BootRec := { seq := 2 ^ 32 - 1, actM := 1, actF := 0, actC := 1, trial := true, tryUsed := false, minrb := 7, keyrev := 15 }
    r.seq < 2 ^ 32 ∧ r.actM < 2 ∧ r.actF < 2 ∧ r.actC < 2 ∧ r.minrb < 2 ^ 32 ∧ r.keyrev < 16 := by decide +kernel

/-! ### Reactions to faults, updates and the other rules of chapters 16 to 20 -/

/-- A fault of kind `k` at source 5, time 0. -/
def fault5 (k : Nat) : FaultMsg := { faultMsg 5 with kind := k }

/-- A host die in mode C whose source 5 has class `c`. -/
def modeC (c : Nat) : HDie := hs [(Reg.FLT_CFG_MODE, 1), (Reg.FLT_SCFG_CLASS 5, c)]

/-- A host die whose source 5 acted at time 0 on step `st`. -/
def acted (step : Nat) : HDie := { hs [(Reg.FLT_SSTAT_STEP 5, step)] with flt.lastAct := [(5, 0)] }

/-- A host die whose function `f` is in HA-host mode. -/
def asks (h : HDie) (f : Nat) : HDie := (h.wr (Reg.SPL_FCFG_MODE f) 2).wr (Reg.SPL_FSTAT_STATE f) 2 |>.wr (Reg.SPL_FSTAT_HWSERVE f) 0

theorem witness_FaultsAndReactions_levels :
    (hs [(Reg.FLT_SCFG_SEV 5, 0)]).faultLevel (fault5 0x34) = 0 ∧ HDie.clear.faultLevel (fault5 0x10) = 1 ∧ (modeC 1).faultLevel (fault5 0x10) = 2 ∧
      (modeC 2).faultLevel (fault5 0x10) = 3 ∧ kindClass (fault5 0x10).kind = 0 ∧ (modeC 0).faultLevel (fault5 0x11) = 2 ∧ (modeC 0).faultLevel (fault5 0x34) = 3 ∧
      (modeC 0).climb (fault5 0x34) = (0, 0) := by decide +kernel

theorem witness_FaultsAndReactions_steps :
    (acted 1).stepNow 5 0 = (1, true) ∧ (acted 1).stepNow 5 (10 ^ 12) = (0, false) ∧ 0 + 1000000 * max 1 ((acted 1).rd Reg.FLT_TIM_REPEAT_MS) < 10 ^ 12 ∧
      HDie.clear.modeOf 8 = 0 ∧ (asks (acted 1) 8).stepNow 5 0 = (1, true) ∧ (asks (acted 1) 8).modeOf 8 ≠ 0 ∧ (asks (acted 1) 8).mayAsk 8 = true ∧
      ({ asks (acted 1) 8 with spl.buckets := [(8, (0, 0))] } : HDie).mayAsk 8 = false ∧ (acted 2).stepNow 5 0 = (2, true) ∧
      (asks (acted 1) 8).climb (fault5 0x34) = (1, 1) := by decide +kernel

theorem witness_FaultsAndReactions_reacts :
    (bitOf 8 3 = true ∧ bitOf 4 3 = false ∧ bitOf 4 2 = true ∧ bitOf 3 2 = false) ∧ HDie.clear.coreRuns = false ∧ (hs [(Reg.GLB_STATUS_BOOT, 2)]).coreRuns = true ∧
      [((5 : Nat), (fault5 0x34, true))].find? (fun e => e.1 == 5) = some (5, (fault5 0x34, true)) ∧ (fault5 0x34).injected = false ∧
      ({ fault5 0x34 with injected := true } : FaultMsg).injected = true ∧ HDie.clear.rd Reg.FLT_GRAVE_VALID = 0 ∧ HDie.clear.rd Reg.FLT_FECSTAT_VALID = 0 ∧
      HDie.clear.rd Reg.FLT_CFG_FEC_CE = 0 := by decide +kernel

theorem witness_FaultsAndReactions_units :
    let s := st HDie.clear { FDie.clear with outs := [(270, 9)] }
    (nextFault [faultMsg 1] = some (faultMsg 1) ∧ (hs [(Reg.FLT_SSTAT_PEND 1, 1)]).rd (Reg.FLT_SSTAT_PEND 1) = 1) ∧ s.f.outs.contains (270, 9) = true ∧
      FDie.clear.power ≤ 1 ∧ 1 < (fs [(Reg.FGL_PWRSTAT_STATE, 2)]).power ∧ (51 ∈ ({ HDie.clear with flt.resets := [51, 9] } : HDie).flt.resets) ∧
      ({ HDie.clear with upd.switch := some 0 } : HDie).upd.switch.any (fun y => slotClass y == 1) = true ∧ HDie.clear.upd.switch.any (fun y => slotClass y == 1) = false := by
  decide +kernel

theorem witness_BlockResets :
    let s := st (hs [(Reg.BAR_STAT_UP, 1)]) { FDie.clear with linkUp := true }
    resetUs 0 = 0 ∧ resetUs 18 ≠ 0 ∧ (s.withH (s.h.openShadow 18)).linked = true ∧ (State.reset.withH (State.reset.h.openShadow 18)).linked = false ∧
      HDie.clear.bootRec.trial = false ∧ (hs [(Reg.RNG_PSTAT_STATE 0, 0)]).rd (Reg.RNG_PSTAT_STATE 0) = 0 ∧ (hs [(Reg.RNG_PSTAT_STATE 0, 6)]).rd (Reg.RNG_PSTAT_STATE 0) ≠ 0 ∧
      (fs [(Reg.GRM_INCFG_FILT 3, 1)]).rd (Reg.GRM_INCFG_FILT 3) = 1 ∧
      (let h := { hs [(Reg.GLB_STATUS_BOOT, 2)] with upd.flash := flashWrite [] 0 (BootRec.bytes { BootRec.blank with trial := true }) }
       h.bootRec.trial = true ∧ h.coreRuns = true) := by decide +kernel

/-- A slot 5 image of no payload, at the flash's place of slot 5: LENGTH 0 and the digest of nothing (FIPS 180-4). -/
def emptyImage : List Byte :=
  List.replicate 32 0 ++
  [0x38, 0xb0, 0x60, 0xa7, 0x51, 0xac, 0x96, 0x38, 0x4c, 0xd9, 0x32, 0x7e, 0xb1, 0xb1, 0xe3, 0x6a, 0x21, 0xfd, 0xb7, 0x11, 0x14, 0xbe, 0x07, 0x43, 0x4c, 0x0c,
   0xc7, 0xbf, 0x63, 0xf6, 0xe1, 0xda, 0x27, 0x4e, 0xde, 0xbf, 0xe7, 0x6f, 0x65, 0xfb, 0xd5, 0x1a, 0xd2, 0xf1, 0x48, 0x98, 0xb9, 0x5b]

/-- The digest of a payload of no bytes is the one that FIPS 180-4 gives. -/
theorem witness_UpdateSessionsAndSwitching_digest :
    let h := fun (bs : List Byte) => { HDie.clear with upd.flash := flashWrite [] (slotBase 5) bs }
    (h emptyImage).digestOk 5 = true ∧ (h (emptyImage.take 79 ++ [0])).digestOk 5 = false := by decide +kernel

theorem witness_UpdateSessionsAndSwitching_more :
    let g := fun (state slot : Nat) => (fwu state slot).fwuPins false ((fwu state slot).on Reg.FWU_STAT_HOLDUP_LOW)
    ((g 3 1).rd Reg.FWU_STAT_STATE = 3 ∧ (g 3 1).fwuBar = 0 ∧ slotClass ((g 3 1).rd Reg.FWU_STAT_SLOT) = 1 ∧ slotClass ((g 3 3).rd Reg.FWU_STAT_SLOT) = 2 ∧
      (g 3 3).fwuBar = 0) ∧
    ((asks (fwu 2 5) 9).modeOf 9 ≠ 0 ∧ (asks (fwu 2 5) 9).mayAsk 9 = true) ∧
    ({ fwu 2 5 with upd.header := true } : HDie).upd.header = true ∧ (({ fwu 1 5 with upd.chunk := some (0, [1]) } : HDie).upd.chunk = some (0, [1])) ∧
    (({ fwu 4 0 with upd.switch := some 0 } : HDie).upd.switch = some 0 ∧ slotClass 0 = 1) := by decide +kernel

theorem witness_TrialsImageStreamAndMotion :
    let trial := { hs [(Reg.GLB_STATUS_BOOT, 2), (Reg.FWU_STAT_STATE, 5)] with upd.flash := flashWrite [] 0 (BootRec.bytes { BootRec.blank with trial := true }) }
    let l : FLoad := { slot := 2, tried := false, sent := true, ran := false }
    (trial.bootRec.trial = true ∧ trial.coreRuns = true ∧ (hs [(Reg.GLB_STATUS_BOOT, 2)]).boot.coreOk = false ∧ (hs [(Reg.GLB_STATUS_BOOT, 2)]).bootRec.trial = false) ∧
    ([3, 4, 5, 6].all fun k => !msgBad false 0x51 (msg 0x51 k)) = true ∧ (msg 0x51 6).m1.fld 0 8 = 6 ∧
    (({ HDie.clear with upd.load := some l } : HDie).upd.load = some l ∧ (5 : Word).toNat ≠ ({ HDie.clear with upd.load := some l } : HDie).imageVersion 2 ∧
      (0xFFFFFFFF : Word).toNat = ({ HDie.clear with upd.load := some l } : HDie).imageVersion 2) ∧
    ({ HDie.clear with upd.saveDue := true } : HDie).upd.saveDue = true ∧ HDie.clear.upd.saveDue = false := by decide +kernel

theorem witness_Ageing_more :
    ((HDie.clear.rd Reg.AGE_POH_HOURS) / 24 = 0 ∧ 23 / 24 ≤ 0) ∧ HDie.clear.rd Reg.BAR_STAT_UP = 0 ∧ (hs [(Reg.BAR_STAT_UP, 1)]).rd Reg.BAR_STAT_UP ≠ 0 ∧
      ({ HDie.clear with age.hist := [(3, List.replicate 16 ((0, 0) : Nat × Nat))] } : HDie).hist 3 = List.replicate 16 (0, 0) := by decide +kernel

theorem witness_BootLinkAndJoining_straps :
    ((none : Option (Fin 128)) = none ∧ (((some 5 : Option (Fin 128)).map fun x => x.val).getD 0x7F = 5)) ∧
      (({ HDie.clear with boot.inReset := true } : HDie).rd Reg.BAR_STAT_UP = 0) := by decide +kernel

theorem witness_HubAccesses_more :
    let h := { hs [(Reg.GLB_STATUS_ROLE, 0), (Reg.PCI_LINK_UP, 1), (Reg.GLB_HUBNUM_NUM, 1), (Reg.RNG_PSTAT_STATE 0, 6)] with hostq.linkUp := true }
    h.canSend = true ∧ h.goes 5 true = .ring ∧ h.goes 127 true = .broadcast ∧ h.goes 121 true = .refused ∧ h.goes 1 true = .local_ ∧
      (h.readWords 0x40 2 52 0 1).2 = false ∧
      (let x : MemCtx := { inst := 52, valid := [(0, 2)], merge := [], bad := [(0, 3)], stuck := [], ces := [], asked := [], period := none }
       let u := { h with mems := [x] }
       (u.readWords 0x40 2 52 0 1).2 = true) := by decide +kernel

theorem witness_RequestsAtTarget_sleep :
    let m : BarMsg := { msg 0x31 0x04000100 with m2 := 0, m3 := 2 }
    reqWin m = false ∧ FDie.clear.sleepDue 0x800100 2 = true := by decide +kernel

theorem witness_ResponsesAtOrigin_more :
    ({ pw5 with fid := some 3 } : PostedW).fid = some 3 ∧ HDie.clear.retries ≤ ({ np5 with resends := 16 } : NpReq).resends ∧ ({ np5 with phase := 3 } : NpReq).phase ≠ 0 := by
  decide +kernel

/-! ### What every step keeps -/

/-- A hub whose join has begun, and a state in which no function asks, are met at reset, and a step from reset answers. -/
theorem witness_CanonicalFormsKept :
    State.reset.canonical = true ∧ (match step State.reset with | .next _ => true | _ => false) = true := by decide +kernel

theorem witness_NumberAndLockStay :
    (hs [(Reg.GLB_HUBNUM_NUM, 3), (Reg.GLB_JOIN_STATE, 2), (Reg.GLB_LOCK_SET, 1)]).hubNum ≠ 0x7F ∧
      ¬(hs [(Reg.GLB_HUBNUM_NUM, 3), (Reg.GLB_JOIN_STATE, 2)]).rd Reg.GLB_JOIN_STATE ≤ 1 ∧ (hs [(Reg.GLB_LOCK_SET, 1)]).rd Reg.GLB_LOCK_SET = 1 := by decide +kernel

theorem witness_FieldCommandsKeepTheHost :
    fieldCommand .fieldPowerOn = true ∧ (match exec .fieldPowerOn State.reset with | .next _ => true | _ => false) = true := by decide +kernel

theorem witness_FieldCommandsKeepTheHost_unasked : State.reset.unasked := by
  have low : ∀ k < 16, State.reset.h.modeOf k = 0 := by decide +kernel
  refine ⟨fun f => ?_, rfl⟩
  by_cases c : f < 16
  · exact low f c
  · simp only [HDie.modeOf, show decide (16 ≤ f) = true from decide_eq_true (by omega), Bool.true_or, if_true]

theorem witness_HostMemoryFrame :
    let b : RxBuf := { q := 1, ser := 5, haddr := 64, len := 64, dmaOk := true }
    quietCommand .fecClear = true ∧ State.reset.h.spl.peerOut = [] ∧ b.dmaOk = true ∧
      (({ HDie.clear with hostq.sqs := [{ q := 1, started := [remote 3 8], stalled := false }] } : HDie).sq 1).started.find? (fun x => x.ser == 1) = some (remote 3 8) ∧
      dInline (remote 3 8).desc = false := by
  decide +kernel

/-! ### Ill-formed commands are refused -/

/-- A frame whose payload is one byte longer than its header's LEN says. -/
def longFrame : Frame := { hdr := hdr 0 0 0 0, payload := [0] }

/-- A frame of 9,729 bytes. -/
def hugeFrame : Frame := { hdr := hdr 0 0 9729 0, payload := List.replicate 9729 0 }

theorem test_frame_too_long_refused : hugeFrame.ok = false := by decide +kernel

theorem test_frame_length_refused :
    [Instr.pathStateReceived longFrame, .syncReceived longFrame 0, .healthReceived longFrame, .requestReceived longFrame,
      .responseReceived longFrame, .retryReceived longFrame, .broadcastWriteReceived longFrame, .ackReceived longFrame,
      .errorReportReceived longFrame, .eventFrameReceived longFrame, .claimReceived longFrame, .objectReceived longFrame,
      .joinedReceived longFrame].all (fun (i : Instr) => !WellFormed i) = true := by decide

theorem test_bar0_data_refused : WellFormed (.bar0Access false true 0 4 [0]) = false := by decide

theorem test_bar4_no_enable_refused : WellFormed (.bar4Access false 0 [] []) = false := by decide

theorem test_bar4_data_refused : WellFormed (.bar4Access true 0 [true] []) = false := by decide

theorem test_nine_descriptors_refused : WellFormed (.descriptorFetch 0 (List.replicate 9 (desc 0 0))) = false := by decide

theorem test_read_too_long_refused :
    [Instr.sendFrame 0 (some (List.replicate 9729 0)), .remoteWrite (.inl 0) (some (List.replicate 9729 0)),
      .remoteWriteAck (.inl 0) (some (List.replicate 9729 0)), .launchAt 0 (some (List.replicate 9729 0))].all
        (fun (i : Instr) => !WellFormed i) = true := by decide +kernel

theorem test_core_access_refused :
    [Instr.remoteWrite (.inr { addr := 0, len := 4, data := [] }) none, .remoteRead (.inr { addr := 0, len := 0, data := [] }) true,
      .remoteRead (.inr { addr := 0, len := 257, data := [] }) true, .remoteRead (.inr { addr := 2 ^ 44, len := 4, data := [] }) true,
      .remoteRead (.inr { addr := 0, len := 1, data := [0] }) true, .remoteWriteAck (.inr { addr := 0, len := 4, data := [] }) none].all
        (fun (i : Instr) => !WellFormed i) = true := by decide

theorem test_doorbell_refused :
    [Instr.sqTailDoorbell { wr := true, a := 0x400, len := 4, data := 0 }, .sqTailDoorbell { wr := true, a := 0, len := 0, data := 0 },
      .cqHeadDoorbell { wr := true, a := 0x3F8, len := 4, data := 0 }, .cqHeadDoorbell { wr := true, a := 0x800, len := 4, data := 0 },
      .eqHeadDoorbell { wr := true, a := 0x7F8, len := 4, data := 0 }, .eqHeadDoorbell { wr := false, a := 0x800, len := 9, data := 0 }].all
        (fun (i : Instr) => !WellFormed i) = true := by decide

theorem test_image_slice_refused : WellFormed (.outputMapFetch 0 0 (some (0, List.replicate 4097 0, 0))) = false := by
  decide +kernel

theorem test_frame_head_refused : WellFormed (.ringFrameHeaderReceived 0 (hdr 0 0 0 0) (List.replicate 105 0) 0 0 false) = false := by
  decide

theorem test_received_payload_refused :
    [Instr.ringFrameTrailerReceived 0 (List.replicate 9729 0) 0 false, .spurFrameReceived 0 (List.replicate 9729 0) true 0 false 0].all
        (fun (i : Instr) => !WellFormed i) = true := by decide +kernel

theorem test_shift_levels_refused :
    [Instr.shiftIn 0 (List.replicate 33 0), .shiftInNb 0 (List.replicate 33 0)].all (fun (i : Instr) => !WellFormed i) = true := by
  decide

theorem test_can_bytes_refused : WellFormed (.canFrameReceived 0 0 0 (List.replicate 65 0) 0) = false := by decide

theorem test_samples_twice_refused : WellFormed (.groomSample [(3, 1), (3, 2)]) = false := by decide

theorem test_readings_twice_refused : WellFormed (.monitorReading [] [(2, 1), (2, 3)]) = false := by decide

theorem test_well_formed_accepted :
    [Instr.syncReceived { hdr := hdr 0 0 2 0, payload := [0, 0] } 7, .bar4Access true 0 [true, false] [1, 2], .groomSample [(3, 1), (4, 2)],
      .remoteRead (.inr { addr := 2 ^ 44 - 1, len := 256, data := [] }) true].all WellFormed = true := by decide

/-! ### Worked cases of the spec -/

/-- R118: the check value of HCRC for the nine characters from 1 to 9. -/
theorem test_hcrc_check_value : crc16 [0x31, 0x32, 0x33, 0x34, 0x35, 0x36, 0x37, 0x38, 0x39] = 0x29B1 := by decide +kernel

/-- The Ashgrove cell's window 5 onto CAN_2 of hub 9 (R51): hub 9, endpoint 0x092. -/
theorem test_window_address :
    (hs [(Reg.BRG_WIN_EN 5, 1), (Reg.BRG_WIN_WR_EN 5, 1), (Reg.BRG_WIN_RD_EN 5, 1), (Reg.BRG_WIN_HUB 5, 9), (Reg.BRG_WIN_EP 5, 0x092)]).winAddr
      0x1400040 = 0x12490000040 := by decide +kernel

/-- The same window's register value as the Ashgrove software writes it spells those fields (R51). -/
theorem test_window_register :
    (match step { State.reset with pending := [.brgWinWrite 5 0x98924800] } with
    | .next t => (t.h.rd (Reg.BRG_WIN_HUB 5), t.h.rd (Reg.BRG_WIN_EP 5), t.h.rd (Reg.BRG_WIN_OFFS 5), t.pending.length)
    | _ => (0, 0, 0, 1)) = (9, 0x092, 0, 0) := by decide +kernel

/-! ### Variants (R2, R3, R6, R371, R358) -/

/-- VARIANT, and whether engine 0, engine 127, SP_1, SP_2, the memories of clusters 8, CAN_7 and CAN_8 and of the PCI queues are present, on each variant. -/
theorem test_variants :
    ([0, 1, 2].map fun v => let s := State.resetOf v
      ([s.h.rd Reg.GLB_IDENT_VARIANT, s.h.rd (Reg.FLT_SCFG_PRESENT 272), s.h.rd (Reg.FLT_SCFG_PRESENT 399), s.h.rd (Reg.FLT_SCFG_PRESENT 8),
        s.h.rd (Reg.FLT_SCFG_PRESENT 9), s.f.rd (Reg.MEM_ISTAT_PRESENT 72), s.f.rd (Reg.MEM_ISTAT_PRESENT 104), s.f.rd (Reg.MEM_ISTAT_PRESENT 105),
        s.h.rd (Reg.MEM_ISTAT_PRESENT 51)] : List Nat))
    = [[0, 1, 1, 1, 1, 1, 1, 1, 1], [1, 1, 0, 1, 0, 0, 1, 0, 1], [2, 1, 1, 0, 0, 1, 1, 1, 0]] := by decide +kernel

/-- The BH-7260 is the variant of State.reset. -/
theorem test_variant_of_reset : State.resetOf 0 = State.reset := by decide +kernel

/-- Endpoints that R3 names as unoccupied, and the last one before each. -/
theorem test_absent_endpoints :
    ([79, 80, 143, 151, 152, 159, 421, 422, 423, 424].map (lacksEp 1), [420, 423, 424, 144].map (lacksEp 2)) =
      ([false, true, true, false, true, true, false, true, true, false], [true, true, true, false]) := by decide

/-- Units that a variant lacks, and units that every variant has. -/
theorem witness_AbsentUnits :
    let f := FDie.clearOf 1
    let s := State.resetOf 2
    (f.lacksCan 8 = true ∧ f.lacksCan 7 = false ∧ f.lacksCluster 8 = true ∧ f.lacksCluster 7 = false ∧ f.lacksFifo 64 = true ∧ f.lacksFifo 63 = false ∧
      f.lacksFifo 280 = true ∧ f.lacksFifo 279 = false ∧ f.lacksFifo 288 = false) ∧
    (lacksSpur s.h.variant 0 = true ∧ lacksReg s.h.variant 0x20000 = true ∧ lacksReg s.h.variant 0x6FF04 = true ∧ s.h.boot.inReset = false) ∧
    (lacksReg f.variant 0x848000 = true ∧ f.sleepDue 0x848000 0 = false ∧ 0x848000 % 4 = 0) ∧
    (∀ n < 16, FDie.clear.lacksCan n = false ∧ FDie.clear.lacksCluster n = false) ∧ lacksSpur HDie.clear.variant 3 = false ∧
    HDie.clear.vepRefused 0x80000000 = true ∧ (HDie.clearOf 1).vepRefused 0x80144000 = true ∧ (HDie.clearOf 1).vepRefused 0x80130000 = false := by decide +kernel

end Sys2Proof.Tests
end

