-- ==== Sys2Proof/Proofs/Reserved.lean ====
section
/-! The reserved regions of BAR0 (Table 2.7, R48). No block of Table 2.10 reaches into them, so no register stands there: both register paths of the host die leave the
state as it is, every part of an access to them is a part of that kind, and the access ends with zeros. -/
namespace Sys2Proof.Machine

/-! ### No register stands in a reserved region -/

/-- `a` is the address of an aligned word in a reserved region of BAR0 (Table 2.7). -/
def ReservedAt (a : Nat) : Prop := a % 4 = 0 ∧ ((0xF0000 ≤ a ∧ a < 0x800000) ∨ 0x900000 ≤ a)

theorem blockOf_eq_none {bs : List (Nat × Nat × Nat × List RegRow)} {a : Nat} (h : ∀ b ∈ bs, ¬(b.1 ≤ a ∧ a ≤ b.2.1)) : blockOf bs a = none := by
  induction bs with
  | nil => rfl
  | cons b bs ih =>
    obtain ⟨hb, hbs⟩ := List.forall_mem_cons.mp h
    simpa [blockOf, hb] using ih hbs

/-- Table 2.10 places every block below 0x0F_0000 or between 0x80_0000 and 0x90_0000. -/
theorem blocks_outside_reserved : ∀ b ∈ blocks, b.2.1 < 0xF0000 ∨ (0x800000 ≤ b.1 ∧ b.2.1 < 0x900000) := by
  simp [blocks]

theorem fieldsAt_reserved {a : Nat} (h : ReservedAt a) : fieldsAt a = [] := by
  have none_ : blockOf blocks a = none := blockOf_eq_none fun b hb => by
    have := blocks_outside_reserved b hb
    obtain ⟨-, h⟩ := h
    omega
  simp [fieldsAt, none_]

/-- The word before a reserved one is reserved too, or the last word of block BAR or FFL, where no register stands. -/
theorem fieldsAt_before_reserved {a : Nat} (h : ReservedAt a) : fieldsAt (a - 4) = [] := by
  obtain ⟨aligned, range⟩ := h
  by_cases first : a = 0xF0000 ∨ a = 0x900000
  · rcases first with rfl | rfl
    · rfl
    · rfl
  · exact fieldsAt_reserved ⟨by omega, by omega⟩

theorem pairAt_eq_none {a : Nat} (h : fieldsAt a = []) : pairAt a = none := by simp [pairAt, h]

theorem HDie.plainRead_reserved (h : HDie) {a : Nat} (ha : ReservedAt a) : h.plainRead a = (0, h) := by
  simp [HDie.plainRead, Machine.plainRead, pairAt_eq_none, fieldsAt_reserved ha, fieldsAt_before_reserved ha]

theorem HDie.plainWrite_reserved (h : HDie) {a : Nat} (ha : ReservedAt a) (v : Nat) : h.plainWrite a v = h := by
  simp [HDie.plainWrite, Machine.plainWrite, pairAt_eq_none, fieldsAt_reserved ha, fieldsAt_before_reserved ha]

/-! ### Both register paths of the host die -/

theorem memInst_reserved {a : Nat} (ha : ReservedAt a) : memInst a = none := by
  obtain ⟨-, range⟩ := ha
  simp only [memInst, Bool.and_eq_true, decide_eq_true_eq, ite_eq_right_iff, reduceCtorEq]
  omega

theorem bridgeWord_reserved {a : Nat} (ha : ReservedAt a) : bridgeWord a = none := by
  obtain ⟨-, range⟩ := ha
  have noWin : ¬(0x81000 ≤ a ∧ a < 0x81400) := by omega
  have noVep : ¬(0x82000 ≤ a ∧ a < 0x82940) := by omega
  simp [bridgeWord, noWin, noVep]

theorem HDie.regRead_reserved (h : HDie) (master access : Nat) {a : Nat} (ha : ReservedAt a) : h.regRead master access a = (0, 0, h) := by
  have noBridge := bridgeWord_reserved ha
  have plain := h.plainRead_reserved ha
  obtain ⟨-, range⟩ := ha
  have noTime : a ≠ 0x70000 := by omega
  have noPtp : ¬(0x70200 ≤ a ∧ a < 0x70300) := by omega
  have noTable : ¬(0x43000 ≤ a ∧ a < 0x4F000) := by omega
  simp [HDie.regRead, noTime, noPtp, noTable, noBridge, plain]

/-- From the 64 KiB of block BAR on, a register that the variant has is written as its access codes say and no more. -/
theorem HDie.regWrite_plain (h : HDie) (from_ master v : Nat) {a : Nat} (ha : 0xE ≤ a / 0x10000) (lacks : lacksReg h.variant a = false) :
    h.regWrite from_ master a v = h.plainWrite a v := by
  unfold HDie.regWrite
  rw [if_neg (by simp [lacks])]
  split
  case h_14 => rfl
  all_goals omega

theorem HDie.regWrite_reserved (h : HDie) (from_ master v : Nat) {a : Nat} (ha : ReservedAt a) : h.regWrite from_ master a v = h := by
  by_cases lacks : lacksReg h.variant a = true
  · simp [HDie.regWrite, lacks]
  · have page : 0xE ≤ a / 0x10000 := by obtain ⟨-, range⟩ := ha; omega
    rw [h.regWrite_plain from_ master v page (by simpa using lacks), h.plainWrite_reserved ha]

theorem hostRead_reserved (master access : Nat) (s : State) {a : Nat} (ha : ReservedAt a) : hostRead master access a s = (0, 0, s) := by
  have noMem := memInst_reserved ha
  have reg := s.h.regRead_reserved master access ha
  obtain ⟨-, range⟩ := ha
  have noStat : a ≠ 0xA0008 := by omega
  have noSource : ¬(0xA1000 ≤ a ∧ a < 0xA4000) := by omega
  simp [hostRead, noStat, noSource, noMem, reg]

theorem hostWrite_reserved (from_ master v : Nat) (s : State) {a : Nat} (ha : ReservedAt a) : hostWrite from_ master a v s = s := by
  have reg := s.h.regWrite_reserved from_ master v ha
  obtain ⟨-, range⟩ := ha
  have noReset : a ≠ 0x1C := by omega
  have noBlock : a ≠ 0xA0018 := by omega
  have noInject : a ≠ 0xA0060 := by omega
  have noSource : ¬(0xA1000 ≤ a ∧ a < 0xA4000) := by omega
  have noWake : a ≠ 0xE0030 := by omega
  have noMem : a / 0x10000 ≠ 9 := by omega
  simp [hostWrite, noReset, noBlock, noInject, noSource, noWake, noMem, reg]

/-! ### The parts of an access to a reserved region -/

/-- A part of an access that is one reserved word of the host die's register space. -/
def Part.Reserved (p : Part) : Prop := p.len = 4 ∧ ∃ r, p.place = .host r ∧ ReservedAt r

theorem crosses_reserved {a : Nat} (ha : ReservedAt a) : crosses a = false := by
  have noMem := memInst_reserved ha
  obtain ⟨-, range⟩ := ha
  have noField : 0x800000 ≤ a → 0x900000 ≤ a := by omega
  simpa [crosses, noMem] using noField

theorem isPair_reserved {a : Nat} (ha : ReservedAt a) : isPair a = false := by simp [isPair, fieldsAt_reserved ha]

/-- An access of whole words, all of them in a reserved region, is one part for every word (R47). -/
theorem regParts_reserved (gone : Bool) {a len : Nat} (pos : 0 < len) (short : len ≤ 256) (words : len % 4 = 0) (fits : a + len ≤ 2 ^ 24)
    (ha : ∀ i < len / 4, ReservedAt (a + 4 * i)) :
    regParts gone 0 (2 ^ 24) a len = (upto (len / 4)).map fun i => { at_ := 4 * i, len := 4, place := .host (a + 4 * i) } := by
  have start : ReservedAt a := ha 0 (by omega)
  have aligned : a % 4 = 0 := start.1
  have inside : ¬2 ^ 24 ≤ a := by omega
  unfold regParts
  simp only [Nat.zero_add, if_neg inside]
  rw [if_neg (by simp; omega), if_neg (by simp [isPair_reserved start, crosses_reserved start])]
  refine List.map_congr_left fun i hi => ?_
  have hi : i < len / 4 := List.mem_range.mp hi
  have room : ¬2 ^ 24 < a + 4 * i + 4 := by omega
  simp only [if_neg room, regSpot, crosses_reserved (ha i hi), Bool.false_eq_true, if_false]

theorem slice_length (bs : List Byte) (o n : Nat) : (slice bs o n).length = n := by
  simp only [slice, List.length_append, List.length_take, List.length_drop, List.length_replicate]
  omega

/-- A write of a reserved word leaves the access and the state as they are. -/
theorem runPart_reserved_write (from_ : Nat) (data : List Byte) {p : Part} (hp : p.Reserved) {x : FieldAcc × State} (hw : x.1.op ≠ 1) :
    runPart from_ data p x = x := by
  obtain ⟨hlen, r, hplace, hr⟩ := hp
  simp [runPart, hplace, hw, hlen, writePart, slice_length, hostWrite_reserved from_ _ _ _ hr]

/-- A read of a reserved word is a part that has ended well with four zero bytes, and leaves the state as it is. -/
theorem runPart_reserved_read (from_ : Nat) (data : List Byte) {p : Part} (hp : p.Reserved) {x : FieldAcc × State} (hw : x.1.op = 1)
    (up : x.2.h.boot.inReset = false) : runPart from_ data p x = (x.1.part p.at_ 0 (List.replicate 4 0), x.2) := by
  obtain ⟨hlen, r, hplace, hr⟩ := hp
  have zeros : leBytes 4 0 = List.replicate 4 0 := rfl
  simp only [runPart, up, hplace, hw, hlen, readPart, hostRead_reserved _ _ _ hr, zeros, bne_self_eq_false, Bool.false_eq_true, if_false, Nat.reduceBEq]

theorem runParts_reserved_write (from_ : Nat) (data : List Byte) {ps : List Part} (hps : ∀ p ∈ ps, p.Reserved) {x : FieldAcc × State} (hw : x.1.op ≠ 1) :
    runParts from_ data ps x = x := by
  induction ps with
  | nil => rfl
  | cons p ps ih =>
    obtain ⟨hp, hps⟩ := List.forall_mem_cons.mp hps
    rw [runParts, runPart_reserved_write from_ data hp hw, ih hps]

theorem runParts_reserved_read (from_ : Nat) (data : List Byte) {ps : List Part} (hps : ∀ p ∈ ps, p.Reserved) {a : FieldAcc} {s : State} (hw : a.op = 1)
    (up : s.h.boot.inReset = false) :
    runParts from_ data ps (a, s) = ({ a with got := a.got ++ ps.map fun p => (p.at_, List.replicate 4 0) }, s) := by
  induction ps generalizing a with
  | nil => simp [runParts]
  | cons p ps ih =>
    obtain ⟨hp, hps⟩ := List.forall_mem_cons.mp hps
    rw [runParts, runPart_reserved_read from_ data hp hw up, ih hps (a := a.part p.at_ 0 _) hw]
    simp [FieldAcc.part, firstBad]

/-! ### The access as a whole -/

theorem patch_zeros (n o k : Nat) : patch (List.replicate n 0) o (List.replicate k 0) = List.replicate n 0 := by
  simp only [patch, List.take_replicate, List.drop_replicate, List.length_replicate, List.replicate_append_replicate]
  congr 1
  omega

theorem foldl_patch_zeros (n : Nat) {got : List (Nat × List Byte)} (h : ∀ g ∈ got, g.2 = List.replicate 4 0) :
    got.foldl (fun b p => patch b p.1 p.2) (List.replicate n 0) = List.replicate n 0 := by
  induction got with
  | nil => rfl
  | cons g got ih =>
    obtain ⟨hg, hgot⟩ := List.forall_mem_cons.mp h
    rw [List.foldl_cons, hg, patch_zeros, ih hgot]

/-- An access whose parts all read zeros has read zeros. -/
theorem FieldAcc.bytes_zeros (a : FieldAcc) (h : ∀ g ∈ a.got, g.2 = List.replicate 4 0) : a.bytes = List.replicate a.len 0 :=
  foldl_patch_zeros a.len h

/-- An access none of whose parts waits for the barrier ends with what its parts leave. -/
theorem performParts_ended {from_ : Nat} {data : List Byte} {a : FieldAcc} {ps : List Part} {s : State} {x : FieldAcc × State}
    (run : runParts from_ data ps
      ({ a with acc := s.h.brg.nextAcc, left := 0, got := [], bad := none }, s.withH { s.h with brg.nextAcc := s.h.brg.nextAcc + 1 }) = x)
    (up : x.2.h.boot.inReset = false) (done : x.1.left = 0) :
    performParts from_ data a ps s = x.2.withH (x.2.h.endAcc x.1 x.1.status x.1.bytes) := by
  subst run
  unfold performParts
  rw [if_neg (by rw [up]; decide), if_pos done]

/-- A host read of reserved words alone takes a serial, and its completion carries zeros (R48). -/
theorem performParts_reserved_read (from_ : Nat) (data : List Byte) (a : FieldAcc) {ps : List Part} (s : State) (hps : ∀ p ∈ ps, p.Reserved)
    (host : a.who = 0) (hw : a.op = 1) (up : s.h.boot.inReset = false) :
    performParts from_ data a ps s = s.withH { s.h with
      brg.nextAcc := s.h.brg.nextAcc + 1,
      brg.reads := s.h.brg.reads ++ [{ bar := 0, addr := a.raddr, data := List.replicate a.len 0, ur := false }] } := by
  rw [performParts_ended (runParts_reserved_read from_ data hps hw up) up rfl, FieldAcc.bytes_zeros _ (by simp)]
  simp [FieldAcc.status, HDie.endAcc, host, hw, HDie.hostRead]

/-- A host write of reserved words alone takes a serial and leaves nothing else behind (R48). -/
theorem performParts_reserved_write (from_ : Nat) (data : List Byte) (a : FieldAcc) {ps : List Part} (s : State) (hps : ∀ p ∈ ps, p.Reserved)
    (host : a.who = 0) (hw : a.op ≠ 1) (up : s.h.boot.inReset = false) :
    performParts from_ data a ps s = s.withH { s.h with brg.nextAcc := s.h.brg.nextAcc + 1 } := by
  rw [performParts_ended (runParts_reserved_write from_ data hps hw) up rfl]
  simp [FieldAcc.status, HDie.endAcc, host, hw]

/-- A job whose parts are reserved words alone does not cross the barrier, and is performed at once (R49). -/
theorem Job.start_reserved (j : Job) (s : State) {ps : List Part} (parts : j.parts = some ps) (hps : ∀ p ∈ ps, p.Reserved) :
    j.start s = goOn (performParts j.from_ j.data j.acc ps s) := by
  have stays : j.crosses = false := by
    simp only [Job.crosses, parts, List.any_eq_false]
    intro p hp
    obtain ⟨-, r, hplace, -⟩ := hps p hp
    simp [hplace]
  simp [Job.start, stays, performJob, parts]

/-- The words of an aligned access of one or two words (R47) that begins in a reserved region of BAR0 are all in it. -/
theorem regParts_all_reserved (gone : Bool) {a len : Nat} (fits : a < 2 ^ 24) (size : len = 4 ∨ len = 8) (aligned : a % len = 0)
    (range : (0xF0000 ≤ a ∧ a < 0x800000) ∨ 0x900000 ≤ a) : ∀ p ∈ regParts gone 0 (2 ^ 24) a len, p.Reserved := by
  have word : ∀ i < len / 4, ReservedAt (a + 4 * i) := by
    unfold ReservedAt
    rcases size with rfl | rfl <;> omega
  rw [regParts_reserved gone (by omega) (by omega) (by omega) (by rcases size with rfl | rfl <;> omega) word]
  intro p hp
  obtain ⟨i, hi, rfl⟩ := List.mem_map.mp hp
  exact ⟨rfl, _, rfl, word i (List.mem_range.mp hi)⟩

/-- BAR0 takes an access of a size and alignment of R47 (a read only while fewer than 32 BAR4 reads are outstanding, R206) as a job. -/
theorem bar0_accepted {wr : Bool} {a len : Nat} (data : List Byte) {s : State} (attached : s.h.hostAttached = true) (up : s.h.pcieUp = true)
    (room : wr = true ∨ s.h.npFull = false) (size : len = 4 ∨ len = 8) (aligned : a % len = 0) :
    bar0 wr a len data s = (barJob wr a len data s.h).start s := by
  have reached : s.h.reached 0 = true := by simp [HDie.reached, up, HDie.bars, attached]
  have accepted : (!wr && s.h.npFull) = false := by rcases room with h | h <;> simp [h]
  unfold bar0
  rcases size with rfl | rfl <;> simp [reached, accepted, aligned]

/-- Settles O51. Every part of the access is a reserved word, so it is performed at once, and what it leaves is what its parts leave. -/
theorem reservedRegions : Obligations.ReservedRegions := by
  intro s a len data up attached link room size aligned range h zero
  have parts := regParts_all_reserved s.h.fieldGone a.isLt size aligned range
  constructor
  · refine onHost_eq up ?_
    rw [bar0_accepted data attached link (.inr room) size aligned, Job.start_reserved _ s rfl parts,
      performParts_reserved_read _ _ _ s parts rfl rfl up]
    rfl
  · refine onHost_eq up ?_
    rw [bar0_accepted data attached link (.inl rfl) size aligned, Job.start_reserved _ s rfl parts,
      performParts_reserved_write _ _ _ s parts rfl (by simp [barJob]) up]

end Sys2Proof.Machine
end

