-- ==== Sys2Proof/Proofs/ReleasedElements.lean ====
section
/-! A GET write of a CAN receive queue (R303). Clearing NEW is a narrow write of element memory (R362), so the rules come in three layers: work on one of the memory
instances changes no register but its own; on the field die it changes that, what the instances keep, and what is reported and asked; and clearing NEW along the
released stretch of the ring of 64 elements changes each of them once. -/
namespace Sys2Proof.Machine

/-! ### Values by key -/

theorem aget_ains_same {α : Type} {l : List (Nat × α)} {k : Nat} (h : ∀ e ∈ l, e.1 ≠ k) (v d : α) : aget (ains l k v) k d = v := by
  induction l with
  | nil => simp [ains, aget]
  | cons e l ih =>
    obtain ⟨he, hl⟩ := List.forall_mem_cons.mp h
    simp only [ains]
    split
    · simp [aget]
    · simp [aget, he, ih hl]

theorem aget_ains_other {α : Type} (l : List (Nat × α)) {j k : Nat} (h : k ≠ j) (v d : α) : aget (ains l j v) k d = aget l k d := by
  induction l with
  | nil => simp [ains, aget, h.symm]
  | cons e l ih =>
    simp only [ains]
    split
    · simp [aget, h.symm]
    · simp [aget, ih]

theorem aget_adel_other {α : Type} (l : List (Nat × α)) {j k : Nat} (h : k ≠ j) (d : α) : aget (adel l j) k d = aget l k d := by
  induction l with
  | nil => rfl
  | cons e l ih =>
    by_cases he : e.1 = j
    · simpa [adel, aget, he, h.symm] using ih
    · simpa [adel, aget, he] using congrArg (if e.1 = k then e.2 else ·) ih

@[simp] theorem aget_aput_same {α : Type} (l : List (Nat × α)) (k : Nat) (v d : α) : aget (aput l k v) k d = v :=
  aget_ains_same (fun _ he => by simpa using (List.mem_filter.mp he).2) v d

theorem aget_aput_other {α : Type} (l : List (Nat × α)) {j k : Nat} (h : k ≠ j) (v d : α) : aget (aput l j v) k d = aget l k d :=
  (aget_ains_other _ h v d).trans (aget_adel_other l h d)

@[simp] theorem FDie.setElem_elem_same (f : FDie) (k : Nat) (ws : List Nat) : (f.setElem k ws).elem k = ws := aget_aput_same _ _ _ _

theorem FDie.setElem_elem_other (f : FDie) {j k : Nat} (h : k ≠ j) (ws : List Nat) : (f.setElem j ws).elem k = f.elem k := aget_aput_other _ h _ _

/-! ### Work on the memory instances -/

/-- The field lies in the i-th 0x40 bytes from 0x9_1000 on, where the registers of the memory instances stand (Table 15.5, R370). -/
def Fld.OfInstance (i : Nat) (G : Fld) : Prop := 8 * (0x91000 + 0x40 * i) ≤ G.key ∧ G.key < 8 * (0x91000 + 0x40 * (i + 1))

/-- Of the fields there, those that reads, writes and the merge buffer change, beside POISON of the remap entries. -/
def instanceFields (i : Nat) : List Fld :=
  [Reg.MEM_ISTAT_MERGE_USED i, Reg.MEM_IEVT_CE i, Reg.MEM_IEVT_UE i, Reg.MEM_IEVT_HARD i, Reg.MEM_IEVT_VOTE i, Reg.MEM_IEVT_MERGE_UE i, Reg.MEM_ICNT_CE i,
    Reg.MEM_ICNT_UE i, Reg.MEM_ILAST_ADDR i, Reg.MEM_ILAST_UE i, Reg.MEM_ILAST_INJ i, Reg.MEM_ILAST_VALID i, Reg.MEM_IINJ_ARM i, Reg.MEM_IINJREC_ADDR i,
    Reg.MEM_IINJREC_VALID i]

theorem ofInstance_of_mem_instanceFields {i : Nat} : ∀ G ∈ instanceFields i, G.OfInstance i := by
  simp only [instanceFields, List.forall_mem_cons, Fld.OfInstance, Fld.key, Reg.MEM_ISTAT_MERGE_USED, Reg.MEM_IEVT_CE, Reg.MEM_IEVT_UE, Reg.MEM_IEVT_HARD,
    Reg.MEM_IEVT_VOTE, Reg.MEM_IEVT_MERGE_UE, Reg.MEM_ICNT_CE, Reg.MEM_ICNT_UE, Reg.MEM_ILAST_ADDR, Reg.MEM_ILAST_UE, Reg.MEM_ILAST_INJ, Reg.MEM_ILAST_VALID,
    Reg.MEM_IINJ_ARM, Reg.MEM_IINJREC_ADDR, Reg.MEM_IINJREC_VALID, List.not_mem_nil, false_imp_iff, implies_true, and_true]
  omega

theorem ofInstance_poison (i : Nat) {k : Nat} (h : k < 8) : (Reg.MEM_IRMP_POISON i k).OfInstance i := by
  simp only [Fld.OfInstance, Fld.key, Reg.MEM_IRMP_POISON]
  omega

/-- `m` and `m'` agree in every register but those that stand under number i of the memory instances. -/
def Mem.InstanceOnly (i : Nat) (m m' : Mem) : Prop := ∀ F : Fld, ¬F.OfInstance i → m'.rd F = m.rd F

namespace Mem.InstanceOnly

variable {i : Nat} {m m' m'' : Mem}

theorem of_regs_eq (h : m'.regs = m.regs) : InstanceOnly i m m' := fun F _ => congrArg (regGet · F) h

theorem refl (m : Mem) : InstanceOnly i m m := of_regs_eq rfl

theorem trans (h : InstanceOnly i m m') (h' : InstanceOnly i m' m'') : InstanceOnly i m m'' := fun F hF => (h' F hF).trans (h F hF)

theorem wr_ofInstance (h : InstanceOnly i m m') {G : Fld} (hG : G.OfInstance i) (v : Nat) : InstanceOnly i m (m'.wr G v) := fun F hF =>
  (regGet_regPut_other _ _ _ _ fun e => hF (by simpa [Fld.OfInstance, e] using hG)).trans (h F hF)

theorem wr (h : InstanceOnly i m m') {G : Fld} {v : Nat} (hG : G ∈ instanceFields i := by simp [instanceFields]) : InstanceOnly i m (m'.wr G v) :=
  h.wr_ofInstance (ofInstance_of_mem_instanceFields G hG) v

theorem ite {p : Prop} [Decidable p] {a b : Mem} (ha : p → InstanceOnly i m a) (hb : ¬p → InstanceOnly i m b) : InstanceOnly i m (if p then a else b) := by
  split
  · exact ha ‹_›
  · exact hb ‹_›

end Mem.InstanceOnly

/-- The context found under a number is of that number. -/
@[simp] theorem Mem.ctx_inst (m : Mem) (i : Nat) : (m.ctx i).inst = i := by
  unfold Mem.ctx
  cases h : m.ctxs.find? fun c => c.inst == i with
  | none => rfl
  | some c => simpa using List.find?_some h

namespace Mem.InstanceOnly

variable {i : Nat} {m m' : Mem}

theorem setCtx (h : InstanceOnly i m m') {c : MemCtx} (hc : c.inst = i := by simp) : InstanceOnly i m (m'.setCtx c) := by
  subst hc
  exact (h.trans (of_regs_eq rfl)).wr

theorem fault (h : InstanceOnly i m m') (kind a access : Nat) : InstanceOnly i m (m'.fault i kind a access) := h

theorem last (h : InstanceOnly i m m') (a : Nat) (ue : Bool) : InstanceOnly i m (m'.last i a ue) := h.wr.wr.wr.wr

theorem candidate (h : InstanceOnly i m m') (a cause : Nat) : InstanceOnly i m (m'.candidate i a cause) := .ite (fun _ => h) fun _ => h

theorem corrected (h : InstanceOnly i m m') (a access : Nat) : InstanceOnly i m (m'.corrected i a access) := by
  refine .ite (fun _ => candidate (setCtx ?_) a 1) fun _ => setCtx ?_
  all_goals exact .ite (fun _ => h.wr.wr.last a false) fun _ => (h.wr.wr.last a false).fault 0x10 a access

theorem uncorrectable (h : InstanceOnly i m m') (a access : Nat) : InstanceOnly i m (m'.uncorrectable i a access) :=
  (h.wr (G := Reg.MEM_ICNT_UE i).wr.last a true).fault 0x11 a access

theorem setBad (h : InstanceOnly i m m') (a mask : Nat) : InstanceOnly i m (m'.setBad i a mask) := h.setCtx

theorem reread (h : InstanceOnly i m m') (a access : Nat) (again : Bool) : InstanceOnly i m (m'.reread i a access again) :=
  .ite (fun _ => (h.wr.fault 0x12 a access).candidate a 0) fun _ => .ite (fun _ => (h.setCtx.wr.fault 0x12 a access).candidate a 0) fun _ => h

theorem read (h : InstanceOnly i m m') (a access found : Nat) (again vote : Bool) : InstanceOnly i m (m'.read i a access found again vote).1 := by
  have voted : InstanceOnly i m (if vote then (m'.corrected i a access).wr (Reg.MEM_IEVT_VOTE i) 1 else m') :=
    .ite (fun _ => (h.corrected a access).wr) fun _ => h
  have fixed := voted.corrected a access
  simp only [Mem.read, apply_ite Prod.fst]
  refine .ite (fun _ => h) fun _ => .ite (fun _ => voted) fun _ => .ite (fun _ => ?wrong) fun _ => .ite (fun _ => ?merging) fun _ => ?written
  case wrong => exact (ite (fun _ => voted) fun _ => voted.setBad a _).uncorrectable a access
  case merging => exact .ite (fun _ => fixed) fun _ => fixed.setBad a 1
  case written => exact (fixed.setBad a 0).reread a access again

theorem injectAt (h : InstanceOnly i m m') (a : Nat) : InstanceOnly i m (m'.injectAt i a) := (h.setBad a _).wr.wr

theorem validate (h : InstanceOnly i m m') (a n : Nat) : InstanceOnly i m (m'.validate i a n) := .ite (fun _ => h) fun _ => h

/-- A whole write clears POISON of the remap entries of its word (R365). -/
theorem clearPoison (h : InstanceOnly i m m') (a : Nat) {ks : List Nat} (hks : ∀ k ∈ ks, k < 8) : InstanceOnly i m (ks.foldl
    (fun x k => if x.rd (Reg.MEM_IRMP_EN i k) == 1 && x.rd (Reg.MEM_IRMP_ADDR i k) == a then x.wr (Reg.MEM_IRMP_POISON i k) 0 else x) m') := by
  induction ks generalizing m' with
  | nil => exact h
  | cons k ks ih =>
    obtain ⟨hk, hks⟩ := List.forall_mem_cons.mp hks
    exact ih (.ite (fun _ => h.wr_ofInstance (ofInstance_poison i hk) 0) fun _ => h) hks

theorem write (h : InstanceOnly i m m') (a : Nat) : InstanceOnly i m (m'.write i a) := by
  have cleared := ((h.setCtx (c := { m'.ctx i with merge := (m'.ctx i).merge.filter fun e => e.addr != a })).setBad a 0).validate a 1 |>.clearPoison a
    (ks := upto 8) fun k hk => List.mem_range.mp hk
  unfold Mem.write
  dsimp only
  exact .ite (fun _ => cleared.wr.injectAt a) fun _ => .ite (fun _ => cleared.wr) fun _ => cleared

theorem writeBack (h : InstanceOnly i m m') (e : MergeEnt) (found : Nat) : InstanceOnly i m (m'.writeBack i e found) := by
  have old := (h.setCtx (c := { m'.ctx i with merge := (m'.ctx i).merge.filter fun x => x.addr != e.addr })).read e.addr 0xD found false false
  exact .ite (fun _ => old.wr.setBad e.addr _) fun _ => old.write e.addr

/-- A narrow write changes no register but those of the memory it is made in (R362). -/
theorem narrow (h : InstanceOnly i m m') (a mask : Nat) : InstanceOnly i m (m'.narrow i a mask) := by
  refine .ite (fun _ => h.writeBack _ 0) fun _ => setCtx ?room
  case room =>
    split
    · exact .ite (fun _ => h.writeBack _ 0) fun _ => h
    · exact h

end Mem.InstanceOnly

/-! ### What work of element memory changes on the field die -/

/-- The fields that a report of the field die changes (R387). -/
def reportKeys : List Nat := [Reg.FFL_SENT_COUNT.key, Reg.FFL_STAT_HELD.key, Reg.FFL_HOLDDROP_COUNT.key]

/-- From `f` to `g` memory instances have worked: beside their registers in block MEM, what they keep, and what was reported and asked of the host die, only fields
with a key of `own` have changed. -/
structure FDie.MemWork (own : List Nat) (f g : FDie) : Prop where
  same : g = { f with regs := g.regs, mems := g.mems, asks := g.asks, bar := g.bar, held := g.held, free := g.free }
  rd : ∀ F : Fld, F.key ∉ own → F.key < 8 * 0x90000 ∨ 8 * 0xA0000 ≤ F.key → g.rd F = f.rd F

namespace FDie.MemWork

variable {own : List Nat} {f g k : FDie}

theorem refl (f : FDie) : MemWork own f f := ⟨rfl, fun _ _ _ => rfl⟩

theorem trans (h : MemWork own f g) (h' : MemWork own g k) : MemWork own f k where
  same := by rw [h'.same, h.same]
  rd F hF hF' := (h'.rd F hF hF').trans (h.rd F hF hF')

theorem elem (h : MemWork own f g) (i : Nat) : g.elem i = f.elem i := by rw [h.same]; rfl

/-- Which elements the die holds does not matter. -/
theorem withElems (h : MemWork own f g) (es : List (Nat × List Nat)) : MemWork own { f with elems := es } { g with elems := es } :=
  ⟨congrArg ({ · with elems := es }) h.same, h.rd⟩

theorem wr (h : MemWork own f g) {F : Fld} (hF : F.key ∈ own) (v : Nat) : MemWork own f (g.wr F v) :=
  h.trans ⟨rfl, fun G hG _ => FDie.rd_wr_other g F G v fun e => hG (e ▸ hF)⟩

theorem want (h : MemWork own f g) (func d0 d1 ctx : Nat) : MemWork own f (g.want func d0 d1 ctx) := h.trans ⟨rfl, fun _ _ _ => rfl⟩

section Reports

variable (hown : reportKeys ⊆ own)
include hown

theorem report (h : MemWork own f g) (m : FaultMsg) : MemWork own f (g.report m) := by
  have sent : MemWork own f (g.toHost (faultMsg m)) := h.trans ⟨rfl, fun _ _ _ => rfl⟩
  unfold FDie.report
  split
  · exact sent.wr (hown (by simp [reportKeys])) _
  · split
    · exact (h.wr (hown (by simp [reportKeys])) _).trans ⟨rfl, fun _ _ _ => rfl⟩
    · exact h.wr (hown (by simp [reportKeys])) _

theorem fieldReports (h : MemWork own f g) (xs : List MemFault) : MemWork own f (fieldReports xs g) := by
  induction xs generalizing g with
  | nil => exact h
  | cons x xs ih =>
    have drawn : MemWork own f { g with free := g.free + 1 } := h.trans ⟨rfl, fun _ _ _ => rfl⟩
    exact ih (drawn.report hown _)

theorem memDone {i : Nat} (hi : i < 960) {m : Mem} (hm : Mem.InstanceOnly i f.mem m) (full : Bool) : MemWork own f (f.memDone m full) := by
  have worked : MemWork own f { f with regs := m.regs, mems := m.ctxs } :=
    ⟨rfl, fun F _ outside => hm F (by unfold Fld.OfInstance; omega)⟩
  have told := worked.fieldReports hown m.faults
  refine List.foldlRecOn m.cands _ ?counted fun g hg c _ => hg.want _ _ _ _
  case counted =>
    split
    · exact told
    · exact told.want _ _ _ _

theorem narrowWord (f : FDie) {i : Nat} (hi : i < 960) (a mask : Nat) : MemWork own f (f.narrowWord i a mask) :=
  memDone hown hi ((Mem.InstanceOnly.refl f.mem).narrow a mask) false

end Reports

end FDie.MemWork

/-! ### Clearing NEW (R303) -/

/-- The words of a receive element with NEW, bit 31 of E1, clear (Table 12.2). -/
def withoutNew (e : List Nat) : List Nat := e.set 1 (wordAt e 1 % 2 ^ 31)

/-- The die after NEW of one element has been cleared. -/
def FDie.clearNewAt (f : FDie) (key : Nat) : FDie :=
  (f.narrowWord (elemWord key).1 (elemWord key).2 0xF0).setElem key (withoutNew (f.elem key))

theorem clearNew_succ (n j k g : Nat) (f : FDie) : clearNew n j (k + 1) g f = clearNew n j k (g + 1) (f.clearNewAt (rxKey n j (g % 64))) := rfl

/-- The elements of controller n stand in number 97 + n of the memory instances (Table 15.1), which block MEM has room for. -/
theorem elemWord_rxKey_lt {n j i : Nat} (hn : n < 16) (hj : j < 2) (hi : i < 64) : (elemWord (rxKey n j i)).1 < 960 := by
  simp only [elemWord, rxKey]
  omega

theorem rxKey_inj {n j i i' : Nat} : rxKey n j i = rxKey n j i' ↔ i = i' := by simp [rxKey]

theorem FDie.narrowWord_elem (f : FDie) {i : Nat} (hi : i < 960) (a mask k : Nat) : (f.narrowWord i a mask).elem k = f.elem k :=
  (MemWork.narrowWord (own := reportKeys) (List.Subset.refl _) f hi a mask).elem k

theorem FDie.clearNewAt_elem_same (f : FDie) (key : Nat) : (f.clearNewAt key).elem key = withoutNew (f.elem key) := FDie.setElem_elem_same _ _ _

section

variable {n j : Nat} (hn : n < 16) (hj : j < 2)
include hn hj

theorem FDie.clearNewAt_elem_other (f : FDie) {i x : Nat} (hi : i < 64) (h : x ≠ rxKey n j i) : (f.clearNewAt (rxKey n j i)).elem x = f.elem x :=
  (FDie.setElem_elem_other _ h _).trans (f.narrowWord_elem (elemWord_rxKey_lt hn hj hi) _ _ x)

/-- Clearing NEW in `k` elements from `g` on leaves every other element as it is. -/
theorem clearNew_elem_other (f : FDie) {k g x : Nat} (h : ∀ t < k, x ≠ rxKey n j ((g + t) % 64)) : (clearNew n j k g f).elem x = f.elem x := by
  induction k generalizing g f with
  | zero => rfl
  | succ k ih =>
    have later : ∀ t < k, x ≠ rxKey n j ((g + 1 + t) % 64) := fun t ht => by simpa [Nat.add_assoc, Nat.add_comm 1] using h (t + 1) (by omega)
    rw [clearNew_succ, ih _ later, f.clearNewAt_elem_other hn hj (Nat.mod_lt _ (by decide)) (by simpa using h 0)]

/-- Of up to 64 elements in a row no two are the same one, so each loses NEW and nothing else. -/
theorem clearNew_elem_released (f : FDie) {k g t : Nat} (hk : k ≤ 64) (ht : t < k) :
    (clearNew n j k g f).elem (rxKey n j ((g + t) % 64)) = withoutNew (f.elem (rxKey n j ((g + t) % 64))) := by
  induction k generalizing g f t with
  | zero => omega
  | succ k ih =>
    rw [clearNew_succ]
    cases t with
    | zero =>
      rw [clearNew_elem_other hn hj _ (fun t ht => by rw [ne_eq, rxKey_inj]; omega)]
      exact f.clearNewAt_elem_same _
    | succ t =>
      have apart : rxKey n j ((g + (t + 1)) % 64) ≠ rxKey n j (g % 64) := by rw [ne_eq, rxKey_inj]; omega
      have rest := ih (f.clearNewAt (rxKey n j (g % 64))) (g := g + 1) (t := t) (by omega) (by omega)
      rw [show g + 1 + t = g + (t + 1) by omega] at rest
      rw [rest, f.clearNewAt_elem_other hn hj (Nat.mod_lt _ (by decide)) apart]

/-- Beside the elements, clearing NEW changes what narrow writes of their memory change. -/
theorem clearNew_memWork {own : List Nat} (hown : reportKeys ⊆ own) (f : FDie) (k g : Nat) :
    FDie.MemWork own { f with elems := (clearNew n j k g f).elems } (clearNew n j k g f) := by
  induction k generalizing g f with
  | zero => exact .refl f
  | succ k ih =>
    have narrow := FDie.MemWork.narrowWord hown f (elemWord_rxKey_lt hn hj (Nat.mod_lt g (by decide))) (elemWord (rxKey n j (g % 64))).2 0xF0
    exact (narrow.withElems _).trans (ih (f.clearNewAt (rxKey n j (g % 64))) (g + 1))

end

/-! ### The write of GET -/

/-- How many elements of RXQ_j a write of `v` to GET would release (R303). -/
def FDie.releasedBy (f : FDie) (n j v : Nat) : Nat := (v % 64 + 64 - f.rd (Reg.CAN_RXQSTAT_GET n j)) % 64

/-- The keys of the fields of RXQ_j that a GET write changes. -/
def releaseKeys (n j : Nat) : List Nat := [(Reg.CAN_RXQSTAT_GET n j).key, (Reg.CAN_RXQSTAT_FILL n j).key, (Reg.CAN_RXQSTAT_FULL n j).key]

section

variable {f : FDie} {n j v : Nat}

theorem FDie.rxqGet_ignored (h : f.rd (Reg.CAN_RXQSTAT_FILL n j) < f.releasedBy n j v) : f.rxqGet n j v = f := if_pos h

variable (h : f.releasedBy n j v ≤ f.rd (Reg.CAN_RXQSTAT_FILL n j))
include h

theorem FDie.rxqGet_applied : f.rxqGet n j v =
    (((clearNew n j (f.releasedBy n j v) (f.rd (Reg.CAN_RXQSTAT_GET n j)) f).wr (Reg.CAN_RXQSTAT_GET n j) (v % 64)).wr (Reg.CAN_RXQSTAT_FILL n j)
      (f.rd (Reg.CAN_RXQSTAT_FILL n j) - f.releasedBy n j v)).wr (Reg.CAN_RXQSTAT_FULL n j)
        (b2n (decide (f.rd (Reg.CAN_RXQSTAT_FILL n j) - f.releasedBy n j v = 64))) := if_neg (Nat.not_lt.mpr h)

theorem FDie.rxqGet_get : (f.rxqGet n j v).rd (Reg.CAN_RXQSTAT_GET n j) = v % 64 := by
  rw [rxqGet_applied h, rd_wr_other _ _ _ _ (by simp [Fld.key, Reg.CAN_RXQSTAT_GET, Reg.CAN_RXQSTAT_FULL]),
    rd_wr_other _ _ _ _ (by simp [Fld.key, Reg.CAN_RXQSTAT_GET, Reg.CAN_RXQSTAT_FILL]), rd_wr_same]
  exact Nat.mod_mod _ _

theorem FDie.rxqGet_fill (room : f.rd (Reg.CAN_RXQSTAT_FILL n j) ≤ 64) :
    (f.rxqGet n j v).rd (Reg.CAN_RXQSTAT_FILL n j) = f.rd (Reg.CAN_RXQSTAT_FILL n j) - f.releasedBy n j v := by
  rw [rxqGet_applied h, rd_wr_other _ _ _ _ (by simp [Fld.key, Reg.CAN_RXQSTAT_FILL, Reg.CAN_RXQSTAT_FULL]), rd_wr_same]
  exact Nat.mod_eq_of_lt (show _ < 128 by omega)

theorem FDie.rxqGet_full : (f.rxqGet n j v).rd (Reg.CAN_RXQSTAT_FULL n j) =
    b2n (decide (f.rd (Reg.CAN_RXQSTAT_FILL n j) - f.releasedBy n j v = 64)) := by
  rw [rxqGet_applied h, rd_wr_same]
  exact Nat.mod_eq_of_lt (show _ < 2 by unfold b2n; split <;> decide)

theorem FDie.rxqGet_elem (x : Nat) :
    (f.rxqGet n j v).elem x = (clearNew n j (f.releasedBy n j v) (f.rd (Reg.CAN_RXQSTAT_GET n j)) f).elem x := by
  rw [rxqGet_applied h]
  simp

variable (hn : n < 16) (hj : j < 2)
include hn hj

/-- Each element from GET on up to the new GET loses NEW. -/
theorem FDie.rxqGet_elem_released (get : f.rd (Reg.CAN_RXQSTAT_GET n j) < 64) {i : Nat} (hi : i < 64)
    (rel : (i + 64 - f.rd (Reg.CAN_RXQSTAT_GET n j)) % 64 < f.releasedBy n j v) :
    (f.rxqGet n j v).elem (rxKey n j i) = withoutNew (f.elem (rxKey n j i)) := by
  have few : f.releasedBy n j v ≤ 64 := Nat.le_of_lt (Nat.mod_lt _ (by decide))
  have at_ : (f.rd (Reg.CAN_RXQSTAT_GET n j) + (i + 64 - f.rd (Reg.CAN_RXQSTAT_GET n j)) % 64) % 64 = i := by omega
  have cleared := clearNew_elem_released hn hj f few rel (g := f.rd (Reg.CAN_RXQSTAT_GET n j))
  rwa [at_, ← rxqGet_elem h] at cleared

/-- An element outside that stretch stays as it is. -/
theorem FDie.rxqGet_elem_other {x : Nat}
    (kept : ∀ t < f.releasedBy n j v, x ≠ rxKey n j ((f.rd (Reg.CAN_RXQSTAT_GET n j) + t) % 64)) : (f.rxqGet n j v).elem x = f.elem x :=
  (rxqGet_elem h x).trans (clearNew_elem_other hn hj f kept)

theorem FDie.rxqGet_memWork :
    MemWork (releaseKeys n j ++ reportKeys) { f with elems := (f.rxqGet n j v).elems } (f.rxqGet n j v) := by
  have queue {k : Nat} (hk : k ∈ releaseKeys n j) : k ∈ releaseKeys n j ++ reportKeys := List.mem_append_left _ hk
  rw [rxqGet_applied h]
  exact (((clearNew_memWork hn hj (List.subset_append_right _ _) f _ _).wr (queue (by simp [releaseKeys])) _).wr
    (queue (by simp [releaseKeys])) _).wr (queue (by simp [releaseKeys])) _

end

theorem FDie.rd_toRun_other (f : FDie) {F : Fld} (h : F.key ≠ Reg.FGL_PWRSTAT_STATE.key) : f.toRun.rd F = f.rd F := by
  unfold FDie.toRun
  split
  · exact f.rd_wr_other _ _ _ h
  · rfl

/-- A register of a unit finds no die in SLEEP either (R321). -/
theorem onUnit_off {absent : FDie → Bool} {g : FDie → FDie} {s : State} (p : 1 < s.f.power) : onUnit absent g s = .next (afterField s s.f) := onWrite_off p

/-- A GET write that reaches the queue acts on the die in RUN (R321, R322). -/
theorem exec_rxqGetWrite_next {s : State} {n : Fin 16} (j : Fin 2) (v : Word) {g : FDie} (awake : s.f.power ≤ 1) (has : s.f.toRun.lacksCan n = false)
    (e : s.f.toRun.rxqGet n j v.toNat = g) : exec (.rxqGetWrite n j v) s = .next (afterField s g) := by
  rw [exec_rxqGetWrite]
  exact onUnit_eq awake has e

/-- Settles O54. A write that the queue holds enough elements for is the release of the stretch from GET on; any other, one of a unit that the variant lacks, and
one in SLEEP leave what an access leaves. -/
theorem releasedElements : Obligations.ReleasedElements := by
  intro s n j v hget hfill f get fill d released own
  have sameGet : get = s.f.rd (Reg.CAN_RXQSTAT_GET n j) :=
    s.f.rd_toRun_other (by simp only [Fld.key, Reg.CAN_RXQSTAT_GET, Reg.FGL_PWRSTAT_STATE]; omega)
  have sameFill : fill = s.f.rd (Reg.CAN_RXQSTAT_FILL n j) :=
    s.f.rd_toRun_other (by simp only [Fld.key, Reg.CAN_RXQSTAT_FILL, Reg.FGL_PWRSTAT_STATE]; omega)
  have get64 : get < 64 := Nat.lt_of_le_of_lt (Nat.le_of_eq sameGet) hget
  have fill64 : fill ≤ 64 := Nat.le_trans (Nat.le_of_eq sameFill) hfill
  refine ⟨fun awake has room => ?applied, fun awake has beyond => exec_rxqGetWrite_next j v awake has (FDie.rxqGet_ignored beyond),
    fun awake lacks => (exec_rxqGetWrite s n j v).trans (onUnit_absent awake lacks), fun asleep => (exec_rxqGetWrite s n j v).trans (onUnit_off asleep)⟩
  have work := FDie.rxqGet_memWork room n.isLt j.isLt
  refine ⟨f.rxqGet n j v.toNat, exec_rxqGetWrite_next j v awake has rfl, FDie.rxqGet_get room, FDie.rxqGet_fill room fill64, FDie.rxqGet_full room,
    fun i hi rel => FDie.rxqGet_elem_released room n.isLt j.isLt get64 hi rel, fun i hi kept => ?kept, fun k apart => ?apart, work.same, work.rd⟩
  case kept =>
    refine FDie.rxqGet_elem_other room n.isLt j.isLt fun t ht e => kept ?_
    have at_ : i = (get + t) % 64 := rxKey_inj.mp e
    have short : t < d := ht
    have few : d < 64 := Nat.mod_lt _ (by decide)
    show (i + 64 - get) % 64 < d
    omega
  case apart => exact FDie.rxqGet_elem_other room n.isLt j.isLt fun t _ => apart _ (Nat.mod_lt _ (by decide))

end Sys2Proof.Machine
end

