-- ==== Sys2Proof/Proofs/DependenciesAtReset.lean ====
section
/-! The dependency registers at reset (R391): the register file holds no value of theirs, so each reads its reset value, and the bits of those values are read off
as sums of powers of two. -/
namespace Sys2Proof.Machine

/-! ### Registers at reset -/

theorem regFind_of_not_mem {r : Regs} {k : Nat} (h : k ∉ r.map Prod.fst) : regFind r k = none := by
  induction r with
  | nil => rfl
  | cons e r ih =>
    obtain ⟨hne, hr⟩ := not_or.mp fun hk => h (List.mem_cons.mpr hk)
    simpa [regFind, Ne.symm hne] using ih hr

/-- At reset the host die's register file holds the status of functions 9 and 11 alone (R401); a field that it does not hold reads its reset value. -/
theorem HDie.rd_clear {F : Fld} (h : F.key ∉ HDie.clear.regs.map Prod.fst) : HDie.clear.rd F = F.reset := by
  simp [HDie.rd, regGet, regFind_of_not_mem h]

/-- FLT_DEP_d stands above every register that the file holds at reset. -/
theorem rd_FLT_DEP_DOM_reset (d : Nat) : State.reset.h.rd (Reg.FLT_DEP_DOM d) = fltDep d := by
  refine HDie.rd_clear (F := Reg.FLT_DEP_DOM d) ?_
  simp only [HDie.clear, List.map_cons, List.map_nil, List.mem_cons, List.not_mem_nil, or_false, Fld.key, Reg.FLT_DEP_DOM]
  omega

/-! ### The domains that a value names -/

theorem bitOf_eq_testBit (v n : Nat) : bitOf v n = v.testBit n := by
  rw [Nat.testBit_eq_decide_div_mod_eq, ← Nat.shiftRight_eq_div_pow]
  rfl

/-- A power of two names one domain. -/
theorem bitOf_two_pow (k d : Nat) : bitOf (2 ^ k) d = true ↔ d = k := by
  simp [bitOf_eq_testBit, Nat.testBit_two_pow, eq_comm]

/-- The value of FLT_DEP_12 is the Groom's bit and the 36 bits of the field die's domains from 16 on. -/
theorem bitOf_fltDep_12 (d : Nat) : bitOf (fltDep 12) d = true ↔ d = 13 ∨ (16 ≤ d ∧ d ≤ 51) := by
  have parts : fltDep 12 = 2 ^ 13 ||| (2 ^ 36 - 1) <<< 16 := rfl
  rw [parts, bitOf_eq_testBit, Nat.testBit_or, Nat.testBit_shiftLeft, Nat.testBit_two_pow_sub_one, Nat.testBit_two_pow]
  simp only [Bool.or_eq_true, Bool.and_eq_true, decide_eq_true_eq]
  omega

/-- No domain but the barrier link's (12), the ring ports' (2, 3) and the management core's (9) has dependents at reset. -/
theorem fltDep_other {d : Nat} (h12 : d ≠ 12) (h2 : d ≠ 2) (h3 : d ≠ 3) (h9 : d ≠ 9) : fltDep d = 0 := fltDep.eq_5 d h12 h2 h3 h9

/-- Settles O52. Each register reads its reset value, whose bits name the domains of R391. -/
theorem dependenciesAtReset : Obligations.DependenciesAtReset := by
  unfold Obligations.DependenciesAtReset
  intro dep
  have value (d : Nat) : dep d = fltDep d := rd_FLT_DEP_DOM_reset d
  simp only [value]
  exact ⟨rfl, rfl, rfl, rfl, fun _ _ h12 h2 h3 h9 => fltDep_other h12 h2 h3 h9, fun d _ => bitOf_fltDep_12 d,
    fun d _ => ⟨bitOf_two_pow 8 d, bitOf_two_pow 10 d⟩⟩

end Sys2Proof.Machine
end

