-- ==== Sys2Proof/Proofs/OwnerWrites.lean ====
section
/-! Writes of FWU_OWNER (R414): the hub that a write comes from decides between the two outcomes. -/
namespace Sys2Proof.Machine

/-- HUB stands in bits [14:8] of FWU_OWNER. -/
theorem fieldOf_owner_hub (v : Nat) : fieldOf v 8 7 = v / 256 % 128 := by simp [fieldOf, Nat.shiftRight_eq_div_pow]

theorem HDie.ownerWrite_of_owner {h : HDie} {from_ : Nat} (owner : from_ = h.rd Reg.FWU_OWNER_HUB) (v : Nat) : h.ownerWrite from_ v =
    ((h.wr Reg.FWU_OWNER_LOCK (v % 2)).wr Reg.FWU_OWNER_HUB (v / 256 % 128)).wr Reg.FWU_STAT_OWNER_LOCK (v % 2) := by
  rw [← fieldOf_owner_hub]
  exact if_pos (beq_iff_eq.mpr owner)

theorem HDie.ownerWrite_of_other {h : HDie} {from_ : Nat} (other : from_ ≠ h.rd Reg.FWU_OWNER_HUB) (v : Nat) :
    h.ownerWrite from_ v = h.wr Reg.FWU_EVT_REFUSED 1 := if_neg (mt beq_iff_eq.mp other)

/-- Settles O53. A local access counts as the hub's own number and a ring access as its source; that number is the owner's or it is not. -/
theorem ownerWrites : Obligations.OwnerWrites := by
  intro s hub v running h from_
  have source : (hub.map fun x => x.val).getD h.self = from_ := by cases hub <;> rfl
  have outcome {g : HDie} (e : h.ownerWrite from_ v.toNat = g) : exec (.ownerWrite hub v) s = .next (afterHost s g) := by
    rw [exec_ownerWrite]
    exact onH_eq running (source ▸ e)
  exact ⟨fun owner => outcome (HDie.ownerWrite_of_owner owner _), fun other => outcome (HDie.ownerWrite_of_other other _)⟩

end Sys2Proof.Machine
end
